-- ==== Sys2Proof/Word.lean ====
section
/-! DEFINITION. The word types of the model and the plainest conversions between words, bits and bytes. -/

namespace Sys2Proof

/-- One byte (R5). -/
abbrev Byte := BitVec 8

/-- A 32-bit word: a vector element, a bank entry, a row-record word. -/
abbrev W32 := BitVec 32

/-- A 64-bit word: a register. -/
abbrev W64 := BitVec 64

/-- A 128-bit tile instruction (R176). -/
abbrev W128 := BitVec 128

/-- A sparse map: keys with their values, keys strictly rising, no entry equal to the default. -/
abbrev Sparse (α : Type) := List (Nat × α)

/-- A table: keys with their values, keys strictly rising; a key not listed is absent. -/
abbrev Tab (α : Type) := List (Nat × α)

end Sys2Proof
end

