-- ==== Sys2Proof/Syntax.lean ====
section
/-! DEFINITION. The commands of the block: one constructor for each row of spec/opcode_table.json, with the row's
operands. A tile instruction carries every field of its 128-bit layout, the reserved bits included, and the tile that
dispatches it; one of an engine also says whether the engine finds uncorrectable parity on the state that it reads
(`par`, R645). A DCI command carries its submission header. An event carries the unit it happens at and what the
outside world decides. -/

namespace Sys2Proof

/-- MXE_WLOAD (R80). -/
structure WloadArgs where
  wfmt : BitVec 4
  plane : Bool
  sparse : Bool
  wcoded : Bool
  klen : BitVec 9
  ncol : BitVec 10
  wbase : BitVec 16
  wsbase : BitVec 16
  wmbase : BitVec 16
  rsv : BitVec 46
  par : Bool := false
  deriving DecidableEq, Repr

/-- MXE_MMA (R82). -/
structure MmaArgs where
  afmt : BitVec 4
  plane : Bool
  bank : Bool
  accz : Bool
  gen : Bool
  gmask : BitVec 3
  zskip : Bool
  acoded : Bool
  m : BitVec 10
  row0 : BitVec 9
  abase : BitVec 16
  astride : BitVec 12
  asbase : BitVec 16
  rsv : BitVec 44
  par : Bool := false
  deriving DecidableEq, Repr

/-- MXE_DRAIN (R85). -/
structure DrainArgs where
  dest : Bool
  vreg : BitVec 4
  bank : Bool
  clr : Bool
  row0 : BitVec 9
  nrows : BitVec 10
  col0 : BitVec 10
  ncol : BitVec 10
  obase : BitVec 16
  ostride : BitVec 12
  rsv : BitVec 46
  par : Bool := false
  deriving DecidableEq, Repr

/-- The register layout V (R120). -/
structure VArgs where
  n : BitVec 13
  vd : BitVec 4
  va : BitVec 4
  vb : BitVec 4
  vc : BitVec 4
  msk : BitVec 3
  men : Bool
  mz : Bool
  sub : BitVec 3
  ms : BitVec 3
  rmode : BitVec 2
  sat : Bool
  fmt : BitVec 4
  imm : W32
  site : BitVec 12
  rsv : BitVec 29
  par : Bool := false
  deriving DecidableEq, Repr

/-- The memory layout M (R121), of VLD, VST and SST. -/
structure MArgs where
  n : BitVec 13
  vr : BitVec 4
  msk : BitVec 3
  men : Bool
  mz : Bool
  fmt : BitVec 4
  rmode : BitVec 2
  sat : Bool
  tile : BitVec 7
  addr : BitVec 22
  run : BitVec 13
  stride : BitVec 20
  saddr : BitVec 16
  site : BitVec 12
  rsv : BitVec 1
  par : Bool := false
  deriving DecidableEq, Repr

/-- The gather layout G (R122). -/
structure GArgs where
  n : BitVec 13
  vd : BitVec 4
  vb : BitVec 4
  msk : BitVec 3
  men : Bool
  mz : Bool
  fmt : BitVec 4
  tile : BitVec 7
  addr : BitVec 22
  lim : BitVec 22
  rsv : BitVec 39
  par : Bool := false
  deriving DecidableEq, Repr

/-- The Sloe layout S (R123). -/
structure SArgs where
  n : BitVec 13
  vr : BitVec 4
  fmt : BitVec 4
  rmode : BitVec 2
  sat : Bool
  tile : BitVec 7
  daddr : BitVec 22
  baddr : BitVec 22
  site : BitVec 12
  rsv : BitVec 33
  par : Bool := false
  deriving DecidableEq, Repr

/-- VGEOM (R118, R123). -/
structure VGeomArgs where
  rowlen : BitVec 13
  row0 : BitVec 12
  elem0 : BitVec 20
  nostrm : Bool
  rsv : BitVec 74
  par : Bool := false
  deriving DecidableEq, Repr

/-- VFCLR (R123, R136). -/
structure VFclrArgs where
  fmask : BitVec 8
  rsv : BitVec 112
  par : Bool := false
  deriving DecidableEq, Repr

/-- SCAN, layout SC (R270). -/
structure ScanArgs where
  n : BitVec 13
  vd : BitVec 4
  va : BitVec 4
  vb : BitVec 4
  vc : BitVec 4
  rmsk : BitVec 3
  ren : Bool
  amode : BitVec 2
  w : BitVec 13
  rsv : BitVec 72
  par : Bool := false
  deriving DecidableEq, Repr

/-- SRMASK, layout R (R281). -/
structure SrmaskArgs where
  md : BitVec 3
  mode : BitVec 2
  sh : BitVec 3
  p : BitVec 9
  nrows : BitVec 13
  rsv : BitVec 90
  par : Bool := false
  deriving DecidableEq, Repr

/-- ATTN_INIT (R348); `qrows1` is QROWS − 1. -/
structure AttnInitArgs where
  ctx : Bool
  qrows1 : BitVec 7
  dhc : BitVec 2
  qfmt : BitVec 4
  kvfmt : BitVec 4
  pfmt : BitVec 4
  vo : BitVec 4
  vs : BitVec 4
  vqi : BitVec 4
  qbase : BitVec 16
  qstride : BitVec 12
  causal : Bool
  scale : W32
  rsv : BitVec 25
  par : Bool := false
  deriving DecidableEq, Repr

/-- ATTN_STEP (R350). -/
structure AttnStepArgs where
  ctx : Bool
  kbase : BitVec 16
  men : Bool
  vref : BitVec 4
  maddr : BitVec 22
  rsv : BitVec 76
  par : Bool := false
  deriving DecidableEq, Repr

/-- ATTN_FIN (R355). -/
structure AttnFinArgs where
  ctx : Bool
  norm : Bool
  dest : Bool
  obase : BitVec 16
  ostride : BitVec 12
  ofmt : BitVec 4
  rmode : BitVec 2
  sat : Bool
  site : BitVec 12
  save : Bool
  saddr : BitVec 22
  rsv : BitVec 47
  par : Bool := false
  deriving DecidableEq, Repr

/-- ATTN_MERGE (R356). -/
structure AttnMergeArgs where
  ctx : Bool
  pbase : BitVec 16
  pstride : BitVec 12
  psaddr : BitVec 22
  rsv : BitVec 69
  par : Bool := false
  deriving DecidableEq, Repr

/-- ATTN_BWD (R370). -/
structure AttnBwdArgs where
  ctx : Bool
  kbase : BitVec 16
  dkaddr : BitVec 22
  dvaddr : BitVec 22
  rsv : BitVec 59
  par : Bool := false
  deriving DecidableEq, Repr

/-- ATTN_BINIT (R369). -/
structure AttnBinitArgs where
  ctx : Bool
  qrows1 : BitVec 7
  dhc : BitVec 2
  qfmt : BitVec 4
  kvfmt : BitVec 4
  vqi : BitVec 4
  vdq : BitVec 4
  qbase : BitVec 16
  dobase : BitVec 16
  qstride : BitVec 12
  sbase : BitVec 16
  causal : Bool
  scale : W32
  rsv : BitVec 1
  par : Bool := false
  deriving DecidableEq, Repr

/-- ATTN_FUM (R365). -/
structure AttnFumArgs where
  off : BitVec 22
  rsv : BitVec 98
  par : Bool := false
  deriving DecidableEq, Repr

/-- CTRL instructions (R181). -/
structure CtrlArgs where
  target : BitVec 14
  lc : BitVec 2
  fmask : BitVec 8
  sense : Bool
  cmp : BitVec 3
  addr : BitVec 22
  csrc : Bool
  imm : W32
  rsv : BitVec 37
  deriving DecidableEq, Repr

/-- SYNC instructions (R184). -/
structure SyncArgs where
  id : BitVec 8
  n : BitVec 16
  rsv : BitVec 96
  deriving DecidableEq, Repr

/-- XFER instructions (R185). -/
structure XferArgs where
  daddr : BitVec 22
  topair : Bool
  pair : BitVec 2
  rsv : BitVec 95
  par : Bool := false
  deriving DecidableEq, Repr

/-- What every DCI command carries of its submission entry (R531, R534): the issuing function, FLAGS, TAG, TIMEOUT,
PART, and whether a reserved flag or operand bit is set. -/
structure DciHdr where
  fn : Nat
  tag : W32
  fence : Bool
  timeout : W64
  part : Byte
  rsv : Bool
  deriving DecidableEq, Repr

/-- What a reader of coded data found: nothing wrong, one corrected error, or an error it cannot correct
(R643, R646). -/
inductive EccResult where
  | clean
  | corrected (syndrome : W32)
  | uncorrectable (syndrome : W32)
  deriving DecidableEq, Repr

/-- The register blocks of the manual (R213, R253, R332, R457, R494, R514, R601, R634), with the number of the unit. -/
inductive RegBlock where
  | bar0 (fn : Nat)
  | tile (t : Nat)
  | geyser (cluster : Nat)
  | orchard (part : Nat)
  | orchardDev
  | mgtPart (part : Nat)
  | tdm (port : Nat)
  | mgt
  | clk
  | pwr
  deriving DecidableEq, Repr

/-- The fields of configuration space that the manual names: the SR-IOV capability of R503, the sizes and the completion timeout of R499,
and what configuration requests set. -/
inductive CfgReg where
  | totalVFs
  | initialVFs
  | firstVfOffset
  | vfStride
  | numVFs
  | vfEnable
  | ptmEnable
  | busMaster (fn : Nat)
  | maxPayload
  | maxReadRequest
  | completionTimeout
  deriving DecidableEq, Repr

/-- The ranges of the completion timeout (R499). -/
inductive TimeoutRange where
  | a
  | b
  | c
  deriving DecidableEq, Repr

/-- A host configuration request (R499, R503, R505, R528, R529, R630). -/
inductive CfgRequest where
  | busMaster (fn : Nat) (on : Bool)
  | vfEnable (on : Bool)
  | numVFs (n : Nat)
  | ptmEnable (on : Bool)
  | maxPayload (bytes : Nat)
  | maxReadRequest (bytes : Nat)
  | completionTimeout (range : TimeoutRange)
  | read (reg : CfgReg)
  | other
  deriving DecidableEq, Repr

/-- The sensors of R578. -/
inductive Sensor where
  | inputVoltage
  | inputCurrent
  | inputPower
  | junction (die : Nat) (k : Nat)
  | ioJunction (k : Nat)
  | stack (n : Nat)
  | rail (k : Nat)
  | coolantIn
  | coolantOut
  deriving DecidableEq, Repr

/-- The PLLs of R609. -/
inductive Pll where
  | coreA (die : Nat)
  | coreB (die : Nat)
  | fab (die : Nat)
  | xfab
  | hbm (stack : Nat)
  | management
  | audio
  | cxl
  deriving DecidableEq, Repr

/-- The SPDM requests with an effect the manual gives (R529, R588). -/
inductive SpdmMsg where
  | getCertificate (index : Nat)
  | negotiate (slhDsa : Bool) (kem : Bool)
  | challenge (nonce : List Byte)
  | ideKm (doe : Bool) (stream : Nat) (key : BitVec 256) (containment : Bool)
  deriving DecidableEq, Repr

/-- What a host-memory read that a command names brings: the bytes, a failure, or an entry that was not yet visible when its doorbell
arrived (R505, R512). -/
inductive HostRead where
  | data
  | failed
  | early
  deriving DecidableEq, Repr

/-- The PLDM firmware-update requests (R584). -/
inductive PldmFw where
  | transfer (image : List Byte)
  | activate (defer : Bool)
  deriving DecidableEq, Repr

/-- What TDM_FRAME sees on a port's pins: whether the FSYNC edge rises, and the level of DIN at each rising and each falling edge of BCLK
in the frame that the edge ends, from BCLK period 0 on (R466, R467). -/
structure TdmPins where
  rising : Bool
  dinRise : List Bool
  dinFall : List Bool
  deriving DecidableEq, Repr

/-- The rate and the flits of a trained link: SPEED of R516, and whether it runs in 68 B flits (R499, R500). -/
structure LinkRate where
  speed : Nat
  flit68 : Bool
  deriving DecidableEq, Repr

/-- How a range is moved: as a coded region or not (R248), and the offset at which the copy meets an error, if it does (R251). -/
structure MoveHow where
  coded : Bool
  err : Option Nat
  deriving DecidableEq, Repr

/-- What a scheduling step meets: the clusters that it begins on, and whether an entry, a barrier or a semaphore that it reads has an
error that its code cannot correct (R648). -/
structure StepRead where
  clusters : List Nat
  bad : Bool
  deriving DecidableEq, Repr

/-- The commands of the block. -/
inductive Instr where
  -- MATRIX (R77)
  | mxeWload (t : Nat) (a : WloadArgs)
  | mxeMma (t : Nat) (a : MmaArgs)
  | mxeDrain (t : Nat) (a : DrainArgs)
  -- VECTOR (R124)
  | vadd (t : Nat) (a : VArgs)
  | vsub (t : Nat) (a : VArgs)
  | vmul (t : Nat) (a : VArgs)
  | vfma (t : Nat) (a : VArgs)
  | vdiv (t : Nat) (a : VArgs)
  | vmin (t : Nat) (a : VArgs)
  | vmax (t : Nat) (a : VArgs)
  | vrcp (t : Nat) (a : VArgs)
  | vrsqrt (t : Nat) (a : VArgs)
  | vexp (t : Nat) (a : VArgs)
  | vexp2 (t : Nat) (a : VArgs)
  | vlog (t : Nat) (a : VArgs)
  | vtanh (t : Nat) (a : VArgs)
  | vsigm (t : Nat) (a : VArgs)
  | vgelu (t : Nat) (a : VArgs)
  | vsilu (t : Nat) (a : VArgs)
  | vabs (t : Nat) (a : VArgs)
  | vneg (t : Nat) (a : VArgs)
  | vcmp (t : Nat) (a : VArgs)
  | vsel (t : Nat) (a : VArgs)
  | vcvtF2i (t : Nat) (a : VArgs)
  | vcvtI2f (t : Nat) (a : VArgs)
  | vqnt (t : Nat) (a : VArgs)
  | viadd (t : Nat) (a : VArgs)
  | visub (t : Nat) (a : VArgs)
  | vimul (t : Nat) (a : VArgs)
  | viota (t : Nat) (a : VArgs)
  | vred (t : Nat) (a : VArgs)
  | vscan (t : Nat) (a : VArgs)
  | vperm (t : Nat) (a : VArgs)
  | vbci (t : Nat) (a : VArgs)
  | vbce (t : Nat) (a : VArgs)
  | vmov (t : Nat) (a : VArgs)
  | vld (t : Nat) (a : MArgs)
  | vst (t : Nat) (a : MArgs)
  | vgath (t : Nat) (a : GArgs)
  | vlds (t : Nat) (a : SArgs)
  | vsts (t : Nat) (a : SArgs)
  | mand (t : Nat) (a : VArgs)
  | mor (t : Nat) (a : VArgs)
  | mxor (t : Nat) (a : VArgs)
  | mnot (t : Nat) (a : VArgs)
  | mfill (t : Nat) (a : VArgs)
  | mpop (t : Nat) (a : VArgs)
  | vgeom (t : Nat) (a : VGeomArgs)
  | vfclr (t : Nat) (a : VFclrArgs)
  -- SCAN (R269)
  | scan (t : Nat) (a : ScanArgs)
  | srmask (t : Nat) (a : SrmaskArgs)
  | sst (t : Nat) (a : MArgs)
  -- ATTN (R346)
  | attnInit (t : Nat) (a : AttnInitArgs)
  | attnStep (t : Nat) (a : AttnStepArgs)
  | attnFin (t : Nat) (a : AttnFinArgs)
  | attnMerge (t : Nat) (a : AttnMergeArgs)
  | attnBwd (t : Nat) (a : AttnBwdArgs)
  | attnFum (t : Nat) (a : AttnFumArgs)
  | attnBinit (t : Nat) (a : AttnBinitArgs)
  | fumaroleDone (die : Nat)
  -- CTRL, SYNC, XFER (R181, R184, R185)
  | nop (t : Nat) (a : CtrlArgs)
  | loop (t : Nat) (a : CtrlArgs)
  | br (t : Nat) (a : CtrlArgs)
  | brf (t : Nat) (a : CtrlArgs)
  | brw (t : Nat) (a : CtrlArgs)
  | commit (t : Nat) (a : CtrlArgs)
  | halt (t : Nat) (a : CtrlArgs)
  | barwait (t : Nat) (a : SyncArgs)
  | barsig (t : Nat) (a : SyncArgs)
  | semwait (t : Nat) (a : SyncArgs)
  | semsig (t : Nat) (a : SyncArgs)
  | swap (t : Nat) (a : SyncArgs)
  | xreq (t : Nat) (a : XferArgs)
  | xwait (t : Nat) (a : XferArgs)
  | barrierReached (t : Nat)
  | semwaitGrant (job : Nat) (sem : Nat)
  -- tasks and commands
  | schedulingStep (job : Nat) (read : StepRead)
  | commandStart (job : Nat) (cluster : Nat)
  | watchdogExpiry (t : Nat)
  | stageCommit (t : Nat)
  | taskCommit (task : Nat)
  | windowEnd (part : Nat) (window : Nat)
  | cycleTableSwitch (part : Nat)
  | rerunStart (t : Nat)
  | checkRunStart (t : Nat)
  | checkCompare (t : Nat)
  | routeSite (task : Nat) (site : Nat)
  -- Geyser
  | slabIssue (cluster : Nat) (xid : Nat)
  | mergeWaitExpiry (cluster : Nat) (xid : Nat)
  | transactionLanded (cluster : Nat) (xid : Nat) (found : EccResult)
  | placementMove (cluster : Nat) (base : Nat) (k : Nat) (dest : Nat) (how : MoveHow)
  | spillMove (cluster : Nat) (base : Nat) (k : Nat) (dest : Nat) (err : Option Nat)
  -- Orchard feeds and completions
  | feedDb (fn : Nat) (ring : Nat) (value : W64)
  | feedDescriptor (fn : Nat) (ring : Nat) (r : HostRead)
  | payloadLanded (stream : Nat) (ok : Bool)
  | completionPost (job : Nat) (ring : Nat)
  | ringHeadPoll (job : Nat) (ring : Nat)
  -- page unit
  | kvFlush (stream : Nat)
  | swapOutLanded (stream : Nat) (ok : Bool)
  | swapInLanded (stream : Nat) (ok : Bool)
  | autoSwapIn (stream : Nat)
  -- Tyrax work that ends or repeats
  | tableLoadResume (fn : Nat) (tag : W32)
  | commandTimeout (fn : Nat) (tag : W32)
  | jobRelease (job : Nat)
  | audit
  | partZeroDone (part : Nat)
  -- TDM
  | tdmFrame (port : Nat) (time : Nat) (bclks : Nat) (pins : TdmPins)
  | tdmHold (port : Nat) (time : Nat)
  | gapTick (port : Nat)
  -- rings
  | submissionFetch (fn : Nat) (r : HostRead)
  | eventRingWrite (fn : Nat)
  -- scrub, retraining
  | patrolScrub (t : Nat) (found : EccResult)
  | hbmScrub (stack : Nat) (sector : Nat) (found : EccResult)
  | correctedReport (utype : Nat) (unit : Nat)
  | stackRetrain (stack : Nat)
  | retrainDone (stack : Nat) (ok : Bool)
  -- firmware and management
  | fwComponentSwitch (ctype : Nat) (ok : Bool)
  | tyraxWatchdog
  | tyraxReady
  | bootVerify
  | trialBootTimeout
  | logFlush
  | sensorSample (s : Sensor) (value : Option Int)
  -- clocks and power
  | crystalStable (kHz : Nat)
  | crystalFailTimeout
  | freqCheck (pll : Pll) (ppm : Int)
  | fmeasStart (value : W64)
  | fmeasDone (count : Nat)
  | supplySample (mV : Int) (mA : Nat)
  | drainComplete
  | powerOn
  | thermalTick (die : Nat)
  | thermalTrip (die : Nat)
  | powerCapTick
  | tileSleep (t : Nat)
  | sliceDeepSleep (slice : Nat)
  | phase1Done (t : Nat) (pass : Bool)
  | phase2Done (cluster : Nat) (failed : List Nat)
  -- resets and the link
  | mgRstN (low : Bool)
  | hxPerstN
  | linkDown
  | flr (fn : Nat)
  | ptmDialog (ok : Bool) (offset : Int)
  | ptmTimeout
  | ideFailure (stream : Nat)
  | spdmRequest (msg : SpdmMsg)
  | mctpControl (msg : List Byte)
  | pldmMonitoring (s : Option Sensor)
  | pldmFirmwareUpdate (req : PldmFw)
  | logRead (first : Nat) (count : Nat)
  | mpPowerCap (watts : Nat)
  | mpFwRollback (defer : Bool)
  | mpRegisterRead (offset : Nat)
  | mpResetRequest
  -- ring registers
  | sqEnable (fn : Nat)
  | sqDisable (fn : Nat)
  | cqEnable (fn : Nat)
  | cqDisable (fn : Nat)
  | evtEnable (fn : Nat)
  | evtDisable (fn : Nat)
  | dciSqTail (fn : Nat) (value : W32)
  | dciCqHead (fn : Nat) (value : W32)
  | evtRingHead (fn : Nat) (value : W32)
  | msixUnmask (fn : Nat) (vec : Nat)
  -- registers
  | shadowedConfigWrite (b : RegBlock) (offset : Nat) (value : W64)
  | registerWrite (b : RegBlock) (offset : Nat) (half : Bool) (value : W64)
  | pwrSupplyRead
  | tleMxeCntClr (t : Nat) (value : W64)
  | tleVecCntClr (t : Nat) (value : W64)
  | tleCntClr (t : Nat) (value : W64)
  | tleAttCntClr (t : Nat) (value : W64)
  | geyCntClr (cluster : Nat) (value : W64)
  | orcCntClr (part : Nat) (value : W64)
  | orcKvCntClr (part : Nat) (value : W64)
  | mgtPartCntClr (part : Nat) (value : W64)
  | tdmCntClr (port : Nat) (value : W64)
  | pwrCntClr (value : W64)
  -- DCI commands (R539)
  | devQuery (h : DciHdr) (code : Nat) (index : Nat) (buf : W64)
  | partCreate (h : DciHdr) (slices : BitVec 12) (quota : W32)
  | partResize (h : DciHdr) (slices : BitVec 12) (quota : W32)
  | partDestroy (h : DciHdr)
  | partCycleTable (h : DciHdr) (buf : W64)
  | jobLoad (h : DciHdr) (klen : W32) (kgi : W64) (mask : BitVec 96)
  | jobStart (h : DciHdr) (job : Nat)
  | jobStop (h : DciHdr) (job : Nat)
  | streamOpen (h : DciHdr) (dclass : BitVec 2) (sr : Bool) (src : Bool) (prio : BitVec 4) (job : Nat) (irunits : BitVec 16) (cring : BitVec 16) (exitThr : BitVec 16) (driftLimit : W32) (tag : W64) (tokAddr : W64) (ntok : W32)
  | streamFeed (h : DciHdr) (desc : List Byte)
  | streamPause (h : DciHdr) (stream : Nat)
  | streamResume (h : DciHdr) (stream : Nat)
  | streamClose (h : DciHdr) (stream : Nat) (discard : Bool)
  | streamQuery (h : DciHdr) (stream : Nat) (clrDrift : Bool) (buf : W64)
  | prefixInsert (h : DciHdr) (stream : Nat) (n : W32) (tokAddr : W64)
  | prefixDrop (h : DciHdr) (job : Nat) (n : W32) (tokAddr : W64)
  | kvSwapOut (h : DciHdr) (stream : Nat)
  | kvSwapIn (h : DciHdr) (stream : Nat)
  | portConfig (h : DciHdr) (port : Nat) (buf : W64)
  | portStart (h : DciHdr) (port : Nat)
  | portStop (h : DciHdr) (port : Nat)
  | portGroup (h : DciHdr) (members : Byte) (op : Byte)
  | cfgStage (h : DciHdr) (buf : W64)
  | cfgCommit (h : DciHdr) (base : W32)
  | cfgRevert (h : DciHdr) (base : W32)
  | checkStep (h : DciHdr) (stream : Nat) (fum : Bool)
  | checkTile (h : DciHdr) (tile : Nat) (mask : W32) (keep : Bool)
  | checkTileDone (tile : Nat) (failed : W32)
  | attestQuote (h : DciHdr) (nonce : List Byte) (buf : W64)
  | idCert (h : DciHdr) (index : Nat) (buf : W64) (cap : W32)
  | fwStage (h : DciHdr) (img : W64) (len : W32)
  | fwActivate (h : DciHdr) (defer : Bool)
  | fwRollback (h : DciHdr) (defer : Bool)
  | powerCap (h : DciHdr) (cap : BitVec 16)
  | tableLoad (h : DciHdr) (kind : Byte) (job : Nat) (flags : Byte) (rgen : Byte) (gen : Byte) (table : List Byte)
  -- the rest of the host interface, and reserved opcodes
  | configurationRequest (r : CfgRequest)
  | linkTrained (width : Nat) (rate : LinkRate)
  | pllLock (p : Pll)
  | pllLosesLock (p : Pll)
  | h2dSnoop (addr : Nat) (data : List Byte)
  | reservedOpcode (t : Nat) (word : W128)
  deriving DecidableEq, Repr

end Sys2Proof
end

