-- ==== Sys2Proof/Decode.lean ====
section
/-! DEFINITION. The decoder of tile instructions: the class and command that the OPC byte of a 128-bit word picks, and each
layout's fields at their bit positions (R77, R120 to R124, R179, R181, R184, R185, R269, R346); and the decoder of DCI submission
entries (R531, R534, R539). No row of spec/opcode_table.json gives a command bits: the words are those of the manual's instruction
tables, the entries those of its command tables, and the other commands have none. -/

namespace Sys2Proof

/-- Bit i of a word. -/
def wordBit (w : W128) (i : Nat) : Bool := w.getLsbD i

/-- The field of n bits whose lowest is bit `lo`. -/
def wordField (w : W128) (lo n : Nat) : BitVec n := w.extractLsb' lo n

/-- OPC, bits 127:120 of every layout. -/
def opcodeOf (w : W128) : Nat := w.toNat / 2 ^ 120

/-! ## Layouts -/

/-- MXE_WLOAD (R80). -/
def wloadOf (w : W128) : WloadArgs :=
  { wfmt := wordField w 116 4, plane := wordBit w 115, sparse := wordBit w 114, wcoded := wordBit w 113,
    klen := wordField w 104 9, ncol := wordField w 94 10, wbase := wordField w 78 16, wsbase := wordField w 62 16,
    wmbase := wordField w 46 16, rsv := wordField w 0 46 }

/-- MXE_MMA (R82). -/
def mmaOf (w : W128) : MmaArgs :=
  { afmt := wordField w 116 4, plane := wordBit w 115, bank := wordBit w 114, accz := wordBit w 113,
    gen := wordBit w 112, gmask := wordField w 109 3, zskip := wordBit w 108, acoded := wordBit w 107,
    m := wordField w 97 10, row0 := wordField w 88 9, abase := wordField w 72 16, astride := wordField w 60 12,
    asbase := wordField w 44 16, rsv := wordField w 0 44 }

/-- MXE_DRAIN (R85). -/
def drainOf (w : W128) : DrainArgs :=
  { dest := wordBit w 119, vreg := wordField w 115 4, bank := wordBit w 114, clr := wordBit w 113,
    row0 := wordField w 104 9, nrows := wordField w 94 10, col0 := wordField w 84 10, ncol := wordField w 74 10,
    obase := wordField w 58 16, ostride := wordField w 46 12, rsv := wordField w 0 46 }

/-- Layout V (R120). -/
def vOf (w : W128) : VArgs :=
  { n := wordField w 107 13, vd := wordField w 103 4, va := wordField w 99 4, vb := wordField w 95 4,
    vc := wordField w 91 4, msk := wordField w 88 3, men := wordBit w 87, mz := wordBit w 86,
    sub := wordField w 83 3, ms := wordField w 80 3, rmode := wordField w 78 2, sat := wordBit w 77,
    fmt := wordField w 73 4, imm := wordField w 41 32, site := wordField w 29 12, rsv := wordField w 0 29 }

/-- Layout M (R121). -/
def mOf (w : W128) : MArgs :=
  { n := wordField w 107 13, vr := wordField w 103 4, msk := wordField w 100 3, men := wordBit w 99,
    mz := wordBit w 98, fmt := wordField w 94 4, rmode := wordField w 92 2, sat := wordBit w 91,
    tile := wordField w 84 7, addr := wordField w 62 22, run := wordField w 49 13, stride := wordField w 29 20,
    saddr := wordField w 13 16, site := wordField w 1 12, rsv := wordField w 0 1 }

/-- Layout G (R122). -/
def gOf (w : W128) : GArgs :=
  { n := wordField w 107 13, vd := wordField w 103 4, vb := wordField w 99 4, msk := wordField w 96 3,
    men := wordBit w 95, mz := wordBit w 94, fmt := wordField w 90 4, tile := wordField w 83 7,
    addr := wordField w 61 22, lim := wordField w 39 22, rsv := wordField w 0 39 }

/-- Layout S (R123). -/
def sOf (w : W128) : SArgs :=
  { n := wordField w 107 13, vr := wordField w 103 4, fmt := wordField w 99 4, rmode := wordField w 97 2,
    sat := wordBit w 96, tile := wordField w 89 7, daddr := wordField w 67 22, baddr := wordField w 45 22,
    site := wordField w 33 12, rsv := wordField w 0 33 }

/-- VGEOM (R118, R123). -/
def geomOf (w : W128) : VGeomArgs :=
  { rowlen := wordField w 107 13, row0 := wordField w 95 12, elem0 := wordField w 75 20, nostrm := wordBit w 74,
    rsv := wordField w 0 74 }

/-- VFCLR (R123). -/
def fclrOf (w : W128) : VFclrArgs :=
  { fmask := wordField w 112 8, rsv := wordField w 0 112 }

/-- Layout SC (R270). -/
def scanOf (w : W128) : ScanArgs :=
  { n := wordField w 107 13, vd := wordField w 103 4, va := wordField w 99 4, vb := wordField w 95 4,
    vc := wordField w 91 4, rmsk := wordField w 88 3, ren := wordBit w 87, amode := wordField w 85 2,
    w := wordField w 72 13, rsv := wordField w 0 72 }

/-- SRMASK (R281). -/
def srmaskOf (w : W128) : SrmaskArgs :=
  { md := wordField w 117 3, mode := wordField w 115 2, sh := wordField w 112 3, p := wordField w 103 9,
    nrows := wordField w 90 13, rsv := wordField w 0 90 }

/-- ATTN_INIT (R348). -/
def attnInitOf (w : W128) : AttnInitArgs :=
  { ctx := wordBit w 119, qrows1 := wordField w 112 7, dhc := wordField w 110 2, qfmt := wordField w 106 4,
    kvfmt := wordField w 102 4, pfmt := wordField w 98 4, vo := wordField w 94 4, vs := wordField w 90 4,
    vqi := wordField w 86 4, qbase := wordField w 70 16, qstride := wordField w 58 12, causal := wordBit w 57,
    scale := wordField w 25 32, rsv := wordField w 0 25 }

/-- ATTN_STEP (R350). -/
def attnStepOf (w : W128) : AttnStepArgs :=
  { ctx := wordBit w 119, kbase := wordField w 103 16, men := wordBit w 102, vref := wordField w 98 4,
    maddr := wordField w 76 22, rsv := wordField w 0 76 }

/-- ATTN_FIN (R355). -/
def attnFinOf (w : W128) : AttnFinArgs :=
  { ctx := wordBit w 119, norm := wordBit w 118, dest := wordBit w 117, obase := wordField w 101 16,
    ostride := wordField w 89 12, ofmt := wordField w 85 4, rmode := wordField w 83 2, sat := wordBit w 82,
    site := wordField w 70 12, save := wordBit w 69, saddr := wordField w 47 22, rsv := wordField w 0 47 }

/-- ATTN_MERGE (R356). -/
def attnMergeOf (w : W128) : AttnMergeArgs :=
  { ctx := wordBit w 119, pbase := wordField w 103 16, pstride := wordField w 91 12, psaddr := wordField w 69 22,
    rsv := wordField w 0 69 }

/-- ATTN_BWD (R370). -/
def attnBwdOf (w : W128) : AttnBwdArgs :=
  { ctx := wordBit w 119, kbase := wordField w 103 16, dkaddr := wordField w 81 22, dvaddr := wordField w 59 22,
    rsv := wordField w 0 59 }

/-- ATTN_FUM (R365). -/
def attnFumOf (w : W128) : AttnFumArgs :=
  { off := wordField w 98 22, rsv := wordField w 0 98 }

/-- ATTN_BINIT (R369). -/
def attnBinitOf (w : W128) : AttnBinitArgs :=
  { ctx := wordBit w 119, qrows1 := wordField w 112 7, dhc := wordField w 110 2, qfmt := wordField w 106 4,
    kvfmt := wordField w 102 4, vqi := wordField w 98 4, vdq := wordField w 94 4, qbase := wordField w 78 16,
    dobase := wordField w 62 16, qstride := wordField w 50 12, sbase := wordField w 34 16, causal := wordBit w 33,
    scale := wordField w 1 32, rsv := wordField w 0 1 }

/-- CTRL (R181). -/
def ctrlOf (w : W128) : CtrlArgs :=
  { target := wordField w 106 14, lc := wordField w 104 2, fmask := wordField w 96 8, sense := wordBit w 95,
    cmp := wordField w 92 3, addr := wordField w 70 22, csrc := wordBit w 69, imm := wordField w 37 32,
    rsv := wordField w 0 37 }

/-- SYNC (R184). -/
def syncOf (w : W128) : SyncArgs :=
  { id := wordField w 112 8, n := wordField w 96 16, rsv := wordField w 0 96 }

/-- XFER (R185). -/
def xferOf (w : W128) : XferArgs :=
  { daddr := wordField w 98 22, topair := wordBit w 97, pair := wordField w 95 2, rsv := wordField w 0 95 }

/-! ## Opcodes -/

/-- VECTOR commands of layout V (R124). -/
def vectorV (t : Nat) (a : VArgs) : Nat → Option Instr
  | 0x20 => some (.vadd t a)
  | 0x21 => some (.vsub t a)
  | 0x22 => some (.vmul t a)
  | 0x23 => some (.vfma t a)
  | 0x24 => some (.vdiv t a)
  | 0x25 => some (.vmin t a)
  | 0x26 => some (.vmax t a)
  | 0x28 => some (.vrcp t a)
  | 0x29 => some (.vrsqrt t a)
  | 0x2A => some (.vexp t a)
  | 0x2B => some (.vexp2 t a)
  | 0x2C => some (.vlog t a)
  | 0x2D => some (.vtanh t a)
  | 0x2E => some (.vsigm t a)
  | 0x2F => some (.vgelu t a)
  | 0x30 => some (.vsilu t a)
  | 0x31 => some (.vabs t a)
  | 0x32 => some (.vneg t a)
  | 0x34 => some (.vcmp t a)
  | 0x35 => some (.vsel t a)
  | 0x38 => some (.vcvtF2i t a)
  | 0x39 => some (.vcvtI2f t a)
  | 0x3A => some (.vqnt t a)
  | 0x3C => some (.viadd t a)
  | 0x3D => some (.visub t a)
  | 0x3E => some (.vimul t a)
  | 0x3F => some (.viota t a)
  | 0x40 => some (.vred t a)
  | 0x41 => some (.vscan t a)
  | 0x44 => some (.vperm t a)
  | 0x45 => some (.vbci t a)
  | 0x46 => some (.vbce t a)
  | 0x47 => some (.vmov t a)
  | 0x50 => some (.mand t a)
  | 0x51 => some (.mor t a)
  | 0x52 => some (.mxor t a)
  | 0x53 => some (.mnot t a)
  | 0x54 => some (.mfill t a)
  | 0x55 => some (.mpop t a)
  | _ => none

/-- The other VECTOR commands (R124). -/
def vectorOther (t : Nat) (w : W128) : Nat → Option Instr
  | 0x48 => some (.vld t (mOf w))
  | 0x49 => some (.vst t (mOf w))
  | 0x4A => some (.vgath t (gOf w))
  | 0x4C => some (.vlds t (sOf w))
  | 0x4D => some (.vsts t (sOf w))
  | 0x58 => some (.vgeom t (geomOf w))
  | 0x59 => some (.vfclr t (fclrOf w))
  | _ => none

/-- CTRL, XFER and SYNC commands (R181, R184, R185). -/
def sequencerOp (t : Nat) (w : W128) : Nat → Option Instr
  | 0x00 => some (.nop t (ctrlOf w))
  | 0x01 => some (.loop t (ctrlOf w))
  | 0x02 => some (.br t (ctrlOf w))
  | 0x03 => some (.brf t (ctrlOf w))
  | 0x04 => some (.brw t (ctrlOf w))
  | 0x05 => some (.commit t (ctrlOf w))
  | 0x06 => some (.halt t (ctrlOf w))
  | 0x80 => some (.xreq t (xferOf w))
  | 0x81 => some (.xwait t (xferOf w))
  | 0x88 => some (.barwait t (syncOf w))
  | 0x89 => some (.barsig t (syncOf w))
  | 0x8A => some (.semwait t (syncOf w))
  | 0x8B => some (.semsig t (syncOf w))
  | 0x8C => some (.swap t (syncOf w))
  | _ => none

/-- MATRIX, SCAN and ATTN commands (R77, R269, R346). -/
def tensorOp (t : Nat) (w : W128) : Nat → Option Instr
  | 0x10 => some (.mxeWload t (wloadOf w))
  | 0x11 => some (.mxeMma t (mmaOf w))
  | 0x12 => some (.mxeDrain t (drainOf w))
  | 0x60 => some (.scan t (scanOf w))
  | 0x61 => some (.srmask t (srmaskOf w))
  | 0x62 => some (.sst t (mOf w))
  | 0x70 => some (.attnInit t (attnInitOf w))
  | 0x71 => some (.attnStep t (attnStepOf w))
  | 0x72 => some (.attnFin t (attnFinOf w))
  | 0x73 => some (.attnMerge t (attnMergeOf w))
  | 0x74 => some (.attnBwd t (attnBwdOf w))
  | 0x75 => some (.attnFum t (attnFumOf w))
  | 0x76 => some (.attnBinit t (attnBinitOf w))
  | _ => none

/-- The command that a word spells on tile t; none where no class lists its opcode (R179). -/
def decodeWord (t : Nat) (w : W128) : Option Instr :=
  let op := opcodeOf w
  if op < 0x10 then sequencerOp t w op
  else if op < 0x20 then tensorOp t w op
  else if op < 0x60 then (vectorV t (vOf w) op).orElse (fun _ => vectorOther t w op)
  else if op < 0x80 then tensorOp t w op
  else if op < 0x90 then sequencerOp t w op
  else none

/-- The command that a 128-bit instruction word spells, on tile 0; a word of another length spells none. -/
def decodeTableWord (nbits w : Nat) : Option Instr := if nbits = 128 then decodeWord 0 (BitVec.ofNat 128 w) else none

/-! ## DCI submission entries (R531, R534, R539) -/

/-- n bytes of an entry from byte `lo`, little-endian. -/
def entryField (e : List Byte) (lo : Nat) : Nat → Nat
  | 0 => 0
  | n + 1 => (e.getD lo 0).toNat + 256 * entryField e (lo + 1) n

def entry8 (e : List Byte) (lo : Nat) : Byte := e.getD lo 0
def entry32 (e : List Byte) (lo : Nat) : W32 := BitVec.ofNat 32 (entryField e lo 4)
def entry64 (e : List Byte) (lo : Nat) : W64 := BitVec.ofNat 64 (entryField e lo 8)

/-- Bytes of an entry as they stand. -/
def entryBytes (e : List Byte) (lo n : Nat) : List Byte := (List.range n).map (fun i => e.getD (lo + i) 0)

/-- Are the operand bytes outside some ranges (first byte, length) all 0 (R531)? -/
def entryRest (e : List Byte) (used : List (Nat × Nat)) : Bool :=
  (List.range 48).all (fun i => used.any (fun u => decide (u.1 ≤ 16 + i) && decide (16 + i < u.1 + u.2)) || e.getD (16 + i) 0 = 0)

/-- What an entry of a function carries for every command. `part`: byte 16 is PART (groups 0x02 to 0x09 and 0x0C); `used` are its other
operand bytes and `ok` says that their reserved bits are 0. -/
def entryHdr (fn : Nat) (e : List Byte) (part : Bool) (used : List (Nat × Nat)) (ok : Bool) : DciHdr :=
  { fn := fn, tag := entry32 e 4, fence := entryField e 2 2 % 2 = 1, timeout := entry64 e 8,
    part := if part then entry8 e 16 else 0,
    rsv := decide (2 ≤ entryField e 2 2) || !entryRest e ((if part then [(16, 1)] else []) ++ used) || !ok }

/-- Bit 0 of a flags byte, and whether its other bits are 0. -/
def entryFlag (e : List Byte) (lo : Nat) : Bool := entryField e lo 1 % 2 = 1
def entryFlagOk (e : List Byte) (lo : Nat) : Bool := decide (entryField e lo 1 < 2)

/-- Partitions, jobs and streams: groups 0x02 to 0x04 (R544, R546, R550, R552, R553). -/
def entryTenant (fn : Nat) (e : List Byte) (opcode : Nat) : Option Instr :=
  let h := entryHdr fn e true
  let slices := BitVec.ofNat 12 (entryField e 20 2)
  let slicesOk := decide (entryField e 20 2 < 4096)
  let id := entryField e 18 2
  match opcode with
  | 0x0200 => some (.partCreate (h [(20, 2), (24, 4)] slicesOk) slices (entry32 e 24))
  | 0x0201 => some (.partResize (h [(20, 2), (24, 4)] slicesOk) slices (entry32 e 24))
  | 0x0202 => some (.partDestroy (h [] true))
  | 0x0203 => some (.partCycleTable (h [(24, 8)] true) (entry64 e 24))
  | 0x0300 => some (.jobLoad (h [(20, 24)] true) (entry32 e 20) (entry64 e 24) (BitVec.ofNat 96 (entryField e 32 12)))
  | 0x0301 => some (.jobStart (h [(18, 2)] true) id)
  | 0x0302 => some (.jobStop (h [(18, 2)] true) id)
  | 0x0400 =>
    let b := entryField e 17 1
    some (.streamOpen (h [(17, 9), (28, 24)] true) (BitVec.ofNat 2 b) (b / 4 % 2 = 1) (b / 8 % 2 = 1) (BitVec.ofNat 4 (b / 16)) id
      (BitVec.ofNat 16 (entryField e 20 2)) (BitVec.ofNat 16 (entryField e 22 2)) (BitVec.ofNat 16 (entryField e 24 2))
      (entry32 e 28) (entry64 e 32) (entry64 e 40) (entry32 e 48))
  | 0x0401 => some (.streamFeed (h [(32, 32)] true) (entryBytes e 32 32))
  | 0x0402 => some (.streamPause (h [(18, 2)] true) id)
  | 0x0403 => some (.streamResume (h [(18, 2)] true) id)
  | 0x0404 => some (.streamClose (h [(18, 3)] (entryFlagOk e 20)) id (entryFlag e 20))
  | 0x0405 => some (.streamQuery (h [(18, 3), (24, 8)] (entryFlagOk e 20)) id (entryFlag e 20) (entry64 e 24))
  | _ => none

/-- KV, ports, configuration sets, checks and identity: groups 0x05 to 0x09 (R556, R557, R563, R566, R568 to R570). -/
def entryService (fn : Nat) (e : List Byte) (opcode : Nat) : Option Instr :=
  let h := entryHdr fn e true
  let id := entryField e 18 2
  let n := entryField e 17 1
  match opcode with
  | 0x0500 => some (.prefixInsert (h [(18, 14)] true) id (entry32 e 20) (entry64 e 24))
  | 0x0501 => some (.prefixDrop (h [(18, 14)] true) id (entry32 e 20) (entry64 e 24))
  | 0x0502 => some (.kvSwapOut (h [(18, 2)] true) id)
  | 0x0503 => some (.kvSwapIn (h [(18, 2)] true) id)
  | 0x0600 => some (.portConfig (h [(17, 1), (24, 8)] true) n (entry64 e 24))
  | 0x0601 => some (.portStart (h [(17, 1)] true) n)
  | 0x0602 => some (.portStop (h [(17, 1)] true) n)
  | 0x0603 => some (.portGroup (h [(17, 2)] true) (entry8 e 17) (entry8 e 18))
  | 0x0700 => some (.cfgStage (h [(24, 8)] true) (entry64 e 24))
  | 0x0701 => some (.cfgCommit (h [(20, 4)] true) (entry32 e 20))
  | 0x0702 => some (.cfgRevert (h [(20, 4)] true) (entry32 e 20))
  | 0x0800 => some (.checkStep (h [(18, 3)] (entryFlagOk e 20)) id (entryFlag e 20))
  | 0x0801 => some (.checkTile (h [(17, 1), (20, 5)] (entryFlagOk e 24)) n (entry32 e 20) (entryFlag e 24))
  | 0x0900 => some (.attestQuote (h [(24, 40)] true) (entryBytes e 24 32) (entry64 e 56))
  | 0x0901 => some (.idCert (h [(17, 1), (24, 12)] true) n (entry64 e 24) (entry32 e 32))
  | _ => none

/-- Firmware, power and tables: groups 0x0A to 0x0C, and the device query (R541, R571 to R574). -/
def entryDevice (fn : Nat) (e : List Byte) (opcode : Nat) : Option Instr :=
  let h := entryHdr fn e false
  match opcode with
  | 0x0100 => some (.devQuery (h [(16, 4), (24, 8)] true) (entryField e 16 2) (entryField e 18 2) (entry64 e 24))
  | 0x0A00 => some (.fwStage (h [(24, 12)] true) (entry64 e 24) (entry32 e 32))
  | 0x0A01 => some (.fwActivate (h [(20, 1)] (entryFlagOk e 20)) (entryFlag e 20))
  | 0x0A02 => some (.fwRollback (h [(20, 1)] (entryFlagOk e 20)) (entryFlag e 20))
  | 0x0B00 => some (.powerCap (h [(20, 2)] true) (BitVec.ofNat 16 (entryField e 20 2)))
  | 0x0C00 =>
    let bias := entryField e 17 1 = 3
    let gens := decide (entryField e 21 1 < 4) && decide (entryField e 22 1 < 4)
    let ok := gens && (if bias then entryField e 20 1 = 0 && entryField e 28 4 = 0 else decide (entryField e 20 1 < 4))
    some (.tableLoad (entryHdr fn e true [(17, 6), (24, 16)] ok) (entry8 e 17) (entryField e 18 2) (entry8 e 20) (entry8 e 21)
      (entry8 e 22) (entryBytes e 24 16))
  | _ => none

/-- The command that a submission entry of a function spells; none where R539 does not list its opcode. -/
def decodeEntry (fn : Nat) (e : List Byte) : Option Instr :=
  let op := entryField e 0 2
  ((entryTenant fn e op).orElse (fun _ => entryService fn e op)).orElse (fun _ => entryDevice fn e op)

end Sys2Proof
end

