-- ==== Sys2Proof/Config.lean ====
section
/-! DEFINITION. What an implementation fixes and the manual leaves open: constants with no body, so that nothing can
evaluate them (free values; notes/assumptions/2.md and 5.md), and the few figures the manual states. -/

namespace Sys2Proof.Config

/-- The fixed function of each transcendental operation (R60); R59 bounds it, R130 gives the special operands.
Free value: notes/assumptions/5.md. -/
opaque vrcp : W32 → W32
opaque vrsqrt : W32 → W32
opaque vexp : W32 → W32
opaque vexp2 : W32 → W32
opaque vlog : W32 → W32
opaque vtanh : W32 → W32
opaque vsigm : W32 → W32
opaque vgelu : W32 → W32
opaque vsilu : W32 → W32

/-- A fresh byte, word or number whose value the manual does not give, by the counter of State. -/
opaque freeByte : Nat → Byte
opaque freeWord : Nat → W32
opaque freeNat : Nat → Nat

/-- A byte of a resident region that an engine reads at its Caldera address (R231): by the counter of State, the command's start
time, the tile, the instruction's number in the command and the address. -/
opaque residentByte : Nat → Nat → Nat → Nat → Nat → Byte

/-- The HBM channel of a 64 B unit by its address: the manual names the channels and gives no map (R234). -/
opaque hbmChannel : Nat → Nat

/-- Tyrax's random number generator (R587), by the counter of State. -/
opaque random : Nat → BitVec 512

/-- Where JOB_LOAD would place a frame or a section (R428, R432): taken when it meets the rules. -/
opaque placeHint : Nat → Nat

/-- Bytes of an entry of the prefix node table: the manual lists what a node holds and gives no size (R378, R394). -/
opaque nodeBytes : Nat

/-- Host-interface tags of the physical function (R15, R513). -/
def pfTags : Nat := 16

/-- SHAKE256 of a byte string, with a number of output bytes (R580, R590, R591). -/
opaque shake256 : List Byte → Nat → List Byte

/-- SLH-DSA-SHAKE-256f of FIPS 205: the public key of the 96 bytes SK.seed, SK.prf and PK.seed (R587), and the signature in pure mode
under a context string (R591). -/
opaque slhPublic : List Byte → List Byte
opaque slhSign : List Byte → List Byte → List Byte → List Byte

/-- The AES-256-XTS encryption of a 64 B sector under a 512-bit key and a tweak (R589), and the wrapping of a key under an AES-256 key
(R587). -/
opaque xtsEncrypt : BitVec 512 → Nat → List Byte → List Byte
opaque wrapKey : BitVec 256 → BitVec 512 → List Byte

/-- The check of an image's signature (R593). -/
opaque verifyImage : List Byte → Bool

/-- Fused at manufacture (R602, R596) or held in flash (R605). -/
opaque serialFused : W32
opaque floorFused : Fin 65
opaque deviceSecret : List Byte
opaque logSeqFlash : W32
opaque logChkFlash : List Byte

/-- The certificates of R588 in DER: the device certificate of an identity public key and a serial number, which the manufacturing
intermediate signs, that of the intermediate, and that of the root. -/
opaque deviceCert : List Byte → W32 → List Byte
opaque issuerCert : List Byte
opaque rootCert : List Byte

/-- The .kgi format versions that JOB_LOAD accepts (R543). -/
opaque kgiMin : Nat
opaque kgiMax : Nat

/-- The firmware image that bank A of the flash holds at manufacture: its version, rollback counter and component digests, and its bytes
(R575, R593). -/
opaque fwVersionA : W32
opaque fwRbcA : Fin 65
opaque fwDigestA : Nat → List Byte
opaque fwImageA : List Byte

/-- What the management port answers where the manual names an outside protocol only (R584). -/
opaque mctpReply : List Byte → List Byte

/-- The bytes of a CPER record with a content, which the manual names and does not lay out (R671). -/
opaque cperByte : List Byte → Nat → Byte

/-- Codes that the manual names and does not number: the condition of a SUPPLY or THERMAL event (R624, R666), the unit of a
sensor (R665), the code of a log record that is no CHANGE or EVENT (R580). -/
opaque condCode : Nat → Nat
opaque sensorUnit : Nat → Nat
opaque kindCode : Nat → Nat

/-- Number of tiles, clusters and tiles of a cluster (R14, R17). -/
def numTiles : Nat := 96
def numClusters : Nat := 12
def tilesPerCluster : Nat := 8

end Sys2Proof.Config
end

