-- ==== Sys2Proof/Machine/Flags.lean ====
section
/-! DEFINITION. The vector flags (R64): the bits of VFLAGS and the flag rules of exact and rounded results. -/

namespace Sys2Proof.Machine

/-- VFLAGS as a set of bits (R64). -/
abbrev Flags := BitVec 8

def flInvalid : Flags := 0x01
def flDivZero : Flags := 0x02
def flOverflow : Flags := 0x04
def flUnderflow : Flags := 0x08
def flInexact : Flags := 0x10
def flSaturate : Flags := 0x20
def flEmpty : Flags := 0x40
def flRange : Flags := 0x80

/-- The flag when its condition holds. -/
def flIf (c : Bool) (f : Flags) : Flags := if c then f else 0

/-- The flags of a rounded result of finite operands (R64): `inexact` when it differs from the exact one, `tiny` when it
is subnormal or zero, `over` when it is infinite. -/
def arithFlags (inexact tiny ovf : Bool) : Flags :=
  flIf ovf flOverflow ||| flIf inexact flInexact ||| flIf (inexact && tiny) flUnderflow

/-- The flags the matrix engine keeps (R66). -/
def mxFlagMask : Flags := flInvalid ||| flOverflow ||| flSaturate

end Sys2Proof.Machine
end

