-- ==== Sys2Proof/Machine/Float.lean ====
section
/-! DEFINITION. Number formats and arithmetic (spec/02_numerics.md): every format's values, exact arithmetic, the one
rounding rule, conversions, MX blocks, the stochastic generator, and the bounded transcendental functions. -/

namespace Sys2Proof.Machine

/-- A value: NaN, an infinity, or the exact finite number (−1)^neg × mag × 2^exp. -/
inductive FVal where
  | nan
  | inf (neg : Bool)
  | fin (neg : Bool) (mag : Nat) (exp : Int)
  deriving DecidableEq, Repr

/-- Which codes of the top exponent are not finite (R37). -/
inductive FKind where
  | ieee
  | e4m3
  | none
  deriving DecidableEq, Repr

/-- A floating-point layout (R37): exponent bits, mantissa bits, bias. -/
structure FloatFmt where
  eb : Nat
  mb : Nat
  bias : Nat
  kind : FKind
  deriving DecidableEq, Repr

def fp32 : FloatFmt := { eb := 8, mb := 23, bias := 127, kind := .ieee }
def bf16 : FloatFmt := { eb := 8, mb := 7, bias := 127, kind := .ieee }
def fp16 : FloatFmt := { eb := 5, mb := 10, bias := 15, kind := .ieee }
def e4m3 : FloatFmt := { eb := 4, mb := 3, bias := 7, kind := .e4m3 }
def e5m2 : FloatFmt := { eb := 5, mb := 2, bias := 15, kind := .ieee }
def e2m3 : FloatFmt := { eb := 2, mb := 3, bias := 1, kind := .none }
def e3m2 : FloatFmt := { eb := 3, mb := 2, bias := 3, kind := .none }
def e2m1 : FloatFmt := { eb := 2, mb := 1, bias := 1, kind := .none }

/-- The floating-point layout of a format code's elements (R36). -/
def fmtFloat : Nat → Option FloatFmt
  | 0 => some fp32
  | 1 => some bf16
  | 2 => some fp16
  | 3 => some e4m3
  | 4 => some e5m2
  | 5 => some e4m3
  | 6 => some e5m2
  | 7 => some e2m3
  | 8 => some e3m2
  | 9 => some e2m1
  | _ => none

/-- Bits of one element of a format code, without its scale (R36, R42, R47). -/
def fmtBits : Nat → Nat
  | 0 => 32
  | 1 => 16
  | 2 => 16
  | 3 => 8
  | 4 => 8
  | 5 => 8
  | 6 => 8
  | 7 => 6
  | 8 => 6
  | 9 => 4
  | 0xA => 8
  | 0xB => 4
  | 0xC => 32
  | _ => 0

def fmtIsMx (f : Nat) : Bool := 5 ≤ f && f ≤ 9
def fmtIsInt (f : Nat) : Bool := 0xA ≤ f && f ≤ 0xC
/-- Usable as a matrix operand (R36). -/
def fmtMatrix (f : Nat) : Bool := 1 ≤ f && f ≤ 0xB
/-- Usable for vector load and store (R36). -/
def fmtVector (f : Nat) : Bool := f ≤ 0xC
/-- An activation format (R36). -/
def fmtAct (f : Nat) : Bool := 1 ≤ f && f ≤ 4

/-- The unbiased exponent of the least normal value. -/
def FloatFmt.emin (f : FloatFmt) : Int := 1 - (f.bias : Int)

/-- The largest finite magnitude as mantissa and exponent (R37). -/
def FloatFmt.maxMag (f : FloatFmt) : Nat × Int :=
  match f.kind with
  | .ieee => (2 ^ (f.mb + 1) - 1, (2 ^ f.eb - 2 : Int) - f.bias - f.mb)
  | .e4m3 => (2 ^ (f.mb + 1) - 2, (2 ^ f.eb - 1 : Int) - f.bias - f.mb)
  | .none => (2 ^ (f.mb + 1) - 1, (2 ^ f.eb - 1 : Int) - f.bias - f.mb)

/-- The value of a code (R37 to R39). -/
def fdecode (f : FloatFmt) (w : Nat) : FVal :=
  let m := w % 2 ^ f.mb
  let e := w / 2 ^ f.mb % 2 ^ f.eb
  let neg := (w / 2 ^ (f.mb + f.eb)) % 2 = 1
  let top := e = 2 ^ f.eb - 1
  match f.kind with
  | .ieee =>
    if top then (if m = 0 then .inf neg else .nan)
    else if e = 0 then .fin neg m (f.emin - f.mb)
    else .fin neg (2 ^ f.mb + m) ((e : Int) - f.bias - f.mb)
  | .e4m3 =>
    if top ∧ m = 2 ^ f.mb - 1 then .nan
    else if e = 0 then .fin neg m (f.emin - f.mb)
    else .fin neg (2 ^ f.mb + m) ((e : Int) - f.bias - f.mb)
  | .none =>
    if e = 0 then .fin neg m (f.emin - f.mb)
    else .fin neg (2 ^ f.mb + m) ((e : Int) - f.bias - f.mb)

/-- The canonical NaN of a format (R39); a format without NaN has none and gives +0. -/
def canonNan (f : FloatFmt) : Nat :=
  match f.kind with
  | .ieee => (2 ^ f.eb - 1) * 2 ^ f.mb + 2 ^ (f.mb - 1)
  | .e4m3 => 2 ^ (f.eb + f.mb) - 1
  | .none => 0

def signBit (f : FloatFmt) (neg : Bool) : Nat := if neg then 2 ^ (f.eb + f.mb) else 0

/-- The code of an infinity. -/
def infCode (f : FloatFmt) (neg : Bool) : Nat := signBit f neg + (2 ^ f.eb - 1) * 2 ^ f.mb

/-- The code of a magnitude m × 2^q with q the quantum of its binade and m ≤ 2^(mb+1). -/
def encodeMag (f : FloatFmt) (neg : Bool) (m : Nat) (q : Int) : Nat :=
  let m' := if m = 2 ^ (f.mb + 1) then 2 ^ f.mb else m
  let q' := if m = 2 ^ (f.mb + 1) then q + 1 else q
  if m' < 2 ^ f.mb then signBit f neg + m'
  else signBit f neg + (q' + f.mb + f.bias).toNat * 2 ^ f.mb + (m' - 2 ^ f.mb)

/-- The code of the largest finite magnitude. -/
def maxCode (f : FloatFmt) (neg : Bool) : Nat := encodeMag f neg f.maxMag.1 f.maxMag.2

/-- A rounding mode with the generator's r for SR (R49, R52); STREAM is resolved before. -/
inductive RMode where
  | rne
  | rtz
  | sr (r : Nat)
  deriving DecidableEq, Repr

/-- Does a magnitude lo + rem / 2^sh round away from zero (R49, R52)? -/
def roundUp (mode : RMode) (lo rem sh : Nat) : Bool :=
  match mode with
  | .rne => decide (2 * rem > 2 ^ sh) || (decide (2 * rem = 2 ^ sh) && decide (lo % 2 = 1))
  | .rtz => false
  | .sr r => decide ((if 24 ≤ sh then rem / 2 ^ (sh - 24) else rem * 2 ^ (24 - sh)) + r % 2 ^ 24 ≥ 2 ^ 24)

/-- mag × 2^exp rounded to a multiple of 2^q: the multiple, and whether it is inexact. -/
def roundQ (mode : RMode) (mag : Nat) (exp q : Int) : Nat × Bool :=
  if q ≤ exp then (mag * 2 ^ (exp - q).toNat, false)
  else
    let sh := (q - exp).toNat
    let lo := mag / 2 ^ sh
    let rem := mag % 2 ^ sh
    (if roundUp mode lo rem sh then lo + 1 else lo, decide (rem ≠ 0))

/-- The quantum of the binade of a non-zero magnitude in a format. -/
def quantum (f : FloatFmt) (mag : Nat) (exp : Int) : Int :=
  max ((Nat.log2 mag : Int) + exp) f.emin - f.mb

/-- Is m × 2^q beyond the largest finite magnitude? -/
def beyondMax (f : FloatFmt) (m : Nat) (q : Int) : Bool :=
  let (mm, mq) := f.maxMag
  if q ≤ mq then decide (m > mm * 2 ^ (mq - q).toNat) else decide (m * 2 ^ (q - mq).toNat > mm)

/-- The narrowing conversion of R52, R56 and R57 to a scalar floating-point format. -/
def narrow (f : FloatFmt) (mode : RMode) (sat : Bool) (v : FVal) : Nat × Flags :=
  match v with
  | .nan => (canonNan f, 0)
  | .inf neg =>
    match f.kind with
    | .ieee => (infCode f neg, 0)
    | .e4m3 => if sat then (maxCode f neg, flSaturate) else (canonNan f, flInvalid)
    | .none => (maxCode f neg, flSaturate)
  | .fin neg mag exp =>
    if mag = 0 then (signBit f neg, 0)
    else
      let q := quantum f mag exp
      let (m, ix) := roundQ mode mag exp q
      if beyondMax f m q then
        if mode = .rtz then (maxCode f neg, flInexact)
        else match f.kind with
          | .ieee => if sat then (maxCode f neg, flSaturate ||| flInexact)
                     else (infCode f neg, flOverflow ||| flInexact)
          | .e4m3 => if sat then (maxCode f neg, flSaturate ||| flInexact)
                     else (canonNan f, flInvalid ||| flInexact)
          | .none => (maxCode f neg, flSaturate ||| flInexact)
      else (encodeMag f neg m q, arithFlags ix (decide (m < 2 ^ f.mb)) false)

/-! ## FP32 arithmetic (R50, R59) -/

/-- The FP32 code of the canonical NaN. -/
def nan32 : W32 := 0x7FC00000

def dec32 (w : W32) : FVal := fdecode fp32 w.toNat

/-- A value rounded to FP32 by RNE, with the flags of R64 when its operands were finite. -/
def rnd32 (v : FVal) : W32 × Flags :=
  match v with
  | .nan => (nan32, 0)
  | .inf neg => (BitVec.ofNat 32 (infCode fp32 neg), 0)
  | .fin neg mag exp =>
    let (w, fl) := narrow fp32 .rne false (.fin neg mag exp)
    (BitVec.ofNat 32 w, fl)

def FVal.isNan : FVal → Bool
  | .nan => true
  | _ => false

def FVal.neg : FVal → FVal
  | .nan => .nan
  | .inf n => .inf (!n)
  | .fin n m e => .fin (!n) m e

/-- The signed integer of a finite magnitude at a common exponent. -/
def alignTo (neg : Bool) (mag : Nat) (exp q : Int) : Int :=
  let m : Int := ((mag * 2 ^ (exp - q).toNat : Nat) : Int)
  if neg then -m else m

/-- The exact sum, and whether it is an invalid ∞ − ∞ (R41, R64). -/
def addX (a b : FVal) : FVal × Bool :=
  match a, b with
  | .nan, _ => (.nan, false)
  | _, .nan => (.nan, false)
  | .inf n, .inf n' => if n = n' then (.inf n, false) else (.nan, true)
  | .inf n, .fin _ _ _ => (.inf n, false)
  | .fin _ _ _, .inf n => (.inf n, false)
  | .fin n m e, .fin n' m' e' =>
    let q := min e e'
    let z := alignTo n m e q + alignTo n' m' e' q
    if z = 0 then (.fin (n && n') 0 q, false) else (.fin (decide (z < 0)) z.natAbs q, false)

/-- The exact product, and whether it is an invalid 0 × ∞. -/
def mulX (a b : FVal) : FVal × Bool :=
  match a, b with
  | .nan, _ => (.nan, false)
  | _, .nan => (.nan, false)
  | .inf n, .inf n' => (.inf (n != n'), false)
  | .inf n, .fin n' m _ => if m = 0 then (.nan, true) else (.inf (n != n'), false)
  | .fin n m _, .inf n' => if m = 0 then (.nan, true) else (.inf (n != n'), false)
  | .fin n m e, .fin n' m' e' => (.fin (n != n') (m * m') (e + e'), false)

/-- Round an exact result to FP32 with INVALID when it was an invalid operation. -/
def fin32 (r : FVal × Bool) : W32 × Flags :=
  let (w, fl) := rnd32 r.1
  (w, fl ||| flIf r.2 flInvalid)

def fadd (a b : W32) : W32 × Flags := fin32 (addX (dec32 a) (dec32 b))
def fsub (a b : W32) : W32 × Flags := fin32 (addX (dec32 a) (dec32 b).neg)
def fmul (a b : W32) : W32 × Flags := fin32 (mulX (dec32 a) (dec32 b))

/-- a × b + c with one rounding; INVALID only where none of the three operands is NaN (R64). -/
def ffma (a b c : W32) : W32 × Flags :=
  let (p, i1) := mulX (dec32 a) (dec32 b)
  let (r, i2) := addX p (dec32 c)
  fin32 (r, (i1 && !(dec32 c).isNan) || i2)

/-- A quotient of non-zero magnitudes, with a last bit that says the rest is not zero. -/
def quoX (m m' : Nat) (e e' : Int) : Nat × Int :=
  let n := m * 2 ^ 64
  (2 * (n / m') + (if n % m' = 0 then 0 else 1), e - e' - 65)

/-- Division with the special cases under R130. -/
def fdiv (a b : W32) : W32 × Flags :=
  match dec32 a, dec32 b with
  | .nan, _ => (nan32, 0)
  | _, .nan => (nan32, 0)
  | .inf _, .inf _ => (nan32, flInvalid)
  | .inf n, .fin n' _ _ => rnd32 (.inf (n != n'))
  | .fin n _ _, .inf n' => rnd32 (.fin (n != n') 0 0)
  | .fin n m e, .fin n' m' e' =>
    if m' = 0 then
      if m = 0 then (nan32, flInvalid) else ((rnd32 (.inf (n != n'))).1, flDivZero)
    else if m = 0 then rnd32 (.fin (n != n') 0 0)
    else
      let (q, x) := quoX m m' e e'
      rnd32 (.fin (n != n') q x)

/-- Order of two values that are not NaN, −0 below +0 (R41). -/
def fltX (a b : FVal) : Bool :=
  match a, b with
  | .nan, _ => false
  | _, .nan => false
  | .inf n, .inf n' => n && !n'
  | .inf n, .fin _ _ _ => n
  | .fin _ _ _, .inf n => !n
  | .fin n m e, .fin n' m' e' =>
    let q := min e e'
    let x := alignTo n m e q
    let y := alignTo n' m' e' q
    decide (x < y) || (decide (x = y) && n && !n' && decide (m = 0))

/-- The value of a zero taken without its sign, for comparisons (R124). -/
def dropZeroSign (a : FVal) : FVal :=
  match a with
  | .fin _ 0 e => .fin false 0 e
  | v => v

def fmin (a b : W32) : W32 × Flags :=
  if (dec32 a).isNan || (dec32 b).isNan then (nan32, 0) else (if fltX (dec32 b) (dec32 a) then b else a, 0)
def fmax (a b : W32) : W32 × Flags :=
  if (dec32 a).isNan || (dec32 b).isNan then (nan32, 0) else (if fltX (dec32 a) (dec32 b) then b else a, 0)

/-- The predicates of VCMP (R124, R40); codes 6 and 7 are reserved. -/
def fcmp (pred : Nat) (a b : W32) : Bool :=
  let x := dropZeroSign (dec32 a)
  let y := dropZeroSign (dec32 b)
  let nan := x.isNan || y.isNan
  let lt := fltX x y
  let gt := fltX y x
  match pred with
  | 0 => !nan && !lt && !gt
  | 1 => nan || lt || gt
  | 2 => lt
  | 3 => !nan && !gt
  | 4 => gt
  | 5 => !nan && !lt
  | _ => false

def fabs (a : W32) : W32 × Flags := if (dec32 a).isNan then (nan32, 0) else (a &&& 0x7FFFFFFF, 0)
def fneg (a : W32) : W32 × Flags := if (dec32 a).isNan then (nan32, 0) else (a ^^^ 0x80000000, 0)

/-! ## Integers (R47, R48, R57, R58) -/

/-- Clamp to the two's-complement range of w bits. -/
def clampInt (w : Nat) (z : Int) : Int × Bool :=
  let hi : Int := 2 ^ (w - 1) - 1
  let lo : Int := -(2 ^ (w - 1))
  if z > hi then (hi, true) else if z < lo then (lo, true) else (z, false)

/-- An integer clamped to INT32, with SATURATE. -/
def satI32 (z : Int) : W32 × Flags :=
  let (r, c) := clampInt 32 z
  (BitVec.ofInt 32 r, flIf c flSaturate)

def iadd (a b : W32) : W32 × Flags := satI32 (a.toInt + b.toInt)
def isub (a b : W32) : W32 × Flags := satI32 (a.toInt - b.toInt)
def imul (a b : W32) : W32 × Flags := satI32 (a.toInt * b.toInt)

/-- FP32 to INT32 (R57, R58); the flags of VCVT_F2I are INVALID, SATURATE and INEXACT only (R124). -/
def f2i (mode : RMode) (v : FVal) : W32 × Flags :=
  match v with
  | .nan => (0, flInvalid)
  | .inf neg => (if neg then 0x80000000 else 0x7FFFFFFF, flSaturate)
  | .fin neg mag exp =>
    let (m, ix) := roundQ mode mag exp 0
    let z : Int := if neg then -(m : Int) else m
    let (r, c) := clampInt 32 z
    (BitVec.ofInt 32 r, flIf c flSaturate ||| flIf (ix || c) flInexact)

/-- INT32 to FP32 by RNE (R58). -/
def i2f (a : W32) : W32 × Flags := rnd32 (.fin (decide (a.toInt < 0)) a.toInt.natAbs 0)

/-- INT32 to INT8 or INT4, clamped (R57, R131): the code of w bits. -/
def narrowInt (w : Nat) (a : W32) : Nat × Flags :=
  let (r, c) := clampInt w a.toInt
  ((BitVec.ofInt w r).toNat, flIf c (flSaturate ||| flInexact))

/-! ## MX blocks (R42 to R46) -/

/-- The unbiased exponent of the largest finite element value (R45). -/
def mxEmax : Nat → Int
  | 5 => 8
  | 6 => 15
  | 7 => 2
  | 8 => 4
  | 9 => 2
  | _ => 0

/-- The value of an element under a scale code (R43, R44). -/
def mxValue (f : FloatFmt) (scale code : Nat) : FVal :=
  if scale = 0xFF then .nan
  else match fdecode f code with
    | .fin n m e => .fin n m (e + scale - 127)
    | v => v

/-- An MX element as FP32 (R44): beyond the FP32 range an infinity with OVERFLOW; otherwise exact and no flag. -/
def mxTo32 (f : FloatFmt) (scale code : Nat) : W32 × Flags :=
  match mxValue f scale code with
  | .fin n m e =>
    let (w, fl) := rnd32 (.fin n m e)
    (w, fl &&& flOverflow)
  | v => ((rnd32 v).1, 0)

/-- The base-2 logarithm, rounded down, of a magnitude, the least integer for zero. -/
def ilogX (v : FVal) : Option Int :=
  match v with
  | .fin _ m e => if m = 0 then none else some ((Nat.log2 m : Int) + e)
  | _ => none

/-- The scale exponent of a block of finite values (R45). -/
def mxScale (emax : Int) (vs : List FVal) : Int :=
  match vs.filterMap ilogX with
  | [] => 0
  | l :: ls => max (-127) (min 127 (ls.foldl max l - emax))

/-- One element divided by 2^x, converted and clamped; a clamp sets INEXACT and not SATURATE (R46). -/
def mxElem (f : FloatFmt) (mode : RMode) (x : Int) (v : FVal) : Nat × Flags :=
  match v with
  | .fin n m e =>
    let (c, fl) := narrow f mode true (.fin n m (e - x))
    (c, fl &&& ~~~flSaturate)
  | _ => (0, 0)

/-- Encode a block (R45, R46): scale code, element codes, flags. `modes` gives each element's rounding. -/
def mxEncode (fmt : Nat) (vs : List FVal) (modes : List RMode) : Nat × List Nat × Flags :=
  match fmtFloat fmt with
  | none => (0, [], 0)
  | some f =>
    if vs.any (fun v => match v with | .fin _ _ _ => false | _ => true) then
      (0xFF, vs.map (fun _ => 0), flInvalid)
    else
      let x := mxScale (mxEmax fmt) vs
      let es := (vs.zip modes).map (fun p => mxElem f p.2 x p.1)
      ((x + 127).toNat, es.map Prod.fst, es.foldl (fun a e => a ||| e.2) 0)

/-! ## The stochastic generator (R53, R54) -/

/-- One round of the generator. -/
def srRound (s : W32 × W32 × W32 × W32) : W32 × W32 × W32 × W32 :=
  let (k0, k1, x, y) := s
  let x := (x ^^^ k0).rotateLeft 5 + y
  let y := (y + k1).rotateLeft 11 ^^^ x
  let k0 := k0 + 0x9E3779B9
  let k1 := k1.rotateLeft 3 ^^^ k0
  (k0, k1, x, y)

/-- sr_bits (R53). -/
def srBits (key ctr : BitVec 64) : W32 :=
  let s0 : W32 × W32 × W32 × W32 :=
    (key.truncate 32, (key >>> 32).truncate 32, ctr.truncate 32, (ctr >>> 32).truncate 32)
  let s := (List.range 8).foldl (fun s _ => srRound s) s0
  s.2.2.1 ^^^ s.2.2.2

/-- r of an element (R52, R54). -/
def srR (stream seed elem site step : Nat) : Nat :=
  let key := BitVec.ofNat 64 (seed % 2 ^ 32 * 2 ^ 32 + stream % 2 ^ 32)
  let ctr := BitVec.ofNat 64 (step % 2 ^ 32 * 2 ^ 32 + site % 2 ^ 12 * 2 ^ 20 + elem % 2 ^ 20)
  (srBits key ctr).toNat % 2 ^ 24

end Sys2Proof.Machine
end

