-- ==== Sys2Proof/Machine/Sparse.lean ====
section
/-! DEFINITION. The operations of sparse maps, tables, memories and byte strings: every store in the model is one of
these. -/

namespace Sys2Proof.Machine

/-! ## Sparse maps: keys strictly rising, no entry equal to the default -/

/-- The value at a key. -/
def sGet {α : Type} (d : α) : Sparse α → Nat → α
  | [], _ => d
  | (k', v) :: r, k => if k = k' then v else sGet d r k

/-- Write a value, keeping the canonical form. -/
def sPut {α : Type} [DecidableEq α] (d : α) : Sparse α → Nat → α → Sparse α
  | [], k, v => if v = d then [] else [(k, v)]
  | (k', v') :: r, k, v =>
    if k < k' then (if v = d then (k', v') :: r else (k, v) :: (k', v') :: r)
    else if k = k' then (if v = d then r else (k, v) :: r)
    else (k', v') :: sPut d r k v

/-- Write several values, the first first. -/
def sPutAll {α : Type} [DecidableEq α] (d : α) (l : Sparse α) (kvs : List (Nat × α)) : Sparse α :=
  kvs.foldl (fun l kv => sPut d l kv.1 kv.2) l

/-- The canonical form. -/
def sWf {α : Type} [DecidableEq α] (d : α) (l : Sparse α) : Prop :=
  (l.map Prod.fst).Pairwise (· < ·) ∧ ∀ e ∈ l, e.2 ≠ d

/-! ## Tables: keys strictly rising, an unlisted key is absent -/

def tGet {α : Type} : Tab α → Nat → Option α
  | [], _ => none
  | (k', v) :: r, k => if k = k' then some v else tGet r k

def tPut {α : Type} : Tab α → Nat → α → Tab α
  | [], k, v => [(k, v)]
  | (k', v') :: r, k, v =>
    if k < k' then (k, v) :: (k', v') :: r
    else if k = k' then (k, v) :: r
    else (k', v') :: tPut r k v

def tDel {α : Type} (l : Tab α) (k : Nat) : Tab α := l.filter (fun e => e.1 ≠ k)

/-- Apply a function at a key that is present. -/
def tMod {α : Type} (l : Tab α) (k : Nat) (f : α → α) : Tab α :=
  l.map (fun e => if e.1 = k then (k, f e.2) else e)

/-- The lowest key from `from_` on, among `n`, that the table does not hold. -/
def tFree {α : Type} (l : Tab α) (lo : Nat) : Nat → Option Nat
  | 0 => none
  | n + 1 => if (tGet l lo).isNone then some lo else tFree l (lo + 1) n

def tHas {α : Type} (l : Tab α) (k : Nat) : Bool := (tGet l k).isSome

/-! ## Little-endian fields (R5) -/

/-- The number a byte string holds, the first byte least significant. -/
def leNat : List Byte → Nat
  | [] => 0
  | b :: r => b.toNat + 256 * leNat r

/-- n bytes of a number, the least significant first. -/
def leBytes : Nat → Nat → List Byte
  | 0, _ => []
  | n + 1, v => BitVec.ofNat 8 (v % 256) :: leBytes n (v / 256)

/-- The field of n bytes at an offset of a byte string. -/
def leAt (l : List Byte) (off n : Nat) : Nat := leNat ((l.drop off).take n)

/-- Are the bytes at an offset all zero? -/
def zeroAt (l : List Byte) (off n : Nat) : Bool := ((l.drop off).take n).all (· = 0)

/-- Bits lo up to lo + n − 1 of a number. -/
def bitsAt (v lo n : Nat) : Nat := v / 2 ^ lo % 2 ^ n

def bitAt (v i : Nat) : Bool := v / 2 ^ i % 2 = 1

def b2n (b : Bool) : Nat := if b then 1 else 0

/-- The signed number of an n-bit field. -/
def signedAt (n v : Nat) : Int := if v % 2 ^ n < 2 ^ (n - 1) then (v % 2 ^ n : Nat) else ((v % 2 ^ n : Nat) : Int) - 2 ^ n

/-! ## Ranges of bytes -/

/-- The addresses of a range. -/
def addrs (a n : Nat) : List Nat := (List.range n).map (a + ·)

/-- n bytes from an address. -/
def rdBytes (d : Byte) (m : List Host.Cell) (a n : Nat) : List Byte := (addrs a n).map (sGet d m)

/-- Bytes as writes at successive addresses. -/
def asWrites (a : Nat) (bs : List Byte) : List (Nat × Byte) := (addrs a bs.length).zip bs

/-- Remove every entry of a range, so that it reads as the default. -/
def sClear {α : Type} (l : Sparse α) (a n : Nat) : Sparse α := l.filter (fun e => !(decide (a ≤ e.1) && decide (e.1 < a + n)))

/-- Do [a, a + n) and [b, b + m) share an address? -/
def overlap (a n b m : Nat) : Bool := decide (a < b + m) && decide (b < a + n)

/-- Is [a, a + n) inside [b, b + m)? -/
def inside (a n b m : Nat) : Bool := decide (b ≤ a) && decide (a + n ≤ b + m)

/-- The elements of w bits packed in a byte string (R42, R47). -/
def unpackBits (w n : Nat) (bs : List Byte) : List Nat :=
  let v := leNat bs
  (List.range n).map (fun i => bitsAt v (w * i) w)

/-- Elements of w bits packed, element 0 in the least significant bits. -/
def packBits (w : Nat) (es : List Nat) : List Byte :=
  let v := (es.foldr (fun e acc => e % 2 ^ w + 2 ^ w * acc) 0)
  leBytes ((w * es.length + 7) / 8) v

/-- A counter of 64 bits that holds at its largest value (R112, R143, R223). -/
def cntAdd (c n : Nat) : Nat := min (c + n) (2 ^ 64 - 1)

/-- Add to the i-th of a list of counters. -/
def cntAt (l : List Nat) (i n : Nat) : List Nat := l.modify i (cntAdd · n)

/-- The ceiling of a quotient. -/
def cdiv (a b : Nat) : Nat := (a + b - 1) / b

/-- The list without repeats, in rising order of first appearance. -/
def dedup : List Nat → List Nat
  | [] => []
  | a :: r => if r.elem a then dedup r else a :: dedup r

/-- A number inserted into a rising list without repeats. -/
def setIns : List Nat → Nat → List Nat
  | [], k => [k]
  | k' :: r, k => if k < k' then k :: k' :: r else if k = k' then k' :: r else k' :: setIns r k

end Sys2Proof.Machine
end

