-- ==== Sys2Proof/Machine/State.lean ====
section
/-! DEFINITION. The state of the block as plain data: everything the manual gives the device, the queue of commands that
wait, and the state after reset. -/

namespace Sys2Proof.Machine

/-- Why the machine stops. -/
inductive Fault where
  /-- Raised by SUPPLY_SAMPLE and SENSOR_SAMPLE when an input lies beyond the absolute maximum ratings of R687, where
  "the other rules of this manual" do not apply and the module may be permanently damaged. Safe: the model stops where
  the manual says nothing. -/
  | beyondRatings
  deriving DecidableEq, Repr

/-- Why a command has no meaning. -/
inductive Refusal where
  /-- The arm of a row that has no meaning yet. Safe. No row is left so. -/
  | notModelled (mnemonic : String)
  deriving DecidableEq, Repr

/-! ## Device time and the link -/

/-- Device time (R528, R614): `acc` counts units of 2^−40 ns, `incr` is the increment of one XFAB cycle. `ptmSeen`: a valid
dialog has been held; `noStep`: a job has been started or a port has left OFF; `auditNext` and `auditSerial`: the next audit
(R453). -/
structure TimeSt where
  acc : Nat
  incr : Nat
  ptmEnable : Bool
  ptmValid : Bool
  ptmSeen : Bool
  noStep : Bool
  auditNext : Nat
  auditSerial : Nat
  deriving DecidableEq, Repr

/-- The CXL link, its configuration space and its IDE streams (R499, R500, R503, R516, R529). Streams 0 and 1 are selective streams of
CXL.io, stream 2 is CXL.cachemem IDE on the link; `ideKeys` holds the AES-GCM keys, `containment` the mode of stream 2 (else skid mode). `cfgData` is what the last configuration read
returned. -/
structure LinkSt where
  width : Nat
  speed : Nat
  degraded : Bool
  flit68 : Bool
  vfEnable : Bool
  numVFs : Nat
  maxPayload : Nat
  maxReadRequest : Nat
  timeout : TimeoutRange
  cfgData : Nat
  ideConfigured : List Nat
  ideSecure : List Nat
  ideKeys : Tab (BitVec 256)
  containment : Bool
  deriving DecidableEq, Repr

/-! ## Functions -/

/-- One MSI-X table entry with its pending bit (R527). -/
structure MsixEnt where
  addr : W64
  data : W32
  masked : Bool
  pendingBit : Bool
  deriving DecidableEq, Repr

/-- A DCI completion before its phase is set (R525). -/
structure DciCompletion where
  tag : Nat
  status : Nat
  result : Nat
  detail : Nat
  deriving DecidableEq, Repr

/-- How far Tyrax has come with a fetched command: it has yet to take it; it has taken it, and a rule holds it back or it has not got
what it needs; it waits for something that will complete it (R524). -/
inductive DciStage where
  | fetched
  | taken
  | waiting
  deriving DecidableEq, Repr

/-- A command fetched and not yet completed (R524, R533): what its entry spells, `none` for an opcode that R539 does not list. `seq`
numbers the fetches of all functions. -/
structure DciOut where
  tag : W32
  cmd : Option Instr
  fence : Bool
  fetched : Nat
  seq : Nat
  stage : DciStage
  deriving DecidableEq, Repr

/-- A posted write of a function that is held until the function may write host memory again (R505): a device physical address in one of
its host regions, and the bytes. -/
structure HeldWrite where
  fn : Nat
  addr : Nat
  bytes : List Byte
  deriving DecidableEq, Repr

/-- A feed descriptor (R299) with the arrival time that R302 gives it. -/
structure FeedDesc where
  stream : Nat
  frames : Nat
  mark : Nat
  flags : Nat
  rsv : Bool
  bytes : Nat
  tag : Nat
  addr : Nat
  arrival : Nat
  deriving DecidableEq, Repr

/-- A feed ring's counters (R298, R300): head, tail, and the doorbells seen (tail, arrival time). -/
structure FeedRing where
  head : Nat
  tail : Nat
  doorbells : List (Nat × Nat)
  failed : Bool
  deriving DecidableEq, Repr

/-- An event record (R665) without its layout; `detail` holds bytes 32 to 63. -/
structure Event where
  time : Nat
  seq : Nat
  cls : Nat
  scope : Nat
  utype : Nat
  flags : Nat
  unit : Nat
  job : Nat
  stream : Nat
  task : Nat
  cause : Nat
  ncont : Nat
  detail : List Byte
  deriving DecidableEq, Repr

/-- An event queue (R664, R667): its entries, the next SEQ, and what was lost since the last OVERFLOW record. -/
structure EvQueue where
  ents : List Event
  seq : Nat
  lost : Nat
  lostMask : Nat
  lostFirst : Nat
  lostLast : Nat
  deriving DecidableEq, Repr

/-- What R526 notes when an event ring is disabled; `seq` is the SEQ of the OVERFLOW record that will report it. -/
structure RingLoss where
  seq : Nat
  count : Nat
  mask : Nat
  first : Nat
  last : Nat
  deriving DecidableEq, Repr

/-- One PCIe function: its BAR0 registers, rings and vectors (R514 to R527). -/
structure Func where
  bme : Bool
  sqEn : Bool
  cqEn : Bool
  evtEn : Bool
  cqVec : Nat
  cqIrq : Bool
  evtVec : Nat
  evtIrq : Bool
  sqErr : Bool
  cfgErr : Bool
  sqBase : Nat
  cqBase : Nat
  evtBase : Nat
  sqSize : Nat
  cqSize : Nat
  evtSize : Nat
  sqTail : Nat
  sqHead : Nat
  cqHead : Nat
  cqTail : Nat
  evtHead : Nat
  evtTail : Nat
  outstanding : List DciOut
  cqHeld : List DciCompletion
  msix : List MsixEnt
  feeds : Tab FeedRing
  evtRing : List Event
  evtLost : Option RingLoss
  deriving DecidableEq, Repr

/-! ## Configuration sets -/

/-- A host region (R507). -/
structure Region where
  dpa : Nat
  len : Nat
  bus : Nat
  hpa : Nat
  flags : Nat
  deriving DecidableEq, Repr

/-- A feed-ring entry of a set (R562). -/
structure FeedCfg where
  base : Nat
  entries : Nat
  headwb : Nat
  deriving DecidableEq, Repr

/-- A configuration set (R561): its 2,816 bytes as staged, and the fields they hold; unused entries are absent from the
lists. VERSION stands in `version` alone. -/
structure CfgSet where
  raw : List Byte
  version : Nat
  scope : Nat
  quota : Nat
  ports : Nat
  regions : List Region
  chkEn : Bool
  chkSlack : Nat
  wdogExp : Nat
  mergeWait : Nat
  bgSlack : Nat
  dropLate : Bool
  depth : Tab Nat
  feeds : Tab FeedCfg
  deriving DecidableEq, Repr

/-- The sets of one scope (R561). -/
structure ScopeSt where
  cur : Option CfgSet
  prev : Option CfgSet
  stagedPf : Option CfgSet
  stagedVf : Option CfgSet
  deriving DecidableEq, Repr

/-! ## Partitions -/

/-- Partition states (R424), encoded as under R458. -/
inductive PartState where
  | none
  | empty
  | active
  | faulted
  deriving DecidableEq, Repr

/-- What PART_ZERO_DONE completes (R421, R423). -/
inductive ShapeOp where
  | create (fn : Nat) (tag : W32)
  | resize (fn : Nat) (tag : W32) (slices : Nat) (quota : Nat)
  | destroy (fn : Nat) (tag : W32)
  | recreate
  deriving DecidableEq, Repr

/-- A window of a cycle table (R436). -/
structure CycleWin where
  start : Nat
  len : Nat
  job : Nat
  mask : Nat
  deriving DecidableEq, Repr

/-- A cycle table (R436). -/
structure CycleTab where
  period : Nat
  wins : List CycleWin
  deriving DecidableEq, Repr

/-- MGT_PART_AUDIT (R461). -/
structure AuditRec where
  mismatch : Bool
  qty : Nat
  unit : Nat
  serial : Nat
  deriving DecidableEq, Repr

/-- A change of the prefix tree that waits for the switch (R400). -/
structure TreeOp where
  fn : Nat
  tag : W32
  result : Nat
  deriving DecidableEq, Repr

/-- A debit (R445): the next window of a job on a tile, which by the table ends at `till`, ends there `ns` earlier. -/
structure Owed where
  tile : Nat
  job : Nat
  ns : Nat
  till : Nat
  deriving DecidableEq, Repr

/-- One partition (R420). `debits` maps a tile to the end of a window that its commit phase reached (R445), `entFree` is the unused quota (R331), `shapeQ` the commands that R425 holds, oldest first (function, tag). -/
structure Part where
  state : PartState
  slices : Nat
  quota : Nat
  portMask : Nat
  keyGen : Nat
  key : Option (BitVec 512)
  wrapped : List Byte
  shapeOp : Option ShapeOp
  schedEn : Bool
  dropLate : Bool
  pendOrc : Option (Bool × Bool)
  orcCnt : List Nat
  totSubmitted : Nat
  totDone : Nat
  totAborted : Nat
  totDropped : Nat
  kvCnt : List Nat
  mgtCnt : List Nat
  audit : AuditRec
  table : Option CycleTab
  tableNext : Option (CycleTab × Nat × W32)
  periodStart : Nat
  debits : Tab Nat
  owed : List Owed
  queue : EvQueue
  treeOps : List TreeOp
  tagsHeld : Nat
  tagsFree : Nat
  entFree : Int
  shapeQ : List (Nat × W32)
  stored : Bool
  storedSlices : Nat
  storedQuota : Nat
  storedTable : Option CycleTab
  deriving DecidableEq, Repr

/-! ## Jobs -/

/-- Job states (R429). -/
inductive JobState where
  | loaded
  | running
  | stopping
  | tornDown
  deriving DecidableEq, Repr

/-- The fields of a .kgi header that a job keeps (R431). -/
structure KgiHdr where
  seed : Nat
  sper : Nat
  chunkBound : Nat
  taskUs : Nat
  chunkMax : Nat
  frameMax : Nat
  rowcap : Nat
  stepLimit : Nat
  actfmt : Nat
  depth : Nat
  autoreg : Bool
  reduced : Bool
  nstage : Nat
  rowmax : Nat
  nrole : Nat
  frame : Nat
  workoff : Nat
  worklen : Nat
  wloff : Nat
  rstat : Nat
  inoff : Nat
  inlen : Nat
  biasoff : Nat
  nbh : Nat
  nsem : Nat
  deriving DecidableEq, Repr

/-- A state tensor (R263). -/
structure Tensor where
  offset : Nat
  count : Nat
  fmt : Nat
  deriving DecidableEq, Repr

/-- The state declaration (R263). -/
structure StateDecl where
  slotSize : Nat
  spare : Nat
  resid : Nat
  tensors : List Tensor
  deriving DecidableEq, Repr

/-- The state-slot pool of one cluster (R262, R264): addresses of all slots, and those free. -/
structure Pool where
  slots : List Nat
  free : List Nat
  deriving DecidableEq, Repr

/-- A ring of the job's ring table (R304); `head` is the head word read last, `holder` the tile whose command holds an
OUTPUT ring (R191). -/
structure Ring where
  kind : Nat
  vector : Nat
  recsz : Nat
  nrec : Nat
  base : Nat
  ctl : Nat
  head : Nat
  tail : Nat
  holder : Option Nat
  deriving DecidableEq, Repr

/-- A semaphore (R204, R205, R454): committed value, pending hold, initial value, totals, and waits in order
(tile, amount). -/
structure Sem where
  v : Nat
  h : Nat
  v0 : Nat
  signalled : Nat
  taken : Nat
  waits : List (Nat × Nat)
  deriving DecidableEq, Repr

/-- A decode-table slot's condition (R163). -/
inductive SlotCond where
  | empty
  | live
  | retired
  deriving DecidableEq, Repr

/-- A decode-table slot (R163). -/
structure DecSlot where
  cond : SlotCond
  gen : Nat
  table : List Byte
  order : Nat
  deriving DecidableEq, Repr

/-- A route site (R317). -/
structure Site where
  e : Nat
  k : Nat
  inBar : Nat
  inCnt : Nat
  outBar : Nat
  ltile : Nat
  logits : Nat
  pres : Nat
  out : Nat
  exptab : Nat
  template : List Byte
  deriving DecidableEq, Repr

/-- A program image placed in the frame (R433). -/
structure Prog where
  role : Nat
  reduced : Bool
  dest : Nat
  deriving DecidableEq, Repr

/-- A placed copy of a section: its directory index, the tile or slice that holds it, device physical address, length, whether it lies below Caldera, and whether it
is of a resident region (R231, R433). -/
structure Placed where
  sect : Nat
  tile : Nat
  addr : Nat
  len : Nat
  hbm : Bool
  resident : Bool
  deriving DecidableEq, Repr

/-- A chunk completion (R305) and the ring it goes to. -/
structure ChunkDone where
  ring : Nat
  tag : Nat
  stream : Nat
  status : Nat
  result : Nat
  step : Nat
  detail : Nat
  time : Nat
  deriving DecidableEq, Repr

/-! ### The KV cache of a job -/

/-- The KV header (R376). -/
structure KvHdr where
  nlayers : Nat
  nkvh : Nat
  dhc : Nat
  fmt : Nat
  keep : Nat
  score0 : Nat
  maxwin : Nat
  pool : Nat
  kvstat : Nat
  rw : W32
  rhalf : Nat
  nodes : Nat
  tokwords : Nat
  reserve : Nat
  deriving DecidableEq, Repr

/-- Window states (R382). -/
inductive WinState where
  | free
  | resident
  | swappingOut
  | swapped
  | swappingIn
  deriving DecidableEq, Repr

/-- A window (R379, R382); `pages` maps 264 × layer + page index to a record; `moving` lists the records of a swap in
progress; `order` is the order of preemption (R408), `flushFrom` the run that a pending flush is to write and `flushDue` its
deadline, `victim` the window that was preempted for this one (R405). -/
structure Window where
  state : WinState
  flushPend : Bool
  auto : Bool
  waitFrames : Bool
  ssel : Bool
  stream : Nat
  swap : Nat
  swapLen : Nat
  order : Nat
  flushFrom : Nat
  flushDue : Nat
  victim : Option Nat
  pages : Tab Nat
  moving : List Nat
  deriving DecidableEq, Repr

/-- A page record (R382): slice and first frame of its run, or the offset in the swap image. -/
structure PageRec where
  slice : Nat
  frame : Nat
  swapOff : Nat
  pk : Nat
  lead : Bool
  shrunk : Bool
  swapped : Bool
  live : Nat
  ref : Nat
  pin : Nat
  deriving DecidableEq, Repr

/-- A prefix node (R394): level, parent, hash, tokens, and the record of its page in each layer. -/
structure PNode where
  level : Nat
  parent : Option Nat
  hash : Nat
  tokens : List W32
  recs : List Nat
  deriving DecidableEq, Repr

/-- The KV cache of a job (R378): the frames of each slice's pool and the staging frames of
the windows as pieces (units, base); `lost` are the slices taken offline, whose pools it has no longer (R452). `fg` and `bg` are the two
versions of the prefix tree; `gone` lists the records whose references the next switch drops (R397, R399). -/
structure KvJob where
  hdr : KvHdr
  pools : Tab (List (Nat × Nat))
  lost : List Nat
  stage : List (Nat × Nat)
  winTab : Nat
  ptab : Nat
  rtab : Nat
  nodeTab : Nat
  tokStore : Nat
  wins : Tab Window
  recs : Tab PageRec
  fg : Tab PNode
  bg : Tab PNode
  gone : List Nat
  nextNode : Nat
  preempts : Nat
  deriving DecidableEq, Repr

/-- One job (R428 to R435). -/
structure Job where
  part : Nat
  state : JobState
  share : List Nat
  base : Nat
  hdr : KgiHdr
  depth : Nat
  progs : List Prog
  placed : List Placed
  decl : Option StateDecl
  pools : Tab Pool
  rings : List Ring
  sites : List Site
  sems : Tab Sem
  quince : List DecSlot
  sloe : List DecSlot
  loads : Nat
  biasLive : Bool
  kv : Option KvJob
  digest : List Byte
  compQ : List ChunkDone
  abortTimes : List Nat
  t0 : Nat
  sched : Nat
  inUse : Tab (List (Nat × Nat))
  queueAt : Nat
  replayAt : Tab Nat
  deriving DecidableEq, Repr

/-! ## Streams -/

/-- Stream states (R295). -/
inductive StreamState where
  | free
  | open
  | runnable
  | waiting
  | paused
  | preempted
  | closing
  | faulted
  deriving DecidableEq, Repr

/-- A queued chunk (R302) and what its completion will say (R305). `ended` marks a chunk whose completion is queued and
whose ring space is not yet released. -/
structure Chunk where
  frames : Nat
  mark : Nat
  bytes : Nat
  tag : Nat
  src : Nat
  arrival : Nat
  deadline : Option Nat
  off : Nat
  used : Nat
  landed : Bool
  ended : Bool
  steps : Nat
  result : Nat
  lastStep : Option Nat
  allSkip : Bool
  replayed : Bool
  exited : Bool
  drift : Bool
  deriving DecidableEq, Repr

/-- An Orchard entry (R293). -/
structure Stream where
  job : Nat
  state : StreamState
  part : Nat
  home : Nat
  rstNext : Bool
  rstPend : Bool
  sr : Bool
  check : Bool
  src : Bool
  ppause : Bool
  pclose : Bool
  discard : Bool
  ppreempt : Bool
  dclass : Nat
  prio : Nat
  replays : Nat
  slot : Nat
  step : Nat
  kvw : Option Nat
  kvlen : Nat
  irbase : Nat
  irunits : Nat
  irhead : Nat
  irtail : Nat
  cring : Nat
  driftSat : Nat
  driftNan : Nat
  exitThr : Nat
  driftLimit : Nat
  exphist : Nat
  nskip : Nat
  nexit : Nat
  last : Nat
  tag : Nat
  committed : Bool
  cont : Bool
  chunks : List Chunk
  deriving DecidableEq, Repr

/-! ## Tasks -/

/-- A row record (R314). -/
structure Row where
  stream : Nat
  len : Nat
  rst : Option Nat
  rst0 : Bool
  sr : Bool
  cont : Bool
  check : Bool
  replay : Bool
  tile : Nat
  step : Nat
  active : Nat
  assigned : Nat
  chunk : Nat
  bytes : Nat
  kvw : Option Nat
  kvlen : Nat
  exitThr : Nat
  dline : Nat
  pins : List Nat
  experts : Nat
  moved : Bool
  deriving DecidableEq, Repr

/-- Where a task stands (R308, R443). -/
inductive TaskState where
  | built
  | executing
  | suspended
  | replayDue
  deriving DecidableEq, Repr

/-- What a finished command publishes (R194, R196) and what a comparison of two runs covers (R658): COPY bytes by home
address, slot, APPEND and staging bytes, APPEND lengths by ring, the amounts of BARSIG, SEMSIG and SEMWAIT, the status and
append words by batch row, drift counts (row, clamped, NaN), the final VFLAGS, the slot bytes that are unpredictable (R284). -/
structure Published where
  copies : List (Nat × Byte)
  slots : List (Nat × Byte)
  appends : List (Nat × Nat)
  appendBytes : List (Nat × Byte)
  kv : List (Nat × Byte)
  barsig : List (Nat × Nat)
  semsig : List (Nat × Nat)
  holds : List (Nat × Nat)
  status : List (Nat × W32)
  kvstat : List (Nat × W32)
  drift : List (Nat × Nat × Nat)
  flags : BitVec 8
  loose : List Nat
  deriving DecidableEq, Repr

/-- Which run of a command this is (R105, R657): the first, the re-run after a checksum mismatch on a tile at an
instruction and row, the checking run, the third run. -/
inductive RunKind where
  | first
  | rerun (firstTile : Nat) (instr : Nat) (row : Nat)
  | check (firstTile : Nat)
  | third (firstTile : Nat) (checkTile : Nat)
  deriving DecidableEq, Repr

/-- Where one tile of a task stands (R186, R433): the tile whose rows and roles it stands for, the tile it runs on, the
stage, the role that runs or runs next, the roles left in the stage, whether its last command has ended its execute phase,
and whether a re-run is due (R105). -/
structure TilePos where
  ident : Nat
  tile : Nat
  stage : Nat
  role : Nat
  left : List Nat
  fin : Bool
  run : RunKind
  deriving DecidableEq, Repr

/-- A task: one step's work list on one cluster. `kills` counts its kills at window ends, `streak` those at consecutive ones (R444), the
last of them at `killedAt`. Its last final-stage command reached COMMIT_WAIT at `finalAt` (R193, R442). -/
structure Task where
  job : Nat
  cluster : Nat
  sched : Nat
  tstep : Nat
  state : TaskState
  replay : Bool
  reduced : Bool
  rows : List Row
  pos : List TilePos
  finals : List (Nat × Published)
  refQ : List (Nat × List Byte)
  refS : List (Nat × List Byte)
  biasCopy : Bool
  kills : Nat
  streak : Nat
  killedAt : Nat
  finalAt : Nat
  bars : Tab Nat
  holds : List (Nat × Nat)
  signals : List (Nat × Nat)
  drift : List (Nat × Nat × Nat)
  sites : List Nat
  deriving DecidableEq, Repr

/-! ## Tiles -/

/-- The width class of the matrix engine (R73). -/
inductive MxClass where
  | c16
  | c8
  | c4
  deriving DecidableEq, Repr

/-- One column of a weight plane: decoded element codes, scale codes, metadata nibbles (R88). -/
structure PlaneCol where
  codes : List Nat
  scales : List Nat
  nib : List Nat
  deriving DecidableEq, Repr

/-- A weight plane that holds a tile (R75, R80). -/
structure Plane where
  fmt : Nat
  sparse : Bool
  klen : Nat
  ncol : Nat
  cols : List PlaneCol
  deriving DecidableEq, Repr

/-- An accumulator bank (R75, R84): entry (row, column) lies at row × Nw + column. -/
structure Bank where
  cls : Option MxClass
  ent : Sparse W32
  deriving DecidableEq, Repr

/-- VGEOM (R118). -/
structure Geom where
  rowlen : Nat
  row0 : Nat
  elem0 : Nat
  nostrm : Bool
  deriving DecidableEq, Repr

/-- An attention context (R347): forward, or backward with its gradient rows and row records. `blocks` keeps the key
blocks folded by a checking run whose contexts pass to Fumarole (R660); `merged` marks a folded partial. -/
structure AttnCtx where
  bwd : Bool
  qrows : Nat
  dh : Nat
  qfmt : Nat
  kvfmt : Nat
  pfmt : Nat
  vo : Nat
  vs : Nat
  q : List (List Nat)
  info : List W32
  causal : Bool
  scale : W32
  dout : List (List Nat)
  recs : List (W32 × W32 × W32)
  blocks : List (List Byte)
  merged : Bool
  deriving DecidableEq, Repr

/-- Engine state of a command (R76, R114, R347). Element e of register r lies at 4096 × r + e. `nar` is the model's own: the elements
that hold a value narrowed other than by SST, or read back from one (R284). -/
structure Engine where
  v : Sparse W32
  nar : List Nat
  m : Sparse Bool
  flags : BitVec 8
  geom : Geom
  plane0 : Option Plane
  plane1 : Option Plane
  bank0 : Bank
  bank1 : Bank
  ctx0 : Option AttnCtx
  ctx1 : Option AttnCtx
  deriving DecidableEq, Repr

/-- A commit window (R191): the home address of a COPY window or the ring index of an APPEND window, the shadow's
address, the address of the length word. -/
structure Win where
  append : Bool
  len : Nat
  home : Nat
  shadow : Nat
  lenw : Nat
  deriving DecidableEq, Repr

/-- A half-pair (R186, R206): base and half length in bytes of the tile's Caldera; `comp1` when half 1 has the COMPUTE
role. `swaps` holds the times of its SWAPs, latest first (R233). -/
structure Pair where
  base : Nat
  len : Nat
  comp1 : Bool
  swaps : List Nat
  deriving DecidableEq, Repr

/-- Phases of a command (R216). -/
inductive Phase where
  | start
  | execute
  | commitWait
  | commit
  deriving DecidableEq, Repr

/-- An active loop (R182): counter, first and last body instruction, iterations left. -/
structure LoopSt where
  lc : Nat
  first : Nat
  last : Nat
  left : Nat
  deriving DecidableEq, Repr

/-- A descriptor (R225). -/
structure Desc where
  kind : Nat
  codec : Nat
  depth : Nat
  len : Nat
  src : Nat
  dst : Nat
  count : Nat
  sstride : Int
  rate0 : Nat
  dline : Nat
  stream : Nat
  group : Nat
  gidx : Nat
  rsv : Bool
  deriving DecidableEq, Repr

/-- An instruction in the queue of its class, in program order among all of them (R178): it waits for data of an earlier one, for
credits or for a scoreboard entry (R209, R245). `started` marks an ATTN_FUM that Fumarole serves: it holds both engines (R180). -/
structure QEnt where
  instr : Instr
  pc : Nat
  started : Bool
  deriving DecidableEq, Repr

/-- What the instruction at dispatch waits for: a barrier, a semaphore, the fill of a pair, the transfers of XWAIT or COMMIT,
room in the queue of its class, the engine instructions before it, a word that an earlier one writes, a table load, a comparison. -/
inductive Wait where
  | bar (id : Nat) (n : Nat)
  | sem (id : Nat) (n : Nat)
  | swap (pair : Nat)
  | xfer
  | commit
  | queue
  | engines
  | word (off : Nat)
  | table
  | compare
  deriving DecidableEq, Repr

/-- A running command (R187). `work` holds the bytes of the WORK units it has written (R190, R192), `old` the bytes that other
commands have replaced since it started, which it still reads (R29), `queue` its instructions that wait in the queues of their classes
(R178). `narrowed` are
the addresses of WORK whose byte belongs to a value that was narrowed other than by SST, `loose` the bytes of state slots copied from
them, which are unpredictable (R284). `issued` is the model's own: the instructions dispatched, an index of free values (notes/assumptions/2.md). -/
structure Cmd where
  task : Nat
  job : Nat
  part : Nat
  stage : Nat
  role : Nat
  ident : Nat
  image : Nat
  entry : Nat
  ninstr : Nat
  last : Bool
  phase : Phase
  pc : Nat
  loops : List LoopSt
  wins : List Win
  pairs : List Pair
  written : List Nat
  barsig : List (Nat × Nat)
  semsig : List (Nat × Nat)
  holds : List (Nat × Nat)
  drift : List (Nat × Nat × Nat)
  refQ : List (Nat × List Byte)
  refS : List (Nat × List Byte)
  chkEn : Bool
  chkSlack : Nat
  wdogEnd : Option Nat
  allow : Nat
  credits : Nat
  startTime : Nat
  issued : Nat
  wait : Option Wait
  checked : Bool
  mismatch : Option (Nat × Nat × Nat)
  run : RunKind
  slotWrites : List (Nat × Byte)
  kvWrites : List (Nat × Byte)
  appendWrites : List (Nat × Byte)
  lateQueues : List Nat
  work : List (Nat × Byte)
  old : List (Nat × Byte)
  queue : List QEnt
  narrowed : List Nat
  loose : List Nat
  deriving DecidableEq, Repr

/-- Power states of a tile (R616). -/
inductive TilePower where
  | run
  | sleep
  | deep
  deriving DecidableEq, Repr

/-- TLE_MXE_CHKSTAT (R110). -/
structure ChkStat where
  mismatch : Bool
  skipped : Bool
  instr : Nat
  row : Nat
  deriving DecidableEq, Repr

/-- TLE_ABORT (R219) and GEY_FAULT (R258): the first record since VALID was cleared; `aux` is the PC or the queue. -/
structure FirstRec where
  valid : Bool
  cause : Nat
  aux : Nat
  task : Nat
  deriving DecidableEq, Repr

/-- One tile (R213). -/
structure Tile where
  wdogExp : Nat
  pendWdogExp : Option Nat
  chkEn : Bool
  chkSlack : Nat
  pendMxe : Option (Bool × Nat)
  flagSticky : BitVec 8
  flagLast : BitVec 8
  abort : FirstRec
  commitMax : Nat
  workBase : Nat
  workUnits : Nat
  cnt : List Nat
  mxeCnt : List Nat
  vecCnt : List Nat
  attCnt : List Nat
  chkstat : ChkStat
  bias0 : Nat
  bias1 : Nat
  nbh : Nat
  biasLive : Bool
  creditAllow : Nat
  withdrawn : Bool
  withdrawNext : Bool
  failed : Bool
  phase1 : Bool
  phase2 : Bool
  power : TilePower
  runEn : Nat
  sleepEn : Nat
  dsleepEn : Nat
  record : Option (Bool × Bool)
  scrubPos : Nat
  cmd : Option Cmd
  eng : Engine
  deriving DecidableEq, Repr

/-! ## Geyser, slices, dies -/

/-- A transfer of an XREQ (R185, R225, R237 to R245). `issued` counts slabs issued, `landed` slabs in the FILL half,
`store` the slabs that wait in the slab store with their bytes; `member` marks a request merged into another's burst;
`waiting` a request in its merge wait (R242). -/
structure Xfer where
  id : Nat
  tile : Nat
  task : Nat
  desc : Desc
  topair : Bool
  pair : Nat
  depth : Nat
  queuedAt : Nat
  pc : Nat
  queue : Nat
  held : Nat
  issued : Nat
  landed : Nat
  store : List (Nat × List Byte)
  first : Nat
  waiting : Bool
  member : Option Nat
  cancelled : Bool
  deriving DecidableEq, Repr

/-- An entry of the placement map (R229): an aligned range of 2^k bytes, where it is now, and whether it is coded. -/
structure PlaceEnt where
  base : Nat
  k : Nat
  dest : Nat
  coded : Bool
  deriving DecidableEq, Repr

/-- A request on queue 40 or 43 (R224, R249): for queue 40 `who` and `what` are the requesting cluster and its transfer, whose deadline it
has, for queue 43 the job and its window, with the background deadline (R232). It has its transactions, and the system entries that
they hold (R244); those of queue 43 hold as many host-interface tags (R513). -/
structure SysReq where
  queue : Nat
  who : Nat
  what : Nat
  deadline : Option Nat
  bursts : Nat
  entries : Nat
  deriving DecidableEq, Repr

/-- One cluster: its Geyser engine and its mode of service. `entFree` and `credFree` are the tracked entries and the credits that
nothing holds (R247); `setVer` and `setNext` are the version of its settings and the one it takes at its next boundary (R594). -/
structure Gey where
  mergeWait : Nat
  bgSlack : Nat
  pend : Option (Nat × Nat)
  held : Bool
  xfers : List Xfer
  nextId : Nat
  fault : FirstRec
  lateMax : Nat
  lateStream : Nat
  cnt : List Nat
  place : List PlaceEnt
  full : Bool
  phase2 : Bool
  sys : List SysReq
  entFree : Nat
  credFree : Nat
  setVer : Nat
  setNext : Option Nat
  deriving DecidableEq, Repr

/-- One slice and its HBM3E stack. `bad`: its stack failed a training or the slice was taken offline, until a module reset
(R654); `keySlot` is the key in the slot of its HBM engine (R589); `corrected` holds the times of corrected sectors, `phyVer` the version of its training tables (R594, R647). -/
structure Slice where
  online : Bool
  trained : Bool
  keySlot : Option (BitVec 512)
  deep : Bool
  temp : Int
  trainTemp : Int
  trainTime : Nat
  corrected : List Nat
  bad : Bool
  phyVer : Nat
  deriving DecidableEq, Repr

/-- A request that Fumarole serves in arrival order (R366). -/
structure FumReq where
  tile : Nat
  off : Nat
  deriving DecidableEq, Repr

/-- One compute die. -/
structure Die where
  therm : Nat
  fumOk : Bool
  fumQ : List FumReq
  coreLost : Bool
  csel : Nat
  fsel : Bool
  fumsel : Bool
  deriving DecidableEq, Repr

/-! ## TDM ports -/

/-- Port states (R482), encoded as under R496. -/
inductive PortState where
  | off
  | configured
  | locking
  | leadin
  | run
  | hold
  | tail
  | fault
  deriving DecidableEq, Repr

/-- A frame of a port: its stamp, the time that ended it, its slots, and 0 for data or the cause of the GAP it is
(R489). -/
structure TdmFrame where
  time : Nat
  fin : Nat
  slots : List W32
  kind : Nat
  deriving DecidableEq, Repr

/-- A GAP not yet posted: first frame index, frames, the edge that opened it, duration in ns (R489). -/
structure GapRun where
  first : Nat
  n : Nat
  tg : Nat
  dur : Nat
  deriving DecidableEq, Repr

/-- One TDM port. `idx` counts the frame periods of the port's own clock from frame 0, `left` the lead-in or tail frames to
go, `raw` holds received frames that wait for the group (R492), `frames` the closed frames of the chunk in progress. `txKind`
is what the transmit frame in progress is, `txPlan` what the group has decided by frame index, `dout` the slots it
drives; `rxGroup` is the GROUP GAP of receive frames not yet posted (R489), `stopAt` the frame index at which data ends (R484). -/
structure Port where
  cfg : List Byte
  state : PortState
  group : Nat
  leader : Nat
  rate : Int
  lastTs : Nat
  cnt : List Nat
  idx : Nat
  rxFidx : Nat
  rxDelivered : Nat
  rxGap : Nat
  txFidx : Nat
  txDelivered : Nat
  txGap : Nat
  left : Nat
  edge : Option Nat
  hold : Option GapRun
  win : List Nat
  raw : List TdmFrame
  frames : List TdmFrame
  markDue : Bool
  zeroTs : Nat
  txPos : Nat
  prefilled : Bool
  txKind : Nat
  txPlan : List (Nat × Nat)
  rxGroup : Option GapRun
  prefill : Option GapRun
  slip : Option GapRun
  dout : List W32
  unbound : List Nat
  stopAt : Option Nat
  deriving DecidableEq, Repr

/-! ## Tyrax, flash, clocks, power -/

/-- Tyrax states (R603). -/
inductive TyState where
  | boot
  | recovery
  | ready
  | updating
  | draining
  deriving DecidableEq, Repr

/-- A firmware bank: its image, and what the image's header says (R575, R593). -/
structure FwBank where
  image : List Byte
  verified : Bool
  version : Nat
  rbc : Nat
  comps : List Nat
  digests : List (List Byte)
  deriving DecidableEq, Repr

/-- A firmware command in progress (R586, R594): who asked, the components still to switch, those switched. -/
structure FwOp where
  fn : Option Nat
  tag : W32
  rollback : Bool
  todo : List Nat
  done : List Nat
  deriving DecidableEq, Repr

/-- A copy of the boot control record in flash (R595): the active bank, the bank to try, the tries, the sequence number. -/
structure CtrlRec where
  active : Bool
  tryBank : Option Bool
  tries : Nat
  seq : Nat
  deriving DecidableEq, Repr

/-- Firmware and boot state (R575, R594 to R597). `active`, `tryBank` and `tries` are the control record in force, `ctrlA` and `ctrlB` its
copies in flash; `fromReset`: the boots since a module reset have not reached READY, so the ROM takes the bank of TRY; `booted`: an image
has run since the reset. `deferred`: a failure of the crystal still to be logged (R608); `compVer`: the
version that each component type runs, for type 0x04 the one its stacks are to take. -/
structure FwSt where
  bankA : FwBank
  bankB : FwBank
  active : Bool
  tryBank : Option Bool
  tries : Nat
  running : Bool
  onTrial : Bool
  deferred : Bool
  floor : Nat
  op : Option FwOp
  ctrlA : CtrlRec
  ctrlB : CtrlRec
  fromReset : Bool
  booted : Bool
  verifiedBoot : Bool
  compVer : List Nat
  deriving DecidableEq, Repr

/-- A log record (R580); CHK is computed when the record is made. -/
structure LogRec where
  time : Nat
  seq : Nat
  kind : Nat
  source : Nat
  scope : Nat
  flags : Nat
  code : Nat
  object : Nat
  field : Nat
  old : List Byte
  new : List Byte
  chk : List Byte
  deriving DecidableEq, Repr

/-- The log (R580 to R583). -/
structure LogSt where
  flash : List LogRec
  buffer : List LogRec
  seq : Nat
  lost : Nat
  chk : List Byte
  deriving DecidableEq, Repr

/-- Tyrax and the management port (R584 to R590, R603). `identity` holds SK.seed, SK.prf and PK.seed of the identity key and `wrapKey` the
wrapping key, from boot to reset (R587). -/
structure Mgt where
  state : TyState
  capPf : Nat
  capMp : Nat
  replies : List (List Byte)
  unread : List (List Byte)
  strap : Option Bool
  quotes : Nat
  spdmOk : Bool
  spdmKem : Bool
  identity : List Byte
  wrapKey : Option (BitVec 256)
  rstLow : Bool
  deriving DecidableEq, Repr

/-- Clock registers (R635 to R638); the die registers lie in `Die`. -/
structure ClkSt where
  xtalOk : Bool
  counted : Bool
  onOsc : Bool
  mgtLock : Bool
  xfabLock : Bool
  cxlLock : Bool
  audLock : Bool
  die0 : List Bool
  die1 : List Bool
  hbm : List Bool
  family : Bool
  refsel : Bool
  mclkOk : Bool
  mclkMul : Nat
  mclkNom : Nat
  mclkNum : Nat
  mclkDen : Nat
  fRef : Nat
  fTgt : Nat
  fIdx : Nat
  fWexp : Nat
  fRun : Bool
  fDone : Bool
  fCount : Nat
  relock : Tab Nat
  deriving DecidableEq, Repr

/-- Power registers and levels (R619 to R627, R640 to R642). `samples` holds the samples of the last 10 ms, latest first: input
in mV and mA; `below` and `okCount` count samples below 38 V and at the threshold of a fall; `lastSupply` is the time of the
last event of each condition; `mpReset`: the drain serves a reset request of the management port. -/
structure PwrSt where
  supply : Nat
  draining : Bool
  mpReset : Bool
  capLevel : Nat
  below : Nat
  okCount : Nat
  switchOpen : Bool
  vmin : Nat
  vmax : Nat
  samples : List (Nat × Nat)
  cntThrottle : Nat
  cntSupply : Nat
  powered : Bool
  tripped : Bool
  lastSupply : Tab Nat
  deriving DecidableEq, Repr

/-- A sensor (R578, R579): last value, least and greatest since it was last read, failed, missed samples, valid samples in a row, high
samples in a row. -/
structure SensorSt where
  sensor : Sensor
  value : Int
  lo : Int
  hi : Int
  failed : Bool
  missed : Nat
  valid : Nat
  high : Nat
  deriving DecidableEq, Repr

/-! ## Errors, checks, waits -/

/-- The escalation classes of R669, in table order. -/
inductive ErrClass where
  | caldera
  | engine
  | hbm
  | jobData
  deriving DecidableEq, Repr

/-- An outstanding error (R670): its class and unit, the queue that acknowledges it (a function number), and the SEQ of
the record that will acknowledge it once stored. -/
structure ErrRec where
  cls : ErrClass
  unit : Nat
  fn : Nat
  seq : Option Nat
  deriving DecidableEq, Repr

/-- Corrected errors of a unit not yet reported (R668). -/
structure CorrSt where
  utype : Nat
  unit : Nat
  count : Nat
  addr : Nat
  syndrome : W32
  lastPost : Option Nat
  deriving DecidableEq, Repr

/-- A CHECK_STEP request (R566): its stream, whether its row was placed, the runs made, and the outcome. -/
structure StepCheck where
  fn : Nat
  tag : W32
  stream : Nat
  fum : Bool
  placed : Bool
  step : Nat
  firstTile : Nat
  checkTile : Option Nat
  thirdTile : Option Nat
  result1 : Option Published
  result2 : Option Published
  mismatch : Bool
  deadline : Option Nat
  deriving DecidableEq, Repr

/-- A CHECK_TILE in progress (R568). -/
structure TileTest where
  fn : Nat
  tag : W32
  tile : Nat
  mask : W32
  keep : Bool
  deriving DecidableEq, Repr

/-- What a DCI command that was taken waits for (R536, R539); `tableQueued` is a TABLE_LOAD held behind an earlier one
(R168). -/
inductive WaitFor where
  | jobStop (job : Nat)
  | tableLoad (kind : Nat) (job : Nat) (gen : Nat) (table : List Byte) (retired : Bool)
  | bias (job : Nat) (head0 : Nat) (nhead : Nat) (data : List Byte)
  | tableQueued (h : DciHdr) (kind : Nat) (job : Nat) (flags : Nat) (rgen : Nat) (gen : Nat) (table : List Byte)
  | kvOut (stream : Nat)
  | kvIn (stream : Nat) (frames : Nat)
  | portStart (port : Nat)
  | portStop (members : List (Nat × Nat))
  | cfg (scope : Nat) (version : Nat) (jobWide : Bool)
  | pause (stream : Nat)
  | close (stream : Nat)
  deriving DecidableEq, Repr

/-- A move of a range that has been copied and waits for a command boundary of its partition (R230): the engine that moves it, and the
4 KiB units that commits have written since. -/
structure Move where
  part : Nat
  cluster : Nat
  base : Nat
  k : Nat
  dest : Nat
  coded : Bool
  marked : List Nat
  deriving DecidableEq, Repr

/-- A waiting DCI command. -/
structure Waiter where
  fn : Nat
  tag : W32
  what : WaitFor
  deadline : Option Nat
  deriving DecidableEq, Repr

/-- The state of the block. `fetchSeq` numbers the submission entries fetched (R524),
`freeCtr` the free values; `pfTags` are the host-interface tags of the physical function that nothing holds (R513). -/
structure State where
  pending : List Instr
  time : TimeSt
  link : LinkSt
  cache : List Nat
  mem : List Host.Cell
  host : List Host.Cell
  heldWrites : List HeldWrite
  pfTags : Nat
  badWords : List Nat
  funcs : List Func
  scopes : List ScopeSt
  parts : List Part
  jobs : Tab Job
  tasks : Tab Task
  tiles : List Tile
  geys : List Gey
  moves : List Move
  slices : List Slice
  dies : List Die
  streams : Tab Stream
  ports : List Port
  mgt : Mgt
  fw : FwSt
  log : LogSt
  clk : ClkSt
  pwr : PwrSt
  sensors : List SensorSt
  devQueue : EvQueue
  errors : List ErrRec
  corr : List CorrSt
  checks : List StepCheck
  tests : List TileTest
  waiters : List Waiter
  nextTask : Nat
  fetchSeq : Nat
  freeCtr : Nat
  deriving DecidableEq, Repr

/-! ## Reset values -/

/-- What memory that nothing has written reads as: a DESIGN CHOICE (notes/assumptions/3.md). -/
def memFill : Byte := 0

def EvQueue.reset : EvQueue :=
  { ents := [], seq := 0, lost := 0, lostMask := 0, lostFirst := 0, lostLast := 0 }

def MsixEnt.reset : MsixEnt := { addr := 0, data := 0, masked := true, pendingBit := false }

/-- BAR0 after reset or FLR (R506, R514 to R527). -/
def Func.reset : Func :=
  { bme := false, sqEn := false, cqEn := false, evtEn := false, cqVec := 0, cqIrq := false, evtVec := 0,
    evtIrq := false, sqErr := false, cfgErr := false, sqBase := 0, cqBase := 0, evtBase := 0, sqSize := 0,
    cqSize := 0, evtSize := 0, sqTail := 0, sqHead := 0, cqHead := 0, cqTail := 0, evtHead := 0, evtTail := 0,
    outstanding := [], cqHeld := [], msix := List.replicate 64 MsixEnt.reset, feeds := [], evtRing := [],
    evtLost := none }

/-- The bytes of a set without regions, ports, DEPTH and FEEDS entries. -/
def cfgRaw (scope quota wdog merge slack : Nat) : List Byte :=
  let b (n : Nat) : Byte := BitVec.ofNat 8 n
  List.replicate 4 0 ++ [b scope] ++ List.replicate 59 0 ++ [b quota, b (quota / 2 ^ 8), b (quota / 2 ^ 16), b (quota / 2 ^ 24)]
    ++ List.replicate 573 0 ++ [b wdog, b merge, b slack] ++ List.replicate 2172 0

/-- The reset value of every field of a configuration set (R545, R561). -/
def CfgSet.reset (scope quota : Nat) : CfgSet :=
  { raw := cfgRaw scope quota 17 32 16, version := 1, scope := scope, quota := quota, ports := 0, regions := [],
    chkEn := false, chkSlack := 0, wdogExp := 17, mergeWait := 32, bgSlack := 16, dropLate := false, depth := [], feeds := [] }

def ScopeSt.reset : ScopeSt := { cur := none, prev := none, stagedPf := none, stagedVf := none }

/-- The one region of the physical function's set that the configuration store holds after reset: 2 MiB at the base of the
host range, bus address 0 (DESIGN CHOICE, notes/assumptions/13.md). -/
def storeRegion : Region := { dpa := 0x800000000000, len := 0x200000, bus := 0, hpa := 0, flags := 0 }

/-- Its entry of 32 bytes at 0x080 of the set. -/
def storeRaw : List Byte :=
  let z (n : Nat) : List Byte := List.replicate n 0
  z 4 ++ [0xF0] ++ z 123 ++ z 5 ++ [0x80] ++ z 2 ++ z 2 ++ [0x20] ++ z 5 ++ z 16 ++ z 2656

/-- Scope 0xF0 after reset: version 1 with that region and zeros (DESIGN CHOICE, notes/assumptions/13.md). -/
def ScopeSt.resetDev : ScopeSt :=
  { cur := some { CfgSet.reset 0xF0 0 with
      raw := storeRaw, regions := [storeRegion], wdogExp := 0, mergeWait := 0, bgSlack := 0 },
    prev := none, stagedPf := none, stagedVf := none }

def AuditRec.reset : AuditRec := { mismatch := false, qty := 0, unit := 0, serial := 0 }

/-- A partition that does not exist (R424, R458). -/
def Part.reset : Part :=
  { state := .none, slices := 0, quota := 0, portMask := 0, keyGen := 0, key := none, wrapped := [], shapeOp := none,
    schedEn := false, dropLate := false, pendOrc := none, orcCnt := List.replicate 11 0, totSubmitted := 0,
    totDone := 0, totAborted := 0, totDropped := 0, kvCnt := List.replicate 8 0, mgtCnt := List.replicate 5 0,
    audit := AuditRec.reset, table := none, tableNext := none, periodStart := 0, debits := [], owed := [],
    queue := EvQueue.reset, treeOps := [], tagsHeld := 0, tagsFree := 0, entFree := 0, shapeQ := [], stored := false,
    storedSlices := 0, storedQuota := 0, storedTable := none }

def Bank.reset : Bank := { cls := none, ent := [] }

/-- VGEOM at command start (R118). -/
def Geom.reset : Geom := { rowlen := 0, row0 := 0, elem0 := 0, nostrm := true }

/-- Engine state at command start (R76, R114, R347). -/
def Engine.reset : Engine :=
  { v := [], nar := [], m := [], flags := 0, geom := Geom.reset, plane0 := none, plane1 := none, bank0 := Bank.reset,
    bank1 := Bank.reset, ctx0 := none, ctx1 := none }

def FirstRec.reset : FirstRec := { valid := false, cause := 0, aux := 0, task := 0 }

def ChkStat.reset : ChkStat := { mismatch := false, skipped := false, instr := 0, row := 0 }

/-- A tile after reset (R107 to R112, R139, R213 to R223, R371, R639): idle, in no service until bring-up. -/
def Tile.reset : Tile :=
  { wdogExp := 17, pendWdogExp := none, chkEn := false, chkSlack := 0, pendMxe := none, flagSticky := 0,
    flagLast := 0, abort := FirstRec.reset, commitMax := 0, workBase := 0, workUnits := 0,
    cnt := List.replicate 5 0, mxeCnt := List.replicate 8 0, vecCnt := List.replicate 6 0,
    attCnt := List.replicate 4 0, chkstat := ChkStat.reset, bias0 := 0, bias1 := 0, nbh := 0, biasLive := false,
    creditAllow := 352, withdrawn := false, withdrawNext := false, failed := false, phase1 := false, phase2 := false,
    power := .run, runEn := 0xF, sleepEn := 0x8, dsleepEn := 0, record := none, scrubPos := 0, cmd := none,
    eng := Engine.reset }

/-- A cluster after reset: Geyser registers of R253 to R261, reduced service (R630). -/
def Gey.reset : Gey :=
  { mergeWait := 32, bgSlack := 16, pend := none, held := false, xfers := [], nextId := 0,
    fault := FirstRec.reset, lateMax := 0, lateStream := 0, cnt := List.replicate 7 0, place := [], full := false,
    phase2 := false, sys := [], entFree := 3072, credFree := 2816, setVer := Config.fwVersionA.toNat, setNext := none }

def Slice.reset : Slice :=
  { online := false, trained := false, keySlot := none, deep := false, temp := 0, trainTemp := 0, trainTime := 0,
    corrected := [], bad := false, phyVer := 0 }

def Die.reset : Die :=
  { therm := 0, fumOk := true, fumQ := [], coreLost := false, csel := 0, fsel := false, fumsel := false }

/-- A port after reset (R482, R494 to R498). -/
def Port.reset : Port :=
  { cfg := List.replicate 128 0, state := .off, group := 0, leader := 0, rate := 0, lastTs := 0,
    cnt := List.replicate 6 0, idx := 0, rxFidx := 0, rxDelivered := 0, rxGap := 0, txFidx := 0, txDelivered := 0,
    txGap := 0, left := 0, edge := none, hold := none, win := [], raw := [], frames := [], markDue := false,
    zeroTs := 0, txPos := 0, prefilled := false, txKind := 0, txPlan := [], rxGroup := none, prefill := none, slip := none, dout := [],
    unbound := [], stopAt := none }

def FwBank.empty : FwBank := { image := [], verified := false, version := 0, rbc := 0, comps := [], digests := [] }

/-- The flash as manufactured: bank A holds an image, bank B none (R575; notes/assumptions/55.md). -/
def FwSt.reset : FwSt :=
  { bankA := { image := Config.fwImageA, verified := true, version := Config.fwVersionA.toNat, rbc := Config.fwRbcA.val,
               comps := [1, 2, 3, 4, 5, 6], digests := (List.range 6).map Config.fwDigestA },
    bankB := FwBank.empty, active := false, tryBank := none, tries := 0, running := false, onTrial := false,
    deferred := false, floor := Config.floorFused.val, op := none,
    ctrlA := { active := false, tryBank := none, tries := 0, seq := 1 }, ctrlB := { active := false, tryBank := none, tries := 0, seq := 0 },
    fromReset := true, booted := false, verifiedBoot := false, compVer := List.replicate 6 Config.fwVersionA.toNat }

def LogSt.reset : LogSt :=
  { flash := [], buffer := [], seq := Config.logSeqFlash.toNat, lost := 0, chk := Config.logChkFlash }

/-- MGT_STATUS after reset (R603). -/
def Mgt.reset : Mgt :=
  { state := .boot, capPf := 1800, capMp := 1800, replies := [], unread := [], strap := none, quotes := 0,
    spdmOk := false, spdmKem := false, identity := [], wrapKey := none, rstLow := false }

/-- CLK_ registers after reset (R635 to R638). -/
def ClkSt.reset : ClkSt :=
  { xtalOk := false, counted := false, onOsc := true, mgtLock := false, xfabLock := false, cxlLock := false,
    audLock := false, die0 := [false, false, false], die1 := [false, false, false], hbm := List.replicate 12 false,
    family := false, refsel := false, mclkOk := false, mclkMul := 0, mclkNom := 0, mclkNum := 0, mclkDen := 1, fRef := 0, fTgt := 0, fIdx := 0, fWexp := 0,
    fRun := false, fDone := false, fCount := 0, relock := [] }

/-- PWR_ registers after reset (R640 to R642); the module is powered, since reset follows power-on (R628). -/
def PwrSt.reset : PwrSt :=
  { supply := 0, draining := false, mpReset := false, capLevel := 0, below := 0, okCount := 0, switchOpen := false,
    vmin := 0xFFFF, vmax := 0, samples := [], cntThrottle := 0, cntSupply := 0, powered := true, tripped := false,
    lastSupply := [] }

/-- Device time after reset: stopped at 0 until the crystal is judged stable (R528, R607, R614). -/
def TimeSt.reset : TimeSt :=
  { acc := 0, incr := 687194767360, ptmEnable := false, ptmValid := false, ptmSeen := false, noStep := false,
    auditNext := 0, auditSerial := 0 }

def LinkSt.reset : LinkSt :=
  { width := 0, speed := 0, degraded := false, flit68 := false, vfEnable := false, numVFs := 0, maxPayload := 128, maxReadRequest := 512,
    timeout := .b, cfgData := 0, ideConfigured := [], ideSecure := [], ideKeys := [], containment := false }

/-- The machine right after reset. -/
def State.reset : State :=
  { pending := [], time := TimeSt.reset, link := LinkSt.reset, cache := [], mem := [], host := [], heldWrites := [], pfTags := Config.pfTags, badWords := [],
    funcs := List.replicate 13 Func.reset,
    scopes := List.replicate 12 ScopeSt.reset ++ [ScopeSt.resetDev],
    parts := List.replicate 12 Part.reset, jobs := [], tasks := [], tiles := List.replicate 96 Tile.reset,
    geys := List.replicate 12 Gey.reset, moves := [], slices := List.replicate 12 Slice.reset,
    dies := List.replicate 2 Die.reset, streams := [], ports := List.replicate 8 Port.reset, mgt := Mgt.reset,
    fw := FwSt.reset, log := LogSt.reset, clk := ClkSt.reset, pwr := PwrSt.reset, sensors := [],
    devQueue := EvQueue.reset, errors := [], corr := [], checks := [], tests := [], waiters := [], nextTask := 0,
    fetchSeq := 0, freeCtr := 0 }

end Sys2Proof.Machine
end

