-- ==== Sys2Proof/Machine/Operands.lean ====
section
/-! DEFINITION. The operand forms of the vector-type instructions: registers and masks, activity, row geometry, rounding
modes by row, and the byte positions of strided runs. -/

namespace Sys2Proof.Machine

/-- The key of element e of vector register or mask r. -/
def vKey (r e : Nat) : Nat := 4096 * r + e

def vGet (g : Engine) (r e : Nat) : W32 := sGet 0 g.v (vKey r e)
def mGet (g : Engine) (r e : Nat) : Bool := sGet false g.m (vKey r e)

/-- Write register elements by key; what is written is no narrowed value (R284). -/
def putKeys (g : Engine) (kvs : List (Nat × W32)) : Engine :=
  { g with v := sPutAll 0 g.v kvs, nar := g.nar.filter (fun k => !(kvs.map Prod.fst).elem k) }

/-- Write elements of a register. -/
def vPutAll (g : Engine) (r : Nat) (es : List (Nat × W32)) : Engine := putKeys g (es.map (fun e => (vKey r e.1, e.2)))

/-- Does an element hold a narrowed value, and elements that do from here on (R284)? -/
def isNarrow (g : Engine) (r e : Nat) : Bool := g.nar.elem (vKey r e)
def markNarrow (g : Engine) (r : Nat) (es : List Nat) : Engine := { g with nar := (es.map (vKey r)).foldl setIns g.nar }

/-- Write bits of a mask. -/
def mPutAll (g : Engine) (r : Nat) (es : List (Nat × Bool)) : Engine :=
  { g with m := sPutAll false g.m (es.map (fun e => (vKey r e.1, e.2))) }

/-- Raise flags (R65). -/
def addFlags (g : Engine) (f : Flags) : Engine := { g with flags := g.flags ||| f }

/-- Is element e (below N) active (R116)? -/
def vActive (g : Engine) (men : Bool) (msk e : Nat) : Bool := !men || mGet g msk e

/-- Elements of a row: ROWLEN, or N when it is 0 (R118). -/
def geoRow (geo : Geom) (n : Nat) : Nat := if geo.rowlen = 0 then n else geo.rowlen

/-- The number of rows of an instruction. -/
def geoRows (geo : Geom) (n : Nat) : Nat := if n = 0 then 0 else cdiv n (geoRow geo n)

/-- What the vector-type instructions know of their command: the rows of the work list, the job seed, and the task's
scheduling step number (R54). -/
structure VCtx where
  rows : List Row
  seed : Nat
  sched : Nat
  deriving DecidableEq, Repr

/-- The rounding of element e (R49, R51, R54): RNE, RTZ, SR, or STREAM by the mode recorded for the element's row. -/
def elemMode (c : VCtx) (geo : Geom) (n rmode site e : Nat) : RMode :=
  let q := if n = 0 then 0 else e / geoRow geo n
  let p := if n = 0 then 0 else e % geoRow geo n
  let row := if geo.nostrm then none else c.rows[geo.row0 + q]?
  let sr := match row with
    | some r => RMode.sr (srR r.stream c.seed (geo.elem0 + p) site r.step)
    | none => RMode.sr (srR 0xFFFFFFFF c.seed (geo.elem0 + p) site c.sched)
  match rmode with
  | 0 => .rne
  | 1 => .rtz
  | 2 => sr
  | _ => match row with
    | some r => if r.sr then sr else .rne
    | none => .rne

/-- R132: under RMODE SR or STREAM with NOSTRM = 0, every row has its batch row in the work list. -/
def rowsOk (c : VCtx) (geo : Geom) (n rmode : Nat) : Bool :=
  rmode < 2 || geo.nostrm || n = 0 || geo.row0 + geoRows geo n ≤ c.rows.length

/-! ## Strided runs (R131) -/

/-- Elements of a run: RUN, or N when it is 0. -/
def runLen (n run : Nat) : Nat := if run = 0 then n else run

/-- The bit offset in the tile's Caldera of element e of w bits. -/
def elemBit (addr : Nat) (stride : Int) (w n run e : Nat) : Int :=
  let r := runLen n run
  ((addr : Int) + ((e / r : Nat) : Int) * stride) * 8 + ((e % r * w : Nat) : Int)

/-- The byte offset of the scale of element e's block (R131). -/
def scaleOff (saddr n run e : Nat) : Nat :=
  let r := runLen n run
  saddr * 64 + e / r * (r / 32) + e % r / 32

/-- Does a memory instruction keep R132's alignment: ADDR and STRIDE whole elements for 8-, 16- and 32-bit formats, an even
RUN for INT4, whole blocks for MX? -/
def memAligned (fmt addr : Nat) (stride : Int) (n run : Nat) : Bool :=
  let w := fmtBits fmt
  if fmtIsMx fmt then runLen n run % 32 = 0 && addr % (4 * w) = 0
  else if w = 4 then runLen n run % 2 = 0
  else addr % (w / 8) = 0 && stride % ((w / 8 : Nat) : Int) = 0

/-- An element of a scalar or integer format as a register word (R131): floats widened exactly to FP32, INT8 and INT4
sign-extended, 32-bit patterns unchanged. -/
def widen (fmt code : Nat) : W32 :=
  if fmt = 0 || fmt = 0xC then BitVec.ofNat 32 code
  else if fmtIsInt fmt then BitVec.ofInt 32 (signedAt (fmtBits fmt) code)
  else match fmtFloat fmt with
    | some f => (rnd32 (fdecode f code)).1
    | none => 0

/-- A register word narrowed to a format that is not MX (R131): FP32 and INT32 patterns unchanged without a flag. -/
def narrowTo (fmt : Nat) (mode : RMode) (sat : Bool) (w : W32) : Nat × Flags :=
  if fmt = 0 || fmt = 0xC then (w.toNat, 0)
  else if fmtIsInt fmt then narrowInt (fmtBits fmt) w
  else match fmtFloat fmt with
    | some f => narrow f mode sat (dec32 w)
    | none => (0, 0)

end Sys2Proof.Machine
end

