-- ==== Sys2Proof/Machine/Codec.lean ====
section
/-! DEFINITION. The three codecs (spec/05_compression.md): Quince, Sloe and the Geyser codec, as functions of byte
strings. A decode fault is its cause under R175. Where a block breaks several checks, the causes are taken in the order
0x01, 0x02, 0x04, 0x05, 0x03, 0x06 (DEDUCED, notes/assumptions/17.md). -/

namespace Sys2Proof.Machine

/-- The size of a tile's Caldera (R16). -/
def calBytes : Nat := 0x400000

/-- Reads n bytes at an offset, or the cause of an abort. -/
abbrev Reader := Nat → Nat → Except Nat (List Byte)

/-- The latched reference set of one codec: generations with their tables, the one loaded later later (R164). -/
abbrev RefSet := List (Nat × List Byte)

/-- A code-block header (R145). -/
structure BlkHdr where
  mode : Nat
  gen : Nat
  len4 : Nat
  fmt : Nat
  cntA : Nat
  cntB : Nat
  deriving DecidableEq, Repr

def blkHdr (w : Nat) : BlkHdr :=
  { mode := bitsAt w 0 2, gen := bitsAt w 2 2, len4 := bitsAt w 4 8, fmt := bitsAt w 12 4, cntA := bitsAt w 16 8,
    cntB := bitsAt w 24 8 }

def blkHdrWord (h : BlkHdr) : Nat :=
  h.mode + 2 ^ 2 * h.gen + 2 ^ 4 * h.len4 + 2 ^ 12 * h.fmt + 2 ^ 16 * h.cntA + 2 ^ 24 * h.cntB

/-! ## Decode tables (R151) -/

def tabCw (t : List Byte) : Nat := leAt t 0 1 % 4 + 1
def tabFmt (t : List Byte) : Nat := leAt t 0 1 / 16
def tabEntry (t : List Byte) (j : Nat) : Nat := leAt t (1 + j) 1

/-- The entries in use. -/
def tabUsed (t : List Byte) : List Nat := (List.range (2 ^ tabCw t - 1)).map (tabEntry t)

/-- A table is valid when every field meets R151. -/
def tabValid (t : List Byte) : Bool :=
  t.length = 16 && leAt t 0 1 % 4 ≠ 0 && leAt t 0 1 / 4 % 4 = 0 && (tabFmt t = 1 || tabFmt t = 2)
    && (tabUsed t).Nodup && (tabFmt t = 1 || (tabUsed t).all (· < 32))
    && zeroAt t (2 ^ tabCw t) (16 - 2 ^ tabCw t)

/-- Sign-and-mantissa width (R152): 8 for BF16, 11 for FP16. -/
def smWidth (fmt : Nat) : Nat := if fmt = 1 then 8 else 11

/-- An element from its sign-and-mantissa item and its exponent (R153). -/
def smJoin (fmt sm e : Nat) : Nat :=
  let mb := smWidth fmt - 1
  sm / 2 ^ mb * 2 ^ 15 + e % 2 ^ (15 - mb) * 2 ^ mb + sm % 2 ^ mb

/-- The sign-and-mantissa item and the exponent of an element. -/
def smSplit (fmt x : Nat) : Nat × Nat :=
  let mb := smWidth fmt - 1
  (x / 2 ^ 15 * 2 ^ mb + x % 2 ^ mb, x / 2 ^ mb % 2 ^ (15 - mb))

/-- Rebuild elements from items, codes and escapes (R153); `none` when the escapes run out or stay over. -/
def escDecode (fmt : Nat) (t : List Byte) : List (Nat × Nat) → List Nat → Option (List Nat)
  | [], [] => some []
  | [], _ :: _ => none
  | (sm, c) :: r, esc =>
    if c < 2 ^ tabCw t - 1 then (escDecode fmt t r esc).map (smJoin fmt sm (tabEntry t c) :: ·)
    else match esc with
      | [] => none
      | x :: esc' => if fmt = 2 && 32 ≤ x then none else (escDecode fmt t r esc').map (smJoin fmt sm x :: ·)

/-- The code of each exponent and the escapes in order (R154). -/
def escEncode (t : List Byte) (es : List Nat) : List Nat × List Nat :=
  let cs := es.map (fun e => (tabUsed t).findIdx (· = e))
  (cs, ((cs.zip es).filter (fun p => p.1 = 2 ^ tabCw t - 1)).map Prod.snd)

/-- The bytes of a section as numbers. -/
def byteNats (bs : List Byte) : List Nat := bs.map (·.toNat)

/-- Read a section, with cause 0x07 beyond the tile's Caldera. -/
def codeRead (rd : Reader) (off n : Nat) : Except Nat (List Byte) :=
  if off + n ≤ calBytes then rd off n else .error 0x07

/-- The table that a generation of the reference set names (R165). -/
def refTable (ref : RefSet) (gen fmt : Nat) : Except Nat (List Byte) :=
  match ref.find? (fun g => g.1 = gen) with
  | none => .error 0x04
  | some g => if tabFmt g.2 = fmt then .ok g.2 else .error 0x05

def check (c : Bool) (cause : Nat) : Except Nat Unit := if c then .ok () else .error cause

/-- The rest of a block after its header. What of it lies beyond the tile is found, with cause 0x07, after the checks of its header
(DESIGN CHOICE, notes/assumptions/86.md, R175). -/
def blkBody (rd : Reader) (off : Nat) (h : BlkHdr) : Except Nat (List Byte) := codeRead rd (off + 4) (4 * h.len4 - 4)

/-- Decode one Quince block (R145 to R153): its elements and its length in bytes. CNT_B, which it does not use, is a reserved header field
(DESIGN CHOICE, notes/assumptions/86.md, R175). -/
def quinceBlock (rd : Reader) (ref : RefSet) (fmt off : Nat) : Except Nat (List Nat × Nat) := do
  let hb ← codeRead rd off 4
  let h := blkHdr (leNat hb)
  check (h.mode ≠ 3 && h.fmt ≤ 0xC && h.cntB = 0) 0x01
  check (h.fmt = fmt && (fmt = 1 || fmt = 2)) 0x02
  match h.mode with
  | 0 => do
    check (h.len4 = 65) 0x03
    let b ← blkBody rd off h
    return (unpackBits 16 128 b, 4 * h.len4)
  | 1 => do
    let t ← refTable ref h.gen fmt
    let s := smWidth fmt
    check (h.len4 = cdiv (4 + 16 * s + 16 * tabCw t + h.cntA) 4) 0x03
    let b ← blkBody rd off h
    let sms := unpackBits s 128 (b.take (16 * s))
    let cs := unpackBits (tabCw t) 128 ((b.drop (16 * s)).take (16 * tabCw t))
    let esc := byteNats ((b.drop (16 * s + 16 * tabCw t)).take h.cntA)
    match escDecode fmt t (sms.zip cs) esc with
    | some es => return (es, 4 * h.len4)
    | none => .error 0x06
  | _ => do
    check (h.len4 = 1) 0x03
    return (List.replicate 128 0, 4)

/-- The positions of the 1 bits of a bitmap. -/
def bitPositions (n : Nat) (v : Nat) : List Nat := (List.range n).filter (bitAt v)

/-- Spread values over the 1 positions of a bitmap; every other element is +0. -/
def spread : Nat → Nat → Nat → List Nat → List Nat
  | 0, _, _, _ => []
  | n + 1, i, v, vals =>
    if bitAt v i then vals.headD 0 :: spread n (i + 1) v vals.tail else 0 :: spread n (i + 1) v vals

/-- Decode one Sloe block (R145 to R158) whose header length must equal that of its directory entry. CNT_B outside BITMAP_EXP is a reserved
header field (DESIGN CHOICE, notes/assumptions/86.md, R175). -/
def sloeBlock (rd : Reader) (ref : RefSet) (fmt off dirLen : Nat) : Except Nat (List Nat) := do
  let w := fmtBits fmt
  let hb ← codeRead rd off 4
  let h := blkHdr (leNat hb)
  check (h.fmt ≤ 0xC && (h.mode = 3 || h.cntB = 0)) 0x01
  check (h.fmt = fmt && (h.mode ≠ 3 || fmt = 1 || fmt = 2)) 0x02
  match h.mode with
  | 0 => do
    check (h.len4 = 1 + 4 * w && dirLen = h.len4) 0x03
    let b ← blkBody rd off h
    return unpackBits w 128 b
  | 2 => do
    check (h.len4 = 1 && dirLen = 1) 0x03
    return List.replicate 128 0
  | 1 => do
    check (h.len4 = cdiv (20 + cdiv (h.cntA * w) 8) 4 && dirLen = h.len4) 0x03
    let b ← blkBody rd off h
    let map := leNat (b.take 16)
    check ((bitPositions 128 map).length = h.cntA) 0x06
    return spread 128 0 map (unpackBits w h.cntA (b.drop 16))
  | _ => do
    let t ← refTable ref h.gen fmt
    let s := smWidth fmt
    let sb := cdiv (h.cntA * s) 8
    let cb := cdiv (h.cntA * tabCw t) 8
    check (h.len4 = cdiv (20 + sb + cb + h.cntB) 4 && dirLen = h.len4) 0x03
    let b ← blkBody rd off h
    let map := leNat (b.take 16)
    check ((bitPositions 128 map).length = h.cntA) 0x06
    let sms := unpackBits s h.cntA ((b.drop 16).take sb)
    let cs := unpackBits (tabCw t) h.cntA ((b.drop (16 + sb)).take cb)
    let esc := byteNats ((b.drop (16 + sb + cb)).take h.cntB)
    match escDecode fmt t (sms.zip cs) esc with
    | some es => return spread 128 0 map es
    | none => .error 0x06

/-- A directory entry (R157): block offset in bytes and length in words. -/
def sloeDir (rd : Reader) (addr : Nat) : Except Nat (Nat × Nat) := do
  let b ← codeRead rd addr 4
  let v := leNat b
  check (bitsAt v 28 4 = 0) 0x01
  return (4 * bitsAt v 0 20, bitsAt v 20 8)

/-- The elements of the block a directory entry names. -/
def sloeAt (rd : Reader) (ref : RefSet) (fmt addr : Nat) : Except Nat (List Nat) := do
  let (off, len) ← sloeDir rd addr
  sloeBlock rd ref fmt off len

/-- Is the block a directory entry names marked all-zero (R162)? -/
def sloeZero (rd : Reader) (addr : Nat) : Except Nat Bool := do
  let (off, _) ← sloeDir rd addr
  let hb ← codeRead rd off 4
  return (blkHdr (leNat hb)).mode = 2

/-! ## The Sloe encoder (R149, R161) -/

/-- Pad a byte string with zeros to a multiple of k. -/
def padTo (k : Nat) (bs : List Byte) : List Byte := bs ++ List.replicate ((k - bs.length % k) % k) 0

/-- A block from its header fields and its sections. -/
def mkBlock (mode gen fmt a b : Nat) (body : List Byte) : List Byte :=
  let bs := padTo 4 body
  leBytes 4 (blkHdrWord { mode := mode, gen := gen, len4 := 1 + bs.length / 4, fmt := fmt, cntA := a, cntB := b }) ++ bs

def bitmapOf (es : List Nat) : Nat := es.foldr (fun e acc => b2n (e ≠ 0) + 2 * acc) 0

/-- The BITMAP form. It uses no table, and its GEN is written 0 (DESIGN CHOICE, notes/assumptions/86.md, R161). -/
def sloeBitmap (fmt : Nat) (es : List Nat) : List Byte :=
  let nz := es.filter (· ≠ 0)
  mkBlock 1 0 fmt nz.length 0 (leBytes 16 (bitmapOf es) ++ packBits (fmtBits fmt) nz)

/-- The BITMAP_EXP form under a generation and its table. -/
def sloeBitmapExp (fmt gen : Nat) (t : List Byte) (es : List Nat) : List Byte :=
  let nz := es.filter (· ≠ 0)
  let sp := nz.map (smSplit fmt)
  let (cs, esc) := escEncode t (sp.map Prod.snd)
  mkBlock 3 gen fmt nz.length esc.length (leBytes 16 (bitmapOf es) ++ packBits (smWidth fmt) (sp.map Prod.fst)
    ++ packBits (tabCw t) cs ++ esc.map (BitVec.ofNat 8))

/-- The block that VSTS writes for 128 elements (R161). -/
def sloeEncode (ref : RefSet) (fmt : Nat) (es : List Nat) : List Byte :=
  if es.all (· = 0) then mkBlock 2 0 fmt 0 0 []
  else
    let nnz := (es.filter (· ≠ 0)).length
    let bm := sloeBitmap fmt es
    let best := match (if fmt = 1 || fmt = 2 then (ref.filter (fun g => tabFmt g.2 = fmt)).getLast? else none) with
      | some g => let x := sloeBitmapExp fmt g.1 g.2 es; if x.length < bm.length then x else bm
      | none => bm
    if 16 * best.length ≤ 15 * (4 + 16 * fmtBits fmt) then best
    else mkBlock 0 0 fmt nnz 0 (packBits (fmtBits fmt) es)

/-! ## The Geyser codec (R170 to R173) -/

/-- The bytes of plane p of a unit with elements of e bytes. -/
def gcPlane (e p : Nat) (u : List Byte) : List Byte :=
  (List.range (4096 / e)).map (fun j => u.getD (j * e + p) 0)

/-- How often a byte occurs. -/
def gcCount (b : Nat) (l : List Nat) : Nat := (l.filter (· = b)).length

/-- The most frequent byte, the lowest of several. -/
def gcBase (l : List Byte) : Nat :=
  ((List.range 256).foldl (fun (acc : Nat × Nat) b =>
    let n := gcCount b (byteNats l)
    if acc.2 < n then (b, n) else acc) (0, 0)).1

/-- One plane's part of the body: bitmap and non-base bytes. -/
def gcPlaneBody (base : Nat) (l : List Byte) : List Byte × List Byte :=
  (leBytes (l.length / 8) (bitmapOf (l.map (fun b => b2n (b.toNat ≠ base)))), l.filter (fun b => b.toNat ≠ base))

/-- A coded unit: header of 16 bytes, and body. -/
def gcEncode (esize : Nat) (u : List Byte) : List Byte × List Byte :=
  let e := 2 ^ esize
  if u.all (· = 0) then (leBytes 2 (2 + 4 * esize) ++ List.replicate 14 0, [])
  else
    let ps := (List.range e).map (fun p => gcPlane e p u)
    let bases := ps.map gcBase
    let parts := (bases.zip ps).map (fun bp => gcPlaneBody bp.1 bp.2)
    let body := padTo 16 ((parts.map (fun x => x.1 ++ x.2)).flatten)
    let blen := body.length / 16
    if blen ≤ 240 then
      (leBytes 2 (1 + 4 * esize + 16 * blen) ++ [0, 0] ++ (List.range 4).map (fun p => BitVec.ofNat 8 (bases.getD p 0))
        ++ ((List.range 4).map (fun p => leBytes 2 ((parts.map (fun x => x.2.length)).getD p 0))).flatten, body)
    else (leBytes 2 (4 * esize + 16 * 256) ++ List.replicate 14 0, u)

/-- One plane read back: its bytes, and the rest of the body. -/
def gcPlaneRead (n base nb : Nat) (body : List Byte) : Except Nat (List Byte × List Byte) :=
  let map := leNat (body.take (n / 8))
  let vals := (body.drop (n / 8)).take nb
  if (bitPositions n map).length = nb then
    let marks := spread n 0 map (vals.map (fun b => b.toNat + 1))
    .ok (marks.map (fun m => if m = 0 then BitVec.ofNat 8 base else BitVec.ofNat 8 (m - 1)), body.drop (n / 8 + nb))
  else .error 0x06

/-- The planes of a unit in order. -/
def gcPlanesRead (e : Nat) : List (Nat × Nat) → List Byte → Except Nat (List (List Byte))
  | [], _ => .ok []
  | (base, nb) :: r, body => do
    let (p, rest) ← gcPlaneRead (4096 / e) base nb body
    let ps ← gcPlanesRead e r rest
    return p :: ps

/-- The 4,096 bytes of a coded unit (R171, R172), or the cause of R175. A PLANED unit whose BLEN16 is above 240, which an encoder does
not write, decodes where it equals the computed length (DESIGN CHOICE, notes/assumptions/86.md). -/
def gcDecode (hdr body : List Byte) : Except Nat (List Byte) := do
  let w := leAt hdr 0 2
  let mode := bitsAt w 0 2
  let esize := bitsAt w 2 2
  let blen := bitsAt w 4 9
  let e := 2 ^ esize
  check (mode ≠ 3 && esize ≠ 3 && bitsAt w 13 3 = 0 && zeroAt hdr 2 2) 0x01
  let used := if mode = 1 then e else 0
  check (zeroAt hdr (4 + used) (4 - used) && zeroAt hdr (8 + 2 * used) (8 - 2 * used)) 0x01
  match mode with
  | 0 => do
    check (blen = 256) 0x03
    return body.take 4096
  | 1 => do
    let nbs := (List.range e).map (fun p => (leAt hdr (4 + p) 1, leAt hdr (8 + 2 * p) 2))
    check (blen = cdiv (512 + (nbs.map Prod.snd).sum) 16) 0x03
    let ps ← gcPlanesRead e nbs body
    return (List.range 4096).map (fun i => (ps.getD (i % e) []).getD (i / e) 0)
  | _ => do
    check (blen = 0) 0x03
    return List.replicate 4096 0

/-- The body length a unit header names, in bytes. -/
def gcBodyLen (hdr : List Byte) : Nat := 16 * bitsAt (leAt hdr 0 2) 4 9

end Sys2Proof.Machine
end

