-- ==== Sys2Proof/Machine/Ops.lean ====
section
/-! DEFINITION. The named operations over the state: device time, addresses and isolation, memory, one field of one unit,
event queues and escalation. -/

namespace Sys2Proof.Machine

/-- The outcome of a command. -/
abbrev Out := Host.Outcome State Fault Refusal

/-! ## Device time (R528, R614) -/

/-- Device time in ns: the 64-bit counter. -/
def now (s : State) : Nat := s.time.acc / 2 ^ 40 % 2 ^ 64

/-- One XFAB cycle with no command: device time advances by its increment while the crystal is stable (R607, R614). -/
def idleCycle (s : State) : State :=
  if s.clk.xtalOk then { s with time := { s.time with acc := s.time.acc + s.time.incr } } else s

/-! ## Units -/

def setTile (s : State) (t : Nat) (f : Tile → Tile) : State := { s with tiles := s.tiles.modify t f }
def setPart (s : State) (p : Nat) (f : Part → Part) : State := { s with parts := s.parts.modify p f }
def setFunc (s : State) (n : Nat) (f : Func → Func) : State := { s with funcs := s.funcs.modify n f }
def setGey (s : State) (c : Nat) (f : Gey → Gey) : State := { s with geys := s.geys.modify c f }
def setSlice (s : State) (n : Nat) (f : Slice → Slice) : State := { s with slices := s.slices.modify n f }
def setDie (s : State) (d : Nat) (f : Die → Die) : State := { s with dies := s.dies.modify d f }
def setPort (s : State) (p : Nat) (f : Port → Port) : State := { s with ports := s.ports.modify p f }
def setJob (s : State) (j : Nat) (f : Job → Job) : State := { s with jobs := tMod s.jobs j f }
def setTask (s : State) (k : Nat) (f : Task → Task) : State := { s with tasks := tMod s.tasks k f }
def setStream (s : State) (i : Nat) (f : Stream → Stream) : State := { s with streams := tMod s.streams i f }
def setEng (s : State) (t : Nat) (f : Engine → Engine) : State := setTile s t (fun x => { x with eng := f x.eng })
def setCmd (s : State) (t : Nat) (f : Cmd → Cmd) : State := setTile s t (fun x => { x with cmd := x.cmd.map f })

def getJob (s : State) (j : Nat) : Option Job := tGet s.jobs j
def getTask (s : State) (k : Nat) : Option Task := tGet s.tasks k
def getStream (s : State) (i : Nat) : Option Stream := tGet s.streams i
def getPart (s : State) (p : Nat) : Part := s.parts.getD p Part.reset
def getFunc (s : State) (n : Nat) : Func := s.funcs.getD n Func.reset
def getTile (s : State) (t : Nat) : Tile := s.tiles.getD t Tile.reset
def getGey (s : State) (c : Nat) : Gey := s.geys.getD c Gey.reset
def getSlice (s : State) (n : Nat) : Slice := s.slices.getD n Slice.reset
def getDie (s : State) (d : Nat) : Die := s.dies.getD d Die.reset
def getPort (s : State) (p : Nat) : Port := s.ports.getD p Port.reset

/-- The next index of a fresh free value, and the state after taking it (notes/assumptions/2.md). -/
def takeFree (s : State) : Nat × State := (s.freeCtr, { s with freeCtr := s.freeCtr + 1 })

/-- One of several things that the manual leaves to the BN1 to choose among: a free choice (notes/assumptions/19.md). -/
def pick (s : State) (l : List Nat) : Option Nat × State :=
  (l[Config.freeNat s.freeCtr % l.length]?, { s with freeCtr := s.freeCtr + 1 })

/-- Apply an update to the state for every element of a list, in order. -/
def forAll {α : Type} (s : State) (l : List α) (f : State → α → State) : State := l.foldl f s

/-! ## The address map (R25) -/

def hbmBytes : Nat := 0x900000000
def calBase : Nat := 0x10000000000
def hostBase : Nat := 0x800000000000

/-- Address of a byte of a tile's Caldera. -/
def calAddr (t off : Nat) : Nat := calBase + t * 0x400000 + off

/-- What lies at a device physical address. -/
inductive Place where
  | hbm (stack off : Nat)
  | caldera (tile off : Nat)
  | host
  | reserved
  deriving DecidableEq, Repr

def placeOf (a : Nat) : Place :=
  if a < 12 * hbmBytes then .hbm (a / hbmBytes) (a % hbmBytes)
  else if calBase ≤ a ∧ a < calBase + 96 * 0x400000 then .caldera ((a - calBase) / 0x400000) ((a - calBase) % 0x400000)
  else if hostBase ≤ a ∧ a < 2 ^ 48 then .host
  else .reserved

/-- The slice an address belongs to. -/
def sliceOf (a : Nat) : Option Nat :=
  match placeOf a with
  | .hbm n _ => some n
  | .caldera t _ => some (t / 8)
  | _ => none

/-- The set in force of a scope: 0 to 11 a partition, 12 the scope 0xF0 (R561). -/
def curSet (s : State) (sc : Nat) : Option CfgSet := (s.scopes.getD sc ScopeSt.reset).cur

/-- The host regions of a function: function 0 those of scope 0xF0, function p + 1 those of partition p (R507). -/
def funcRegions (s : State) (fn : Nat) : List Region :=
  match curSet s (if fn = 0 then 12 else fn - 1) with
  | some c => c.regions
  | none => []

/-- The region that holds n bytes from an address. -/
def regionAt (rs : List Region) (a n : Nat) : Option Region := rs.find? (fun r => inside a n r.dpa r.len)

/-- Region flags (R507). -/
def regCoherent (r : Region) : Bool := bitAt r.flags 0
def regSwap (r : Region) : Bool := bitAt r.flags 1
def regReadonly (r : Region) : Bool := bitAt r.flags 2

/-- The bus address of an address in a region, for CXL.io, and its host physical address, for CXL.cache (R508). -/
def busAddr (r : Region) (a : Nat) : Nat := r.bus + (a - r.dpa)
def hpaAddr (r : Region) (a : Nat) : Nat := r.hpa + (a - r.dpa)

/-- The region that holds one address. -/
def regionOf (rs : List Region) (a : Nat) : Option Region := regionAt rs a 1

/-- Does every one of n bytes from an address lie in a region, which may be several adjacent ones (R508)? Regions are whole multiples of
2 MiB (R507). -/
def inRegions (rs : List Region) (a n : Nat) : Bool :=
  let m := 0x200000
  (List.range ((a + (n - 1)) / m + 1 - a / m)).all (fun i => (regionOf rs ((a / m + i) * m)).isSome)

/-- Do n bytes from an address lie wholly within a partition's slices or host regions, which may be several adjacent ones (R26)? A stack whose
key slots are clear rejects every access (R589). -/
def partOwns (s : State) (p a n : Nat) : Bool :=
  let has (x y : Nat) := (List.range (y + 1 - x)).all (fun i => bitAt (getPart s p).slices (x + i))
  let keyed (x y : Nat) := (List.range (y + 1 - x)).all (fun i => (getSlice s (x + i)).keySlot.isSome)
  match placeOf a, placeOf (a + (n - 1)) with
  | .host, .host => inRegions (funcRegions s (p + 1)) a n
  | .hbm x _, .hbm y _ => has x y && keyed x y
  | .caldera x _, .caldera y _ => has (x / 8) (y / 8)
  | _, _ => false

/-! ## Memory -/

/-- The canonical form of a memory. -/
abbrev Memory.wf (m : List Host.Cell) : Prop := sWf memFill m

def memGet (m : List Host.Cell) (a : Nat) : Byte := sGet memFill m a
def memPut (m : List Host.Cell) (a : Nat) (b : Byte) : List Host.Cell := sPut memFill m a b
def memPutAll (m : List Host.Cell) (ws : List (Nat × Byte)) : List Host.Cell := sPutAll memFill m ws

/-- Remove a range, which then reads as zeros (R421). -/
def memClear (m : List Host.Cell) (a n : Nat) : List Host.Cell := sClear m a n

/-- The stored word or sector that an address lies in: 8 B of Caldera, 64 B of HBM (R643, R646). -/
def codeWord (a : Nat) : Nat := match placeOf a with | .caldera _ _ => a / 8 * 8 | _ => a / 64 * 64

/-- Is the word or sector of an address known uncorrectable (R650)? -/
def isBad (s : State) (a : Nat) : Bool := s.badWords.elem (codeWord a)

/-- Device memory written: the words become readable again (R650). -/
def devWrite (s : State) (ws : List (Nat × Byte)) : State :=
  { s with mem := memPutAll s.mem ws,
           badWords := s.badWords.filter (fun b => !(ws.any (fun w => decide (codeWord w.1 = b)))) }

/-- Device memory of a range written with zeros and fresh codes. -/
def devZero (s : State) (a n : Nat) : State :=
  { s with mem := memClear s.mem a n, badWords := s.badWords.filter (fun b => !(decide (a ≤ b) && decide (b < a + n))) }

/-- Bytes of device memory. -/
def devRead (s : State) (a n : Nat) : List Byte := rdBytes memFill s.mem a n

/-- Host memory by bus address. -/
def hostRead (s : State) (a n : Nat) : List Byte := rdBytes memFill s.host a n
def hostWrite (s : State) (a : Nat) (bs : List Byte) : State := { s with host := memPutAll s.host (asWrites a bs) }

/-- Read at a device physical address through the regions of a function: HBM and Caldera, or host memory (R508). -/
def dpaRead (s : State) (rs : List Region) (a n : Nat) : List Byte :=
  match placeOf a with
  | .host => match regionAt rs a n with
    | some r => hostRead s (busAddr r a) n
    | none => (addrs a n).flatMap (fun x => match regionOf rs x with
      | some r => hostRead s (busAddr r x) 1
      | none => [0])
  | _ => devRead s a n

/-- May a function write n bytes at an address: a host address lies in regions that are not READONLY (R508)? -/
def mayWrite (rs : List Region) (a n : Nat) : Bool :=
  !(match placeOf a with | .host => true | _ => false) || (inRegions (rs.filter (fun r => !regReadonly r)) a n)

/-- Write one byte of host memory through the region that holds it. -/
def byteWrite (rs : List Region) (s : State) (w : Nat × Byte) : State :=
  match regionOf rs w.1 with
  | some r => hostWrite s (busAddr r w.1) [w.2]
  | none => s

/-- Write at a device physical address through the regions of a function. What may write nothing there has been turned away before (R26,
R508). -/
def dpaWrite (s : State) (rs : List Region) (a : Nat) (bs : List Byte) : State :=
  match placeOf a with
  | .host =>
    if !mayWrite rs a bs.length then s
    else match regionAt rs a bs.length with
      | some r => hostWrite s (busAddr r a) bs
      | none => (asWrites a bs).foldl (byteWrite rs) s
  | .reserved => s
  | _ => devWrite s (asWrites a bs)

/-- A 64 B sector of a stack as its DRAM holds it: encrypted as one XTS data unit under the key in the slot of the stack's engine, with the
sector's address divided by 64 as the tweak (R589). Every access goes through the engine, so `mem` holds what it decrypts (DESIGN CHOICE,
notes/assumptions/93.md). -/
def storedSector (s : State) (a : Nat) : Option (List Byte) :=
  match placeOf a with
  | .hbm n _ => (getSlice s n).keySlot.map (fun k => Config.xtsEncrypt k (a / 64) (devRead s (a / 64 * 64) 64))
  | _ => none

/-! ## The log (R580 to R583) -/

/-- Bytes 0 to 55 of a log record. -/
def logBytes (r : LogRec) : List Byte :=
  leBytes 8 r.time ++ leBytes 4 r.seq ++ leBytes 1 r.kind ++ leBytes 1 r.source ++ leBytes 1 r.scope
    ++ leBytes 1 r.flags ++ leBytes 2 r.code ++ leBytes 2 r.object ++ leBytes 4 r.field ++ r.old ++ r.new

/-- 16 bytes, padded with zeros. -/
def pad16 (bs : List Byte) : List Byte := (bs ++ List.replicate 16 0).take 16

/-- A record without its time, SEQ and CHK. -/
def mkLog (kind source scope code object : Nat) : LogRec :=
  { time := 0, seq := 0, kind := kind, source := source, scope := scope, flags := 0, code := code, object := object,
    field := 0, old := pad16 [], new := pad16 [], chk := [] }

/-- Append one record to the buffer: SEQ and the chained CHK (R580). -/
def logPush (l : LogSt) (t : Nat) (r : LogRec) : LogSt :=
  let r1 := { r with time := t, seq := l.seq }
  let chk := Config.shake256 (l.chk ++ logBytes r1) 8
  { l with buffer := l.buffer ++ [{ r1 with chk := chk }], seq := (l.seq + 1) % 2 ^ 32, chk := chk }

/-- Place a record in the buffer of 256; a full buffer counts it in LOST, and a LOST record precedes the next one that is
stored; the count holds at 65,535 (R583, R605). -/
def logPut (l : LogSt) (t : Nat) (r : LogRec) : LogSt :=
  if 256 < l.buffer.length + (if l.lost = 0 then 1 else 2) then { l with lost := min 65535 (l.lost + 1) }
  else if l.lost = 0 then logPush l t r
  else logPush { logPush l t { mkLog 0x06 0xFE 0xF0 0 0 with new := pad16 (leBytes 4 l.lost) } with lost := 0 } t r

def logAdd (s : State) (r : LogRec) : State := { s with log := logPut s.log (now s) r }

/-- One CHANGE record for each 16 bytes of a field that changes (R581): the opcode, the object, the byte offset. -/
def logChange (s : State) (source scope code object field : Nat) (old new : List Byte) : State :=
  if old = new then s
  else
    forAll s (List.range (max 1 (cdiv (max old.length new.length) 16))) (fun s k =>
      logAdd s { mkLog 0x01 source scope code object with
        flags := if k = 0 then 0 else 1, field := field + 16 * k, old := pad16 (old.drop (16 * k)),
        new := pad16 (new.drop (16 * k)) })

/-! ## Event queues (R664 to R668) -/

/-- An event without a unit: fill in the rest. -/
def mkEvent (cls scope utype unit : Nat) : Event :=
  { time := 0, seq := 0, cls := cls, scope := scope, utype := utype, flags := 0, unit := unit, job := 0,
    stream := 0xFFFFFFFF, task := 0, cause := 0, ncont := 0, detail := [] }

/-- The OVERFLOW record of what a queue lost (R666). -/
def overflowRec (q : EvQueue) (scope t : Nat) : Event :=
  { mkEvent 0x0C scope 0 0 with
    time := t, seq := q.seq,
    detail := leBytes 4 q.lost ++ leBytes 2 q.lostMask ++ leBytes 8 q.lostFirst ++ leBytes 8 q.lostLast }

/-- Room for n ordinary records: 63 of the 64 entries, one more for OVERFLOW when something was lost (R667). -/
def queueRoom (q : EvQueue) (n : Nat) : Bool :=
  decide ((q.ents.filter (fun e => e.cls ≠ 0x0C)).length + n ≤ 63)
    && decide (q.ents.length + (if q.lost = 0 then 0 else 1) + n ≤ 64)

/-- Store an event with its continuation records, or count it lost. -/
def queuePost (q : EvQueue) (scope t : Nat) (e : Event) (conts : List (List Byte)) : EvQueue :=
  if queueRoom q (1 + conts.length) then
    let q1 := if q.lost = 0 then q
      else { q with ents := q.ents ++ [overflowRec q scope t], seq := (q.seq + 1) % 2 ^ 32, lost := 0, lostMask := 0,
                    lostFirst := 0, lostLast := 0 }
    let e1 := { e with time := t, seq := q1.seq, ncont := conts.length,
                       flags := e.flags ||| (if conts.isEmpty then 0 else 2) }
    let cs := conts.map (fun b => { mkEvent 0 scope 0 0 with time := t, seq := q1.seq, detail := b })
    { q1 with ents := q1.ents ++ e1 :: cs, seq := (q1.seq + 1) % 2 ^ 32 }
  else
    { q with lost := q.lost + 1, lostMask := q.lostMask ||| 2 ^ e.cls,
             lostFirst := if q.lost = 0 then t else q.lostFirst, lostLast := t }

/-- The SEQ the next stored record of a queue takes; `none` when an event of n records would be lost. -/
def queueSeq (q : EvQueue) (n : Nat) : Option Nat :=
  if queueRoom q n then some ((if q.lost = 0 then q.seq else q.seq + 1) % 2 ^ 32) else none

/-- An error that was lost is acknowledged by the OVERFLOW record that reports it (R670). -/
def bindLost (s : State) (fn : Nat) (q : EvQueue) (n : Nat) : List ErrRec :=
  if q.lost ≠ 0 && queueRoom q n then
    s.errors.map (fun e => if e.fn = fn && e.seq.isNone then { e with seq := some q.seq } else e)
  else s.errors

/-- n bytes of a string, padded with zeros. -/
def padZero (n : Nat) (bs : List Byte) : List Byte := (bs ++ List.replicate n 0).take n

/-- The 64 bytes of an event record; a CPER continuation holds 48 bytes of its record. -/
def eventBytes (e : Event) : List Byte :=
  if e.cls = 0 then leBytes 8 e.time ++ leBytes 4 e.seq ++ leBytes 4 0 ++ padZero 48 e.detail
  else leBytes 8 e.time ++ leBytes 4 e.seq ++ leBytes 1 e.cls ++ leBytes 1 e.scope ++ leBytes 1 e.utype ++ leBytes 1 e.flags
    ++ leBytes 2 e.unit ++ leBytes 2 e.job ++ leBytes 4 e.stream ++ leBytes 4 e.task ++ leBytes 1 e.cause
    ++ leBytes 1 e.ncont ++ leBytes 2 0 ++ padZero 32 e.detail

/-- Severities of a CPER record (R671). -/
inductive CperSeverity where
  | corrected
  | fatal
  | recoverable
  deriving DecidableEq, Repr

/-- Fatal for PARTITION_FAULT and what escalated its unit; CORRECTED events have no record of their own (R671). -/
def cperSeverity (e : Event) : CperSeverity :=
  if e.cls = 1 then .corrected else if e.cls = 8 || e.flags % 2 = 1 then .fatal else .recoverable

def CperSeverity.num : CperSeverity → Nat
  | .corrected => 0
  | .fatal => 1
  | .recoverable => 2

/-- Is the section of an event the Memory Error section: an error of HBM or Caldera (R671)? -/
def cperMemory (e : Event) : Bool := e.cls = 0x0D || (e.cls = 6 && [0x20, 0x21, 0x70].elem e.cause)

/-- The version of the firmware that runs, and what a tile's bring-up and a stack's corrected count are, of the unit of an event (R671). -/
def vendorBytes (s : State) (e : Event) : List Byte :=
  let b := if s.fw.active then s.fw.bankB else s.fw.bankA
  let x := getTile s e.unit
  let n := (s.corr.find? (fun c => c.utype = 3 && c.unit = e.unit)).elim 0 (·.count)
  leBytes 4 b.version ++ (if e.utype = 1 then [if x.phase1 then 1 else 0, if x.phase2 then 1 else 0] else [0, 0])
    ++ leBytes 4 (if e.utype = 3 then n else 0)

/-- What the CPER record of an event carries: severity, section, the record's bytes 12 to 63 and, in the vendor section, what it adds
(R671). -/
def cperContent (s : State) (e : Event) : List Byte :=
  leBytes 1 (cperSeverity e).num ++ (if cperMemory e then [0] else [1])
    ++ (eventBytes { e with flags := e.flags ||| 2, ncont := 6 }).drop 12 ++ (if cperMemory e then [] else vendorBytes s e)

/-- The CPER record of a device-wide event, of at most 288 bytes (R671). -/
def cperBytes (s : State) (e : Event) : List Byte := (List.range 288).map (Config.cperByte (cperContent s e))

/-- Classes without a CPER record (R671). -/
def noCper (cls : Nat) : Bool := cls = 1 || cls = 3 || cls = 0x0C

/-- Six continuation records of 48 bytes (R672). -/
def cperConts (s : State) (e : Event) : List (List Byte) := (List.range 6).map (fun k => ((cperBytes s e).drop (48 * k)).take 48)

/-- OBJECT of an event's log record: the tile, slice, job, stream or port concerned, the cluster's slice of an engine, else the job; 0 for a
supply, a sensor, a partition, Tyrax and Fumarole (R580, R665). -/
def eventObject (e : Event) : Nat := if [1, 2, 3, 4, 5, 6].elem e.utype then e.unit else e.job

/-- Post to the device-wide queue, with CPER continuation records (R671, R672), and the CPER record for the management port to read
(R585); Tyrax logs every class but CORRECTED, the OVERFLOW record that the queue stores first among them (R582). -/
def postDev (s0 : State) (e : Event) : State :=
  let conts := if noCper e.cls then [] else cperConts s0 e
  let s1 := if s0.devQueue.lost ≠ 0 && queueRoom s0.devQueue (1 + conts.length) then logAdd s0 (mkLog 0x02 0xFE 0xF0 0x0C 0) else s0
  let s := if e.cls = 1 then s1 else logAdd s1 (mkLog 0x02 0xFE e.scope e.cls (eventObject e))
  { s with errors := bindLost s 0 s.devQueue (1 + conts.length),
           devQueue := queuePost s.devQueue 0xF0 (now s) e conts,
           mgt := if noCper e.cls then s.mgt else { s.mgt with unread := s.mgt.unread ++ [cperBytes s0 e] } }

/-- MG_ALERT_N: low while a device-wide event that the management port has not read is queued for it (R585). -/
def mgAlertN (s : State) : Bool := s.mgt.unread.isEmpty

/-- Post to a partition's queue. -/
def postPart (s : State) (p : Nat) (e : Event) : State :=
  { s with errors := bindLost s (p + 1) (getPart s p).queue 1,
           parts := s.parts.modify p (fun x => { x with queue := queuePost x.queue p (now s) e [] }) }

/-- The SEQ an event will take in each queue. -/
def devSeq (s : State) (cls : Nat) : Option Nat := queueSeq s.devQueue (if noCper cls then 1 else 7)
def partSeq (s : State) (p : Nat) : Option Nat := queueSeq (getPart s p).queue 1

/-! ## Outstanding errors (R669, R670) -/

/-- Is an error of the class outstanding on the unit? -/
def errOut (s : State) (c : ErrClass) (unit : Nat) : Bool := s.errors.any (fun e => e.cls = c && e.unit = unit)

/-- Record an error whose acknowledgement is a record of function `fn`'s queue. -/
def addErr (s : State) (c : ErrClass) (unit fn : Nat) (seq : Option Nat) : State :=
  { s with errors := s.errors ++ [{ cls := c, unit := unit, fn := fn, seq := seq }] }

/-! ## Partitions and shares -/

/-- The partition that holds a slice. -/
def partOfSlice (s : State) (n : Nat) : Option Nat :=
  (List.range 12).find? (fun p => (getPart s p).state ≠ .none && bitAt (getPart s p).slices n)

/-- Jobs of a partition. -/
def partJobs (s : State) (p : Nat) : List (Nat × Job) := s.jobs.filter (fun e => e.2.part = p)

/-- Tiles of a job's share on a cluster, ascending; those in service: brought up and not withdrawn (R630, R653). -/
def shareOn (j : Job) (c : Nat) : List Nat := j.share.filter (fun t => t / 8 = c)
def tileInService (s : State) (t : Nat) : Bool :=
  (getTile s t).phase1 && !(getTile s t).withdrawn && !(getTile s t).withdrawNext
def serviceOn (s : State) (j : Job) (c : Nat) : List Nat := (shareOn j c).filter (tileInService s)

/-- Clusters of a share, ascending. -/
def shareClusters (j : Job) : List Nat := (List.range 12).filter (fun c => j.share.any (fun t => t / 8 = c))

/-- A tile that a register access, a work list or a CHECK_TILE reaches leaves sleep (R617). -/
def wakeTile (s : State) (t : Nat) : State :=
  setTile s t (fun x => if x.power = .sleep then { x with power := .run } else x)

/-- Throttle level of a supply level (R619). -/
def supplyThrottle (n : Nat) : Nat := 2 * n

/-- The effective level of a die (R620). -/
def effLevel (s : State) (d : Nat) : Nat := max (supplyThrottle s.pwr.supply) (max (getDie s d).therm s.pwr.capLevel)

/-- Is a branch of a running tile clocked: 0 sequencer, 1 matrix engine, 2 vector engine with SCAN (R616, R639)? -/
def clocked (s : State) (t k : Nat) : Bool := bitAt (getTile s t).runEn k

/-- A slice leaves deep-sleep: the bring-up records are read, then zeros with ECC over every tile's Caldera (R618). -/
def wakeSlice (s : State) (n : Nat) : State :=
  if !(getSlice s n).deep then s
  else
    let s1 := forAll s (List.range 8) (fun s i => setTile s (8 * n + i) (fun x => { x with power := .run, record := none }))
    setSlice (devZero s1 (calAddr (8 * n) 0) (8 * 0x400000)) n (fun x => { x with deep := false })

/-- Number of slices of a mask. -/
def popMask (m : Nat) : Nat := ((List.range 12).filter (bitAt m)).length

/-- Add to a counter of a partition. -/
def orcAdd (s : State) (p i n : Nat) : State := setPart s p (fun x => { x with orcCnt := cntAt x.orcCnt i n })
def mgtAdd (s : State) (p i n : Nat) : State := setPart s p (fun x => { x with mgtCnt := cntAt x.mgtCnt i n })
def kvAdd (s : State) (p i n : Nat) : State := setPart s p (fun x => { x with kvCnt := cntAt x.kvCnt i n })

end Sys2Proof.Machine
end

