-- ==== Sys2Proof/Machine/RingOps.lean ====
section
/-! DEFINITION. The host interface's shared operations: which functions are served, MSI-X messages, and DCI completions
(R503 to R505, R518, R524 to R527). -/

namespace Sys2Proof.Machine

/-- Is a function served: the physical function always, virtual function p + 1 while VF Enable is set, NumVFs covers it
and the link is not degraded (R500, R503)? -/
def funcServed (s : State) (fn : Nat) : Bool :=
  fn = 0 || (s.link.vfEnable && decide (fn ≤ s.link.numVFs) && !s.link.degraded)

/-- Does a host-memory request of a function succeed: it is served, its Bus Master Enable is set, every configured IDE stream is secure
(R502, R505, R530), and no controlled drain runs, after whose start nothing completes (R622)? -/
def hostReadOk (s : State) (fn : Nat) : Bool :=
  funcServed s fn && (getFunc s fn).bme && s.link.ideConfigured.all (fun i => s.link.ideSecure.elem i) && !s.pwr.draining

/-- Is a host-interface tag free for a request of a function: of the partition's share of R15, or of the physical function's 16; what
Orchard and Tyrax read or write holds its tag within one row (R513, notes/assumptions/80.md)? -/
def tagFree (s : State) (fn : Nat) : Bool := decide (0 < if fn = 0 then s.pfTags else (getPart s (fn - 1)).tagsFree)

/-- May the BN1 write host memory for a function now: the request succeeds and a tag is free? Protected posted writes wait for the IDE
streams as reads do (DEDUCED from R502, notes/assumptions/89.md). -/
def hostWriteOk (s : State) (fn : Nat) : Bool := hostReadOk s fn && tagFree s fn

/-- Does an access to a device physical address go to host memory? -/
def isHost (a : Nat) : Bool := match placeOf a with | .host => true | _ => false

/-- The bytes of a ring entry that a read brings: what host memory holds, or, of an entry that was not visible when its doorbell arrived,
unpredictable contents, free values (R512, notes/assumptions/21.md). -/
def entryContents (s : State) (r : HostRead) (bs : List Byte) : List Byte × State :=
  match r with
  | .early => ((List.range bs.length).map (fun i => Config.freeByte (s.freeCtr + i)), { s with freeCtr := s.freeCtr + bs.length })
  | _ => (bs, s)

/-- May a write at an address be made now, or is it held (R505)? -/
def writeOpen (s : State) (fn a : Nat) : Bool := !isHost a || hostWriteOk s fn

/-- Can Orchard read a ring's head word now: of a word in host memory the read succeeds, a tag is free, and a region of the partition holds
it (R505, R508, R513)? The ring otherwise keeps the head read last. -/
def headReadable (s : State) (p : Nat) (r : Ring) : Bool :=
  !isHost r.ctl || (hostReadOk s (p + 1) && tagFree s (p + 1) && inRegions (funcRegions s (p + 1)) r.ctl 4)

/-- Does Tyrax run and serve commands (R516, R603)? -/
def tyraxUp (s : State) : Bool := s.mgt.state = .ready || s.mgt.state = .updating

/-- READY (R516): the function's DCI rings are served. -/
def funcReady (s : State) (fn : Nat) : Bool := tyraxUp s && (fn = 0 || (getPart s (fn - 1)).state ≠ .none)

/-! ## The device cache (R509, R510) -/

/-- A consumer head word's line is held in the cache of 4,096 lines; another line leaves a full cache. -/
def holdLine (s : State) (a : Nat) : State :=
  let l := a / 64 * 64
  if s.cache.elem l then s else { s with cache := setIns (if 4096 ≤ s.cache.length then s.cache.drop 1 else s.cache) l }

/-- Hold the line of a head word of a function, by host physical address: the word's region is COHERENT, for CXL.cache, and the link
carries it, which it does not while R500 applies. A head word elsewhere is read through CXL.io (DEDUCED from R507 and R509,
notes/assumptions/90.md). -/
def holdHead (s : State) (fn a : Nat) : State :=
  match regionAt (funcRegions s fn) a 4 with
  | some r => if isHost a && regCoherent r && !s.link.degraded then holdLine s (hpaAddr r a) else s
  | none => s

/-! ## Posted writes (R505, R511) -/

/-- Write at a device physical address for a function, or hold the write while the function may not write host memory (R505) or earlier
writes of it are held, which it may not pass (R511). -/
def dpaPut (s : State) (fn a : Nat) (bs : List Byte) : State :=
  if isHost a && (!hostWriteOk s fn || s.heldWrites.any (fun w => w.fn = fn)) then
    { s with heldWrites := s.heldWrites ++ [{ fn := fn, addr := a, bytes := bs }] }
  else dpaWrite s (funcRegions s fn) a bs

/-- Write what a function's writes were held, in order, once it may write. -/
def releaseWrites (s : State) (fn : Nat) : State :=
  if !hostWriteOk s fn then s
  else forAll { s with heldWrites := s.heldWrites.filter (fun w => w.fn ≠ fn) } (s.heldWrites.filter (fun w => w.fn = fn))
    (fun s w => dpaWrite s (funcRegions s fn) w.addr w.bytes)

/-! ## MSI-X (R527) -/

def setMsix (s : State) (fn v : Nat) (f : MsixEnt → MsixEnt) : State :=
  setFunc s fn (fun x => { x with msix := x.msix.modify v f })

/-- Send a vector's message: a posted write of its data at its address (R509). -/
def sendMsix (s : State) (fn v : Nat) : State :=
  let e := (getFunc s fn).msix.getD v MsixEnt.reset
  setMsix (hostWrite s e.addr.toNat (leBytes 4 e.data.toNat)) fn v (fun e => { e with pendingBit := false })

/-- Fire a vector: a masked vector, or one of a function that may not write, sets its pending bit. -/
def fireVector (s : State) (fn v : Nat) : State :=
  if 64 ≤ v then s
  else if ((getFunc s fn).msix.getD v MsixEnt.reset).masked || !hostWriteOk s fn then
    setMsix s fn v (fun e => { e with pendingBit := true })
  else sendMsix s fn v

/-- Send every pending message that may now be sent. -/
def releaseMsix (s : State) (fn : Nat) : State :=
  forAll s (List.range 64) (fun s v =>
    let e := (getFunc s fn).msix.getD v MsixEnt.reset
    if e.pendingBit && !e.masked && hostWriteOk s fn then sendMsix s fn v else s)

/-! ## DCI completions (R525) -/

/-- The bytes of a completion at a count of its ring: the phase is 1 on the first pass after the enable. -/
def completionBytes (c : DciCompletion) (size tail : Nat) : List Byte :=
  let phase := if tail / size % 2 = 0 then 1 else 0
  leBytes 4 (c.tag % 2 ^ 24 + 2 ^ 24 * c.status + 2 ^ 31 * phase) ++ leBytes 4 c.result ++ leBytes 8 c.detail

/-- Write one held completion to the ring. -/
def cqWriteOne (s : State) (fn : Nat) (c : DciCompletion) : State :=
  let f := getFunc s fn
  setFunc (hostWrite s (f.cqBase + 16 * (f.cqTail % f.cqSize)) (completionBytes c f.cqSize f.cqTail)) fn
    (fun x => { x with cqTail := (x.cqTail + 1) % 2 ^ 32 })

/-- Can the completion ring be written? -/
def cqOpen (s : State) (fn : Nat) : Bool := (getFunc s fn).cqEn && hostWriteOk s fn

/-- How many held completions the ring has room for. -/
def cqRoom (f : Func) : Nat := f.cqSize - (f.cqTail + 2 ^ 32 - f.cqHead) % 2 ^ 32

/-- Write the held completions while the ring is enabled and has room, then fire its vector once for the batch. -/
def cqDrain (s : State) (fn : Nat) : State :=
  let f := getFunc s fn
  let batch := f.cqHeld.take (cqRoom f)
  if !cqOpen s fn || batch.isEmpty then s
  else
    let s1 := forAll (setFunc s fn (fun x => { x with cqHeld := x.cqHeld.drop batch.length })) batch
      (fun s c => cqWriteOne s fn c)
    if f.cqIrq then fireVector s1 fn f.cqVec else s1

/-- Complete a command: it is no longer outstanding, and its completion goes to the ring or is held (R505, R518). -/
def dciComplete (s : State) (fn : Nat) (tag : W32) (status result detail : Nat) : State :=
  cqDrain (setFunc s fn (fun x =>
    { x with outstanding := x.outstanding.eraseP (fun o => o.tag = tag),
             cqHeld := x.cqHeld ++ [{ tag := tag.toNat, status := status, result := result % 2 ^ 32,
                                      detail := detail % 2 ^ 64 }] })) fn

/-- Complete every waiting command of which a test holds, with one status. -/
def completeWaiters (s : State) (p : Waiter → Bool) (status result detail : Nat) : State :=
  let ws := s.waiters.filter p
  forAll { s with waiters := s.waiters.filter (fun w => !p w) } ws
    (fun s w => dciComplete s w.fn w.tag status result detail)

/-- A command that was taken now waits. -/
def dciWait (s : State) (fn : Nat) (tag : W32) (w : WaitFor) (deadline : Option Nat) : State :=
  { s with waiters := s.waiters ++ [{ fn := fn, tag := tag, what := w, deadline := deadline }] }

/-! ## What was held goes out (R505) -/

/-- Everything of a function that waited for Bus Master Enable, VF Enable, NumVFs, an IDE stream or a tag goes out now. -/
def releaseHeld (s : State) (fn : Nat) : State := releaseMsix (cqDrain (releaseWrites s fn) fn) fn

/-- What waited on every function goes out. -/
def releaseAll (s : State) : State := forAll s (List.range 13) releaseHeld

/-! ## Status codes (R538) -/

def stOk : Nat := 0
def stBusy : Nat := 1
def stInvalid : Nat := 2
def stNoResource : Nat := 3
def stDenied : Nat := 4
def stTableBusy : Nat := 5
def stNotFound : Nat := 6
def stTimeout : Nat := 7
def stFaulted : Nat := 8
def stVersion : Nat := 9
def stPending : Nat := 10

end Sys2Proof.Machine
end

