-- ==== Sys2Proof/Machine/PlaceOps.lean ====
section
/-! DEFINITION. The placement map of a Geyser engine and the bytes behind it (R170, R174, R229), and what running commands keep
of bytes that another command's commit replaces (R29). -/

namespace Sys2Proof.Machine

/-! ## The map (R229) -/

/-- The longest match: the smallest range that holds the address. -/
def placeFind (g : Gey) (a : Nat) : Option PlaceEnt :=
  (g.place.filter (fun e => decide (e.base ≤ a) && decide (a < e.base + 2 ^ e.k))).foldl
    (fun (m : Option PlaceEnt) e => match m with
      | some x => if e.k < x.k then some e else m
      | none => some e) none

/-- Bytes of a range at its new place. -/
def moveLen (k : Nat) (coded : Bool) : Nat := if coded then 2 ^ k + 2 ^ k / 256 else 2 ^ k

/-- The ranges that data redirected by an engine takes, and those of moves that are being made. -/
def movedTo (s : State) : List (Nat × Nat) :=
  s.geys.flatMap (fun g => g.place.map (fun e => (e.dest, moveLen e.k e.coded)))
    ++ s.moves.map (fun m => (m.dest, moveLen m.k m.coded))

/-- Where the header and the body slot of unit u of a coded range lie (R170). -/
def unitHdr (e : PlaceEnt) (u : Nat) : Nat := e.dest + 2 ^ e.k + 16 * u
def unitBody (e : PlaceEnt) (u : Nat) : Nat := e.dest + 4096 * u

/-- The decoded bytes of unit u of a coded range at its location. -/
def unitAt (s : State) (rs : List Region) (e : PlaceEnt) (u : Nat) : Except Nat (List Byte) :=
  let hdr := dpaRead s rs (unitHdr e u) 16
  gcDecode hdr (dpaRead s rs (unitBody e u) (gcBodyLen hdr))

/-- The first uncorrectable word among the header and the body of a unit: what a read of it reads (R174). -/
def unitBad (s : State) (rs : List Region) (e : PlaceEnt) (u : Nat) : Option Nat :=
  ((addrs (unitHdr e u) 16).find? (isBad s)).or
    ((addrs (unitBody e u) (gcBodyLen (dpaRead s rs (unitHdr e u) 16))).find? (isBad s))

/-- A byte of a redirected range. -/
def placedByte (s : State) (rs : List Region) (e : PlaceEnt) (a : Nat) : Byte :=
  let o := a - e.base
  if e.coded then (match unitAt s rs e (o / 4096) with | .ok b => b.getD (o % 4096) 0 | .error _ => 0)
  else (dpaRead s rs (e.dest + o) 1).headD 0

/-- Write a coded unit of a function's partition at its location: header and body. -/
def putUnit (s : State) (fn : Nat) (e : PlaceEnt) (u esize : Nat) (b : List Byte) : State :=
  let (h, body) := gcEncode esize b
  dpaPut (dpaPut s fn (unitBody e u) body) fn (unitHdr e u) h

/-- The ESIZE of the coded unit at a location. -/
def unitEsize (s : State) (rs : List Region) (e : PlaceEnt) (u : Nat) : Nat :=
  bitsAt (leNat (dpaRead s rs (unitHdr e u) 2)) 2 2

/-- Write one byte of a function's partition at an address through a map. A unit that cannot be decoded keeps what it holds: a transfer
that would write there has failed (R175), and the write of a commit, which can no longer abort, is dropped without a report (DESIGN
CHOICE, notes/assumptions/87.md). -/
def placedWrite (s : State) (fn : Nat) (g : Gey) (a : Nat) (b : Byte) : State :=
  match placeFind g a with
  | none => dpaPut s fn a [b]
  | some e =>
    let o := a - e.base
    if e.coded then
      (match unitAt s (funcRegions s fn) e (o / 4096) with
       | .ok u => putUnit s fn e (o / 4096) (unitEsize s (funcRegions s fn) e (o / 4096)) (u.set (o % 4096) b)
       | .error _ => s)
    else dpaPut s fn (e.dest + o) [b]

/-- The byte that lies at an address, as the engine of a cluster finds it. -/
def baseByte (s : State) (cl p a : Nat) : Byte :=
  match placeFind (getGey s cl) a with
  | some e => placedByte s (funcRegions s (p + 1)) e a
  | none => (dpaRead s (funcRegions s (p + 1)) a 1).headD 0

/-- Where an address is now. -/
def placedAt (s : State) (cl a : Nat) : Nat :=
  match placeFind (getGey s cl) a with
  | some e => e.dest + (a - e.base)
  | none => a

/-! ## Commits and commands that run (R29) -/

/-- Keep, of a byte that is about to be replaced, the value that a command has been reading. -/
def keepByte (s : State) (cl p : Nat) (l : List (Nat × Byte)) (a : Nat) : List (Nat × Byte) :=
  if tHas l a then l else tPut l a (baseByte s cl p a)

/-- Every command of the partition, but those on the tiles that commit, goes on reading the bytes that lie at the addresses now. A wait of
its start block that is satisfied later admits the bytes that replace them (R188). -/
def keepOld (s : State) (p : Nat) (own as : List Nat) : State :=
  { s with tiles := s.tiles.mapIdx (fun t x => { x with cmd := x.cmd.map (fun c =>
      if c.part = p && !own.elem t then { c with old := as.foldl (keepByte s (t / 8) p) c.old } else c) }) }

/-- Mark the units of a move that hold addresses. -/
def markUnits (m : Move) (as : List Nat) : Move :=
  let us := (as.filter (fun a => decide (m.base ≤ a) && decide (a < m.base + 2 ^ m.k))).map (fun a => (a - m.base) / 4096)
  { m with marked := us.foldl setIns m.marked }

/-- A commit of a partition marks the units that it writes of ranges that are being moved (R230). -/
def markMoves (s : State) (p : Nat) (as : List Nat) : State :=
  { s with moves := s.moves.map (fun m => if m.part = p then markUnits m as else m) }

/-- Commit bytes of a partition from tiles of a cluster. -/
def publish (s : State) (p cl : Nat) (own : List Nat) (ws : List (Nat × Byte)) : State :=
  forAll (markMoves (keepOld s p own (ws.map Prod.fst)) p (ws.map Prod.fst)) ws (fun s w => placedWrite s (p + 1) (getGey s cl) w.1 w.2)

end Sys2Proof.Machine
end

