-- ==== Sys2Proof/Machine/Transc.lean ====
section
/-! DEFINITION. The transcendental functions of the vector engine: the special operands of R130, the bound of R59 and
the fixed function of R60, which is a free value wherever it meets the bound (notes/assumptions/5.md). -/

namespace Sys2Proof.Machine

/-- The unary functions (R124). -/
inductive UnOp where
  | rcp
  | rsqrt
  | exp
  | exp2
  | log
  | tanh
  | sigm
  | gelu
  | silu
  deriving DecidableEq, Repr

/-- Bits after the point of the reference evaluation. -/
def refP : Nat := 200
def refOne : Int := 2 ^ refP
/-- ln 2 in units of 2^−200. -/
def refLn2 : Int := 1113844574712631719546256151097547306333272293549090750737802

def mulP (a b : Int) : Int := a * b / refOne

/-- A finite value in units of 2^−200, held within ±2^9 (beyond it every function here has reached its limit). -/
def toP (neg : Bool) (m : Nat) (e : Int) : Int :=
  let lim : Int := 512 * refOne
  let q := e + refP
  let z : Int := if q < 0 then ((m / 2 ^ (-q).toNat : Nat) : Int)
    else if q > 2 ^ 12 then lim else ((m * 2 ^ q.toNat : Nat) : Int)
  let z := min z lim
  if neg then -z else z

/-- e^r for 0 ≤ r < 1 by its series. -/
def expSeries (r : Int) : Int :=
  ((List.range 60).foldl (fun (p : Int × Int) (k : Nat) => (p.1 + p.2, mulP p.2 r / ((k : Int) + 1))) (0, refOne)).1

/-- e^z as a mantissa in units of 2^−200 and a power of two. -/
def expP (z : Int) : Int × Int :=
  let n := z / refLn2
  (expSeries (z - n * refLn2), n)

/-- e^z in units of 2^−200. -/
def expFix (z : Int) : Int :=
  let (m, n) := expP z
  if 0 ≤ n then m * 2 ^ n.toNat else m / 2 ^ (-n).toNat

/-- ln of m in [1, 2), in units of 2^−200. -/
def lnSeries (m : Int) : Int :=
  let z := (m - refOne) * refOne / (m + refOne)
  let z2 := mulP z z
  2 * ((List.range 70).foldl (fun (p : Int × Int) (k : Nat) => (p.1 + p.2 / (2 * (k : Int) + 1), mulP p.2 z2)) (0, z)).1

/-- Bits after the point where Φ is evaluated: near −16 it is 2^−187, the difference of two numbers near one half. -/
def phiP : Nat := 640
/-- 1 ÷ √(2π) in units of 2^−640. -/
def phiInvSqrt2Pi : Int :=
  1820150464190319494203866785703631173704171563122796470233450066561087044295148304852838913590182 * 10 ^ 96
    + 402037645514259844778733203633839842233661371634110202062154246293456649953713834282166314480533

/-- The standard normal distribution function at z, for |z| < 16, in units of 2^−640: one half and φ(z) times a series, both of
positive terms. -/
def phiFix (z : Int) : Int :=
  let z := z * 2 ^ (phiP - refP)
  let mul := fun (a b : Int) => a * b / 2 ^ phiP
  let z2 := mul z z
  let sum := fun (first : Int) (step : Int → Nat → Int) =>
    ((List.range 600).foldl (fun (p : Int × Int) k => (p.1 + p.2, step p.2 k)) (0, first)).1
  let e := sum (2 ^ phiP) (fun x k => mul x z2 / (2 * (k : Int) + 2))
  let s := sum z (fun x k => mul x z2 / (2 * (k : Int) + 3))
  2 ^ phiP / 2 + mul phiInvSqrt2Pi (s * 2 ^ phiP / e)

/-- The greatest b-bit number whose square is at most n. -/
def isqrt : Nat → Nat → Nat → Nat
  | 0, acc, _ => acc
  | b + 1, acc, n => if (acc + 2 ^ b) * (acc + 2 ^ b) ≤ n then isqrt b (acc + 2 ^ b) n else isqrt b acc n

/-- A number in units of 2^(−200 + x) as a value. -/
def ofP (z x : Int) : FVal := .fin (decide (z < 0)) z.natAbs (x - refP)

def sigmFix (z : Int) : Int :=
  if 0 ≤ z then refOne * refOne / (refOne + expFix (-z))
  else let u := expFix z; u * refOne / (refOne + u)

/-- The exact result, to at least 100 bits, for a finite non-zero operand inside the function's domain. -/
def refValue (op : UnOp) (neg : Bool) (m : Nat) (e : Int) : FVal :=
  let z := toP neg m e
  match op with
  | .rcp => .fin neg (2 ^ 240 / m) (-240 - e)
  | .rsqrt =>
    let (m', e') := if e % 2 = 0 then (m, e) else (2 * m, e - 1)
    .fin false (isqrt 210 0 (2 ^ 400 / m')) (-200 - e' / 2)
  | .exp => let (r, n) := expP z; ofP r n
  | .exp2 => let n := z / refOne; ofP (expSeries (mulP (z - n * refOne) refLn2)) n
  | .log =>
    let l := Nat.log2 m
    ofP ((e + l) * refLn2 + lnSeries ((m : Int) * refOne / 2 ^ l)) 0
  | .tanh =>
    let u := expFix (-2 * (if neg then -z else z))
    let t := (refOne - u) * refOne / (refOne + u)
    .fin neg t.natAbs (-refP)
  | .sigm => ofP (sigmFix z) 0
  | .gelu =>
    let p := if 16 * refOne ≤ z then 2 ^ phiP else if z ≤ -16 * refOne then 0 else phiFix z
    .fin neg (m * p.natAbs) (e - phiP)
  | .silu => .fin neg (m * (sigmFix z).natAbs) (e - refP)

/-- |a − b| ≤ k × 2^q? -/
def distLe (a b : FVal) (k : Nat) (q : Int) : Bool :=
  match addX a b.neg with
  | (.fin _ m e, _) => if q ≤ e then decide (m * 2 ^ (e - q).toNat ≤ k) else decide (m ≤ k * 2 ^ (q - e).toNat)
  | _ => false

/-- The bound of R59 against a reference value: units in the last place, and the absolute bound 2^q where the result is
below one half. -/
def ulpBound : UnOp → Nat × Option Int
  | .rcp => (1, none)
  | .rsqrt => (1, none)
  | .exp => (2, none)
  | .exp2 => (2, none)
  | .log => (2, none)
  | .tanh => (2, some (-24))
  | .sigm => (2, some (-24))
  | .gelu => (4, some (-23))
  | .silu => (4, some (-23))

def meetsBound (op : UnOp) (ref cand : FVal) : Bool :=
  match ref with
  | .fin _ m e =>
    let (k, ab) := ulpBound op
    (decide (m ≠ 0) && distLe cand ref k (quantum fp32 m e)) ||
      (match ab with
       | some q => decide ((Nat.log2 m : Int) + e < -1) && distLe cand ref 1 q
       | none => false)
  | _ => false

/-- The unit's own function (R60). -/
def unitFn : UnOp → W32 → W32
  | .rcp => Config.vrcp
  | .rsqrt => Config.vrsqrt
  | .exp => Config.vexp
  | .exp2 => Config.vexp2
  | .log => Config.vlog
  | .tanh => Config.vtanh
  | .sigm => Config.vsigm
  | .gelu => Config.vgelu
  | .silu => Config.vsilu

/-- Is the delivered word the exact result? -/
def isExact (op : UnOp) (x w : FVal) : Bool :=
  match op, x, w with
  | .rcp, .fin _ m e, .fin _ m' e' => decide (m * m' = 2 ^ (-(e + e')).toNat) && decide (e + e' ≤ 0)
  | .rsqrt, .fin _ m e, .fin _ m' e' =>
    decide (m * m' * m' = 2 ^ (-(e + 2 * e')).toNat) && decide (e + 2 * e' ≤ 0)
  | .exp2, .fin n m e, .fin _ m' e' =>
    let z := toP n m e
    decide (z % refOne = 0) && decide (((m' * 2 ^ (refP + 400) : Nat) : Int) =
      2 ^ (refP + 400 + z / refOne - e').toNat) && decide (0 ≤ refP + 400 + z / refOne - e')
      && decide (0 ≤ e + refP)
  | .log, .fin n m e, .fin _ m' _ => decide (alignTo n m e (min e 0) = alignTo false 1 0 (min e 0)) && decide (m' = 0)
  | _, _, _ => false

/-- The word delivered for a finite non-zero operand: the exact result where the reference is exact for VRSQRT and VRCP
(DEDUCED from the worked example of spec/04; notes/assumptions/5.md), else the unit's own function where it meets R59,
else the correctly rounded one. -/
def pickWord (op : UnOp) (x : W32) (ref : FVal) : W32 :=
  let r := (rnd32 ref).1
  match dec32 r with
  | .fin _ _ _ =>
    let c := unitFn op x
    if (op = .rsqrt || op = .rcp) && isExact op (dec32 x) (dec32 r) then r
    else if meetsBound op ref (dec32 c) then c else r
  | _ => r

/-- A unary function with the flags of R64 and the special operands of R130. -/
def funary (op : UnOp) (x : W32) : W32 × Flags :=
  match dec32 x with
  | .nan => (nan32, 0)
  | .inf neg =>
    match op with
    | .rcp => (if neg then 0x80000000 else 0, 0)
    | .rsqrt | .log => if neg then (nan32, flInvalid) else (if op = .log then 0x7F800000 else 0, 0)
    | .exp | .exp2 => (if neg then 0 else 0x7F800000, 0)
    | .tanh => (if neg then 0xBF800000 else 0x3F800000, 0)
    | .sigm => (if neg then 0 else 0x3F800000, 0)
    | .gelu | .silu => (if neg then 0x80000000 else 0x7F800000, 0)
  | .fin neg m e =>
    if m = 0 then
      match op with
      | .rcp | .rsqrt => (if neg then 0xFF800000 else 0x7F800000, flDivZero)
      | .exp | .exp2 => (0x3F800000, 0)
      | .log => (0xFF800000, flDivZero)
      | .sigm => (0x3F000000, 0)
      | .tanh | .gelu | .silu => (x, 0)
    else if neg && (op = .rsqrt || op = .log) then (nan32, flInvalid)
    else
      let w := pickWord op x (refValue op neg m e)
      match dec32 w with
      | .fin _ wm _ => (w, arithFlags (!isExact op (.fin neg m e) (dec32 w)) (decide (wm < 2 ^ 23)) false)
      | _ => (w, flOverflow ||| flInexact)

end Sys2Proof.Machine
end

