-- ==== Sys2Proof/Machine/VecOps.lean ====
section
/-! DEFINITION. The vector engine as functions of its registers (spec/04_vector_engine.md): lanes, masks, reductions,
prefixes, permutes. What an instruction does to memory and to its command stands in Vector.lean and VecMem.lean. -/

namespace Sys2Proof.Machine

/-- What a vector instruction leaves: the engine, lanes that raised RANGE, rows that raised EMPTY (R139). -/
structure VOut where
  eng : Engine
  range : Nat
  empty : Nat
  deriving DecidableEq, Repr

/-- The lanes below N of an instruction. -/
def lanes (n : Nat) : List Nat := List.range n

/-- The OR of the flags that active lanes raise (R65). -/
def laneFlags (g : Engine) (n : Nat) (men : Bool) (msk : Nat) (f : Nat → Flags) : Flags :=
  (lanes n).foldl (fun fl e => if vActive g men msk e then fl ||| f e else fl) 0

/-- The new contents of element e of a destination register (R117). -/
def laneWord (g : Engine) (men : Bool) (msk : Nat) (mz : Bool) (vd : Nat) (f : Nat → W32) (e : Nat) : W32 :=
  if vActive g men msk e then f e else if mz then 0 else vGet g vd e

/-- The new contents of bit e of a destination mask (R117). -/
def laneBit (g : Engine) (men : Bool) (msk : Nat) (mz : Bool) (md : Nat) (f : Nat → Bool) (e : Nat) : Bool :=
  if vActive g men msk e then f e else if mz then false else mGet g md e

/-- A lane operation on registers: every source is read in the old engine (R119). -/
def laneOp (g : Engine) (n : Nat) (men : Bool) (msk : Nat) (mz : Bool) (vd : Nat) (f : Nat → W32 × Flags) : Engine :=
  markNarrow (addFlags (vPutAll g vd ((lanes n).map (fun e => (e, laneWord g men msk mz vd (fun e => (f e).1) e))))
    (laneFlags g n men msk (fun e => (f e).2)))
    vd ((lanes n).filter (fun e => isNarrow g vd e && !vActive g men msk e && !mz))

/-- The active elements of an instruction that writes narrowed values, or moves them, keep them as narrowed values (R284): `src e` says
whether element e takes one. -/
def vNarrow (a : VArgs) (g g' : Engine) (src : Nat → Bool) : Engine :=
  markNarrow g' a.vd.toNat ((lanes a.n.toNat).filter (fun e => vActive g a.men a.msk.toNat e && src e))

/-- A lane operation that writes a mask. -/
def laneMask (g : Engine) (n : Nat) (men : Bool) (msk : Nat) (mz : Bool) (md : Nat) (f : Nat → Bool) : Engine :=
  mPutAll g md ((lanes n).map (fun e => (e, laneBit g men msk mz md f e)))

/-- Layout V of an instruction that writes register VD. -/
def vLane (a : VArgs) (g : Engine) (f : Nat → W32 × Flags) : Engine :=
  laneOp g a.n.toNat a.men a.msk.toNat a.mz a.vd.toNat f

/-- Layout V of an instruction that writes mask VD[2:0]. -/
def mLane (a : VArgs) (g : Engine) (f : Nat → Bool) : Engine :=
  laneMask g a.n.toNat a.men a.msk.toNat a.mz (a.vd.toNat % 8) f

/-- Number of active lanes that meet a condition. -/
def countLanes (g : Engine) (a : VArgs) (f : Nat → Bool) : Nat :=
  ((lanes a.n.toNat).filter (fun e => vActive g a.men a.msk.toNat e && f e)).length

/-- One source. -/
def vUn (a : VArgs) (g : Engine) (f : W32 → W32 × Flags) : Engine := vLane a g (fun e => f (vGet g a.va.toNat e))

/-- Two sources. -/
def vBin (a : VArgs) (g : Engine) (f : W32 → W32 → W32 × Flags) : Engine :=
  vLane a g (fun e => f (vGet g a.va.toNat e) (vGet g a.vb.toNat e))

/-- Three sources. -/
def vTri (a : VArgs) (g : Engine) (f : W32 → W32 → W32 → W32 × Flags) : Engine :=
  vLane a g (fun e => f (vGet g a.va.toNat e) (vGet g a.vb.toNat e) (vGet g a.vc.toNat e))

/-- Two mask sources. -/
def mBin (a : VArgs) (g : Engine) (f : Bool → Bool → Bool) : Engine :=
  mLane a g (fun e => f (mGet g a.va.toNat e) (mGet g a.vb.toNat e))

/-- The result of VIOTA at element e (R124): IMM + e, or IMM + p in the row, saturating. -/
def iotaWord (a : VArgs) (geo : Geom) (e : Nat) : W32 × Flags :=
  satI32 (a.imm.toInt + (if a.sub = 0 then e else e % geoRow geo a.n.toNat : Nat))

/-- VQNT (R124): narrow to FMT and widen again. -/
def quantWord (fmt : Nat) (mode : RMode) (sat : Bool) (w : W32) : W32 × Flags :=
  match fmtFloat fmt with
  | some f => let (c, fl) := narrow f mode sat (dec32 w); ((rnd32 (fdecode f c)).1, fl)
  | none => (0, 0)

/-- VPERM and VBCE (R129): the element at an index, or +0 and RANGE outside 0 to N − 1. -/
def pickLane (g : Engine) (va n : Nat) (i : Int) : W32 × Flags :=
  if i < 0 ∨ (n : Int) ≤ i then (0, flRange) else (vGet g va i.toNat, 0)

/-- MPOP (R124): the count in element 0, whatever the mask. -/
def popOp (a : VArgs) (g : Engine) : Engine :=
  vPutAll g a.vd.toNat [(0, BitVec.ofNat 32 (countLanes g a (fun e => mGet g a.va.toNat e)))]

/-! ## Reductions (R125 to R127) -/

/-- The value of a node of the tree of R126, with the flags of its combinations; `none` is an empty node. -/
def treeRed (op : W32 → W32 → W32 × Flags) : Nat → List (Option W32) → Option W32 × Flags
  | 0, l => ((l[0]?).join, 0)
  | d + 1, l =>
    let (a, fa) := treeRed op d (l.take (2 ^ d))
    let (b, fb) := treeRed op d (l.drop (2 ^ d))
    match a, b with
    | none, _ => (b, fa ||| fb)
    | _, none => (a, fa ||| fb)
    | some x, some y => let (r, f) := op x y; (some r, fa ||| fb ||| f)

/-- The depth of the tree over n leaves. -/
def treeDepth (n : Nat) : Nat := if n ≤ 1 then 0 else Nat.log2 (n - 1) + 1

/-- A root that is NaN is delivered as the canonical NaN (R126). -/
def canon32 (w : W32) : W32 := if (dec32 w).isNan then nan32 else w

/-- Combine a row, or the identity with EMPTY. -/
def rowRed (op : W32 → W32 → W32 × Flags) (ident : W32) (l : List (Option W32)) : W32 × Flags :=
  match treeRed op (treeDepth l.length) l with
  | (none, fl) => (ident, fl ||| flEmpty)
  | (some w, fl) => (canon32 w, fl)

def negInf32 : W32 := 0xFF800000
def posInf32 : W32 := 0x7F800000

/-- The flags that R124 calls arith. -/
def arithMask : Flags := flInvalid ||| flOverflow ||| flUnderflow ||| flInexact

/-- Logsumexp of a row (R127). -/
def rowLse (l : List (Option W32)) : W32 × Flags :=
  match rowRed fmax negInf32 l with
  | (m, fm) =>
    if fm &&& flEmpty ≠ 0 then (negInf32, flEmpty)
    else match dec32 m with
      | .nan => (nan32, 0)
      | .inf _ => (m, 0)
      | .fin _ _ _ =>
        let ds := l.map (fun o => o.map (fun x =>
          let (d, f1) := fsub x m
          let (v, f2) := funary .exp d
          (v, f1 ||| f2)))
        let fl := ds.foldl (fun acc o => match o with | some p => acc ||| p.2 | none => acc) 0
        let (s, fs) := rowRed fadd 0 (ds.map (fun o => o.map Prod.fst))
        let (lg, fg) := funary .log s
        let (r, fr) := fadd m lg
        (r, (fl ||| fs ||| fg ||| fr) &&& arithMask)

/-- The lowest position of a NaN, else of the greatest value under an order (R127). -/
def argBest (better : W32 → W32 → Bool) (l : List (Option W32)) : Option Nat :=
  let ps := (List.range l.length).zip l
  match ps.find? (fun p => match p.2 with | some w => (dec32 w).isNan | none => false) with
  | some p => some p.1
  | none =>
    (ps.foldl (fun (acc : Option (Nat × W32)) p => match p.2, acc with
      | none, _ => acc
      | some w, none => some (p.1, w)
      | some w, some b => if better w b.2 then some (p.1, w) else acc) none).map Prod.fst

/-- One row under SUB of VRED (R125). -/
def redRow (sub : Nat) (l : List (Option W32)) : W32 × Flags :=
  let arg := fun (b : W32 → W32 → Bool) => match argBest b l with
    | some p => (BitVec.ofNat 32 p, 0)
    | none => ((0xFFFFFFFF : W32), flEmpty)
  match sub with
  | 0 => rowRed fadd 0 l
  | 1 => rowRed fmul 0x3F800000 l
  | 2 => rowRed fmax negInf32 l
  | 3 => rowRed fmin posInf32 l
  | 4 => rowLse l
  | 5 => arg (fun x y => fltX (dec32 y) (dec32 x))
  | _ => arg (fun x y => fltX (dec32 x) (dec32 y))

/-- The active elements of row q of an instruction of n elements, in order; `none` where inactive. -/
def rowElems (g : Engine) (n : Nat) (men : Bool) (msk va q : Nat) : List (Option W32) :=
  let len := geoRow g.geom n
  ((lanes n).drop (q * len)).take len |>.map (fun e => if vActive g men msk e then some (vGet g va e) else none)

/-- VRED (R125): one result a row, whatever the mask; N = 0 reduces one empty row. -/
def redOp (a : VArgs) (g : Engine) : VOut :=
  let n := a.n.toNat
  let rows := if n = 0 then 1 else geoRows g.geom n
  let rs := (lanes rows).map (fun q => redRow a.sub.toNat (rowElems g n a.men a.msk.toNat a.va.toNat q))
  let fl := rs.foldl (fun acc r => acc ||| r.2) 0
  { eng := addFlags (vPutAll g a.vd.toNat ((lanes rows).zip (rs.map Prod.fst))) fl, range := 0,
    empty := (rs.filter (fun r => r.2 &&& flEmpty ≠ 0)).length }

/-! ## Prefixes (R128) -/

/-- One level: position p ≥ d becomes y(p − d) ⊕ y(p), an empty operand passing the other. -/
def scanLevel (op : W32 → W32 → W32 × Flags) (d : Nat) (y : List (Option W32)) : List (Option W32) × Flags :=
  let prev := List.replicate d none ++ y
  let rs := (prev.zip y).map (fun p => match p.1, p.2 with
    | none, b => (b, (0 : Flags))
    | a, none => (a, 0)
    | some x, some z => let (r, f) := op x z; (some r, f))
  (rs.map Prod.fst, rs.foldl (fun acc r => acc ||| r.2) 0)

/-- All levels d = 1, 2, 4, … below the row's length. -/
def scanRow (op : W32 → W32 → W32 × Flags) (y : List (Option W32)) : List (Option W32) × Flags :=
  (List.range (treeDepth y.length)).foldl (fun acc k =>
    let (y', f) := scanLevel op (2 ^ k) acc.1
    (y', acc.2 ||| f)) (y, 0)

/-- The operation of VSCAN (R128). -/
def scanFn : Nat → W32 → W32 → W32 × Flags
  | 0 => fadd
  | 2 => fmax
  | _ => fmin

/-- VSCAN. -/
def prefixOp (a : VArgs) (g : Engine) : Engine :=
  let n := a.n.toNat
  let rs := (lanes (geoRows g.geom n)).map (fun q =>
    scanRow (scanFn a.sub.toNat) (rowElems g n a.men a.msk.toNat a.va.toNat q))
  let out := (rs.map Prod.fst).flatten
  let fl := rs.foldl (fun acc r => acc ||| r.2) 0
  addFlags (vLane a g (fun e => (canon32 ((out[e]?).join.getD 0), 0))) fl

end Sys2Proof.Machine
end

