-- ==== Sys2Proof/Machine/MxOps.lean ====
section
/-! DEFINITION. The matrix engine as functions of its planes, banks and operand bytes (spec/03_matrix_engine.md): loads,
products in the order of R91, the checksum column, drains. -/

namespace Sys2Proof.Machine

/-- The width class of a format (R73). -/
def fmtClass (f : Nat) : MxClass :=
  if f = 1 || f = 2 then .c16 else if f = 9 || f = 0xB then .c4 else .c8

/-- Output columns and bank rows of a class (R73, R75). -/
def MxClass.nw : MxClass → Nat
  | .c16 => 128
  | .c8 => 256
  | .c4 => 512
def MxClass.rows : MxClass → Nat
  | .c16 => 512
  | .c8 => 256
  | .c4 => 128

/-- The wider of two classes (R74). -/
def MxClass.wider (a b : MxClass) : MxClass := if a.nw ≤ b.nw then a else b

/-- Bytes of an element-plane column (R88). -/
def colBytes (fmt : Nat) : Nat := 16 * fmtBits fmt

/-- The value of an element code without its scale. -/
def elemVal (fmt code : Nat) : FVal :=
  if fmtIsInt fmt then
    let z := signedAt (fmtBits fmt) code
    .fin (decide (z < 0)) z.natAbs 0
  else match fmtFloat fmt with
    | some f => fdecode f code
    | none => .fin false 0 0

/-- Zero after decoding (R90). -/
def FVal.isZero : FVal → Bool
  | .fin _ m _ => m = 0
  | _ => false

/-! ## Weight planes -/

/-- The legal operand ranges of MXE_WLOAD (R80, R87). -/
def wloadOk (a : WloadArgs) : Bool :=
  let k := a.klen.toNat
  let f := a.wfmt.toNat
  a.rsv = 0 && fmtMatrix f
    && (if a.sparse then decide (4 ≤ k) && decide (k ≤ 256) && k % 4 = 0 else decide (1 ≤ k) && decide (k ≤ 128))
    && decide (1 ≤ a.ncol.toNat) && decide (a.ncol.toNat ≤ (fmtClass f).nw)

/-- The metadata nibbles of a column and whether those below KLEN ÷ 4 are in order (R94, R87). -/
def nibbles (bs : List Byte) : List Nat := unpackBits 4 64 bs
def nibOk (klen : Nat) (ns : List Nat) : Bool := (ns.take (klen / 4)).all (fun n => decide (n % 4 < n / 4))

/-- Element codes of every column: raw, or a stream of Quince blocks (R88, R155). -/
def loadCols (rd : Reader) (ref : RefSet) (a : WloadArgs) : Nat → Nat → Except Nat (List (List Nat))
  | 0, _ => .ok []
  | n + 1, off => do
    if a.wcoded then
      let (es, len) ← quinceBlock rd ref a.wfmt.toNat off
      let r ← loadCols rd ref a n (off + len)
      return es :: r
    else
      let b ← rd off (colBytes a.wfmt.toNat)
      let r ← loadCols rd ref a n (off + colBytes a.wfmt.toNat)
      return unpackBits (fmtBits a.wfmt.toNat) 128 b :: r

/-- Fixed-size side data of every column. -/
def loadSide (rd : Reader) (size : Nat) : Nat → Nat → Except Nat (List (List Byte))
  | 0, _ => .ok []
  | n + 1, off => do
    let b ← rd off size
    let r ← loadSide rd size n (off + size)
    return b :: r

/-- The plane that an MXE_WLOAD loads (R80, R88, R94, R155), or the cause of its abort. -/
def loadPlane (rd : Reader) (ref : RefSet) (a : WloadArgs) : Except Nat Plane := do
  let f := a.wfmt.toNat
  let n := a.ncol.toNat
  check (wloadOk a) 0x10
  check (!a.wcoded || f = 1 || f = 2) 0x02
  let es ← loadCols rd ref a n (a.wbase.toNat * 64)
  let ss ← if fmtIsMx f then loadSide rd 8 n (a.wsbase.toNat * 64) else .ok (List.replicate n [])
  let ms ← if a.sparse then loadSide rd 32 n (a.wmbase.toNat * 64) else .ok (List.replicate n [])
  let nibs := ms.map nibbles
  check (!a.sparse || nibs.all (nibOk a.klen.toNat)) 0x10
  return { fmt := f, sparse := a.sparse, klen := a.klen.toNat, ncol := n,
           cols := (es.zip (ss.zip nibs)).map (fun c => { codes := c.1, scales := byteNats c.2.1, nib := c.2.2 }) }

/-- The element code at logical position k of a column; none where the tile stores nothing: at or beyond KLEN, and at a
position of a sparse group that i0 and i1 do not name (R81, R94, R95). -/
def colCode (p : Plane) (c : PlaneCol) (k : Nat) : Option Nat :=
  if p.klen ≤ k then none
  else if p.sparse then
    let nb := c.nib.getD (k / 4) 0
    if k % 4 = nb % 4 then some (c.codes.getD (2 * (k / 4)) 0)
    else if k % 4 = nb / 4 then some (c.codes.getD (2 * (k / 4) + 1) 0) else none
  else some (c.codes.getD k 0)

/-- The weight at logical position k of a column, with its scale applied only where the scale is NaN (R43, R81, R94, R95). -/
def colWeight (p : Plane) (c : PlaneCol) (k : Nat) : FVal :=
  match colCode p c k with
  | none => .fin false 0 0
  | some code => if fmtIsMx p.fmt && c.scales.getD (k / 32) 0 = 0xFF then .nan else elemVal p.fmt code

/-- The scale exponent of group g of a column. -/
def colExp (p : Plane) (c : PlaneCol) (g : Nat) : Int :=
  if fmtIsMx p.fmt then (c.scales.getD g 127 : Int) - 127 else 0

/-! ## Activation rows -/

/-- An activation row: element values (NaN under a NaN scale) and scale exponents of its groups. -/
structure ActRow where
  vals : List FVal
  exps : List Int
  deriving DecidableEq, Repr

/-- The values of element codes under their scale bytes. -/
def actRow (fmt : Nat) (codes scales : List Nat) : ActRow :=
  { vals := ((List.range codes.length).zip codes).map (fun e =>
      if fmtIsMx fmt && scales.getD (e.1 / 32) 0 = 0xFF then .nan else elemVal fmt e.2),
    exps := if fmtIsMx fmt then scales.map (fun (c : Nat) => (c : Int) - 127) else List.replicate 8 0 }

/-- The directory address of row r of a Sloe-coded operand (R160). -/
def actDir (a : MmaArgs) (r : Nat) : Nat :=
  a.abase.toNat * 64 + 4 * (a.astride.toNat % 16) + 4 * r * (a.astride.toNat / 16)

/-- The elements of positions 128 to 255 of a sparse plane's row: its directory entry is read, and its block where KLEN reaches it
(R81, R160). -/
def secondBlock (rd : Reader) (ref : RefSet) (f at_ klen : Nat) : Except Nat (List Nat) := do
  let (off, len) ← sloeDir rd at_
  if 128 < klen then sloeBlock rd ref f off len else .ok []

/-- Row r of the activations for KLEN positions; a code block whose elements all lie at or beyond KLEN is not read (R81, R89,
R160). A raw row ends, for the check against 4 MiB, with its element KLEN − 1: DESIGN CHOICE, notes/assumptions/82.md (R87). -/
def loadAct (rd : Reader) (ref : RefSet) (a : MmaArgs) (p : Plane) (r : Nat) : Except Nat ActRow := do
  let f := a.afmt.toNat
  if a.acoded then
    let e0 ← sloeAt rd ref f (actDir a r)
    let e1 ← if p.sparse then secondBlock rd ref f (actDir a r + 4) p.klen else .ok []
    return actRow f ((e0 ++ e1).take p.klen) []
  else
    let b ← rd (a.abase.toNat * 64 + r * a.astride.toNat * 64) (cdiv (p.klen * fmtBits f) 8)
    let sc ← if fmtIsMx f then rd (a.asbase.toNat * 64 + 8 * r) 8 else .ok []
    return actRow f (unpackBits (fmtBits f) p.klen b) (byteNats sc)

/-- Is row r of the operand absent under ZSKIP (R162)? -/
def zskipRow (rd : Reader) (a : MmaArgs) (p : Plane) (r : Nat) : Except Nat Bool := do
  if a.zskip && a.acoded then
    let z0 ← sloeZero rd (actDir a r)
    let z1 ← if p.sparse then sloeZero rd (actDir a r + 4) else .ok true
    return z0 && z1
  else return false

/-! ## Products and sums (R90, R91) -/

/-- The formed products of a group, exact, with ascending k (R90). -/
def groupProducts (x w : List FVal) : List FVal :=
  ((x.zip w).filter (fun p => !p.1.isZero && !p.2.isZero)).map (fun p => (mulX p.1 p.2).1)

/-- A value times a power of two. -/
def FVal.scale (v : FVal) (k : Int) : FVal :=
  match v with
  | .fin n m e => .fin n m (e + k)
  | v => v

/-- Round to FP32 keeping the matrix engine's flags (R93): OVERFLOW for a finite value that becomes infinite, INVALID for
an invalid addition. -/
def mxRnd (v : FVal × Bool) : W32 × Flags :=
  let (w, f) := rnd32 v.1
  (w, (f &&& flOverflow) ||| flIf v.2 flInvalid)

/-- Group sum in the 16-bit class: each product to FP32, then FP32 additions in order, then the scale. -/
def group16 (ps : List FVal) (x : Int) : W32 × Flags :=
  let (s, fl) := ps.foldl (fun (acc : W32 × Flags) p =>
    let (q, f1) := mxRnd (p, false)
    let (r, f2) := mxRnd (addX (dec32 acc.1) (dec32 q))
    (r, acc.2 ||| f1 ||| f2)) (0, 0)
  let (g, f) := mxRnd ((dec32 s).scale x, false)
  (g, fl ||| f)

/-- The exact sum of products, folded in ascending k. Where a group holds both infinities beside a NaN product, INVALID is
raised when they meet before the NaN: R91 and R93 give `exactsum` no order inside a group (DESIGN CHOICE,
notes/assumptions/73.md). -/
def exactSum (ps : List FVal) : FVal × Bool :=
  ps.foldl (fun (acc : FVal × Bool) p =>
    let (r, i) := addX acc.1 p
    (r, acc.2 || i)) (.fin false 0 0, false)

/-- Group sum in the other floating-point classes: one rounding of the exact sum, scaled. -/
def groupFp (ps : List FVal) (x : Int) : W32 × Flags :=
  let (s, i) := exactSum ps
  mxRnd (s.scale x, i)

/-- The integer a finite value holds. -/
def FVal.toInt : FVal → Int
  | .fin n m e => let z : Int := ((m * 2 ^ e.toNat : Nat) : Int); if n then -z else z
  | _ => 0

/-- The groups of a row and a column: formed products and summed scale exponents. -/
def rowGroups (p : Plane) (x : ActRow) (c : PlaneCol) : List (List FVal × Int) :=
  let w := (List.range p.klen).map (colWeight p c)
  (List.range (cdiv p.klen 32)).map (fun g =>
    (groupProducts ((x.vals.drop (32 * g)).take 32) ((w.drop (32 * g)).take 32), x.exps.getD g 0 + colExp p c g))

/-- The column partial in floating-point classes (R91); `none` when no product is formed. -/
def partialFp (c16 : Bool) (gs : List (List FVal × Int)) : Option W32 × Flags :=
  gs.foldl (fun (acc : Option W32 × Flags) g =>
    if g.1.isEmpty then acc
    else
      let (v, f) := if c16 then group16 g.1 g.2 else groupFp g.1 g.2
      match acc.1 with
      | none => (some v, acc.2 ||| f)
      | some p => let (r, f2) := mxRnd (addX (dec32 p) (dec32 v)); (some r, acc.2 ||| f ||| f2)) (none, 0)

/-- The column partial in integer classes, exact. -/
def partialInt (gs : List (List FVal × Int)) : Option Int :=
  gs.foldl (fun acc g =>
    if g.1.isEmpty then acc else some (acc.getD 0 + (exactSum g.1).1.toInt)) none

/-- The partials of one row over the columns of a plane. -/
def rowPartials (p : Plane) (cls : MxClass) (x : ActRow) : List (Option W32 × Flags) :=
  p.cols.map (fun c => partialFp (cls = .c16) (rowGroups p x c))
def rowPartialsInt (p : Plane) (x : ActRow) : List (Option Int) := p.cols.map (fun c => partialInt (rowGroups p x c))

/-! ## The checksum column (R100 to R103) -/

/-- What the column finds on a row. -/
inductive ChkRes where
  | pass
  | skipped
  | fail
  deriving DecidableEq, Repr

/-- A running FP32 sum by RNE. -/
def sum32 (vs : List FVal) : W32 := vs.foldl (fun acc v => (rnd32 (addX (dec32 acc) (dec32 (rnd32 v).1)).1).1) 0

def FVal.abs : FVal → FVal
  | .inf _ => .inf false
  | .fin _ m e => .fin false m e
  | v => v

/-- s[k] and a[k] of R101, over the columns in ascending order. -/
def colSums (p : Plane) (k : Nat) : W32 × W32 :=
  let ws := p.cols.map (fun c => (colWeight p c k).scale (colExp p c (k / 32)))
  (sum32 ws, sum32 (ws.map FVal.abs))

/-- C or B of R102: products with a zero operand are not formed (R90). The manual gives the order and the rounding of these FP32
sums no words: each product is rounded and then added, in ascending k (DESIGN CHOICE, notes/assumptions/73.md). -/
def chkDot (xs : List FVal) (ss : List W32) : W32 :=
  sum32 (((xs.zip ss).filter (fun p => !p.1.isZero && !(dec32 p.2).isZero)).map (fun p => (mulX p.1 (dec32 p.2)).1))

/-- The activation row with its scales applied. -/
def scaledRow (x : ActRow) : List FVal :=
  ((List.range x.vals.length).zip x.vals).map (fun e => e.2.scale (x.exps.getD (e.1 / 32) 0))

/-- a ≤ b for finite values that are not negative. -/
def leMag (a b : FVal) : Bool := !fltX b.abs a.abs

/-- The check of R102 and R103 in floating-point classes. The tree of S halves Nw leaves, as the reductions of R126 do, and
|S − C| and the bound are evaluated exactly: the manual gives neither the tree's shape nor a rounding of the comparison (DESIGN
CHOICE, notes/assumptions/73.md). -/
def chkRowFp (p : Plane) (cls : MxClass) (slack : Nat) (x : ActRow) (ps : List (Option W32)) : ChkRes :=
  let cs := (List.range p.klen).map (colSums p)
  let xs := scaledRow x
  let c := dec32 (chkDot xs (cs.map Prod.fst))
  let b := dec32 (chkDot (xs.map FVal.abs) (cs.map Prod.snd))
  let leaves := ps.map (fun o => some (o.getD 0)) ++ List.replicate (cls.nw - ps.length) (some 0)
  let s := dec32 ((treeRed fadd (treeDepth cls.nw) leaves).1.getD 0)
  match s, c, b with
  | .fin _ _ _, .fin _ _ _, .fin bn bm be =>
    let d := (addX s c.neg).1
    let bound := ((addX (.fin bn (bm * (p.klen + cls.nw)) (be - 23)) (.fin false 1 (-120))).1).scale slack
    if leMag d bound then .pass else .fail
  | _, _, _ => .skipped

/-- The check in integer classes: both sides exact. -/
def chkRowInt (p : Plane) (x : ActRow) (ps : List (Option Int)) : ChkRes :=
  let s := (ps.map (·.getD 0)).sum
  let cs := (List.range p.klen).map (fun k => ((p.cols.map (fun c => (colWeight p c k).toInt)).sum))
  let c := ((x.vals.zip cs).map (fun e => e.1.toInt * e.2)).sum
  if s = c then .pass else .fail

/-! ## MXE_MMA -/

/-- A bank entry: row-major by the class's row length (R75, R84). When ACCZ = 1 changes the class, entries outside the rows of the
instruction keep their words and are read with the new row length; the manual does not say what they hold (DESIGN CHOICE,
notes/assumptions/73.md). -/
def bankKey (cls : MxClass) (r n : Nat) : Nat := r * cls.nw + n

/-- What keeps an MXE_MMA legal (R87). With ACCZ = 0 a bank of the same width class that holds entries of the other type, FP32 or
INT32, is no class mismatch: its bits are taken as they are (DESIGN CHOICE, notes/assumptions/73.md). -/
def mmaOk (a : MmaArgs) (p : Plane) (b : Bank) : Bool :=
  let cls := (fmtClass a.afmt.toNat).wider (fmtClass p.fmt)
  fmtMatrix a.afmt.toNat && decide (p.ncol ≤ cls.nw) && decide (a.row0.toNat + a.m.toNat ≤ cls.rows)
    && (a.accz || b.cls = none || b.cls = some cls)
    && (fmtIsInt a.afmt.toNat = fmtIsInt p.fmt) && (!a.acoded || fmtAct a.afmt.toNat)

/-- The additions of one row's partials to its bank row. -/
def accRow (isInt : Bool) (cls : MxClass) (ent : Sparse W32) (row : Nat) (ps : List (Option W32)) (pi : List (Option Int)) :
    Sparse W32 × Flags :=
  if isInt then
    ((List.range pi.length).zip pi).foldl (fun (acc : Sparse W32 × Flags) e => match e.2 with
      | none => acc
      | some z =>
        let k := bankKey cls row e.1
        let (w, f) := satI32 ((sGet 0 acc.1 k).toInt + z)
        (sPut 0 acc.1 k w, acc.2 ||| f)) (ent, 0)
  else
    ((List.range ps.length).zip ps).foldl (fun (acc : Sparse W32 × Flags) e => match e.2 with
      | none => acc
      | some v =>
        let k := bankKey cls row e.1
        let (w, f) := mxRnd (addX (dec32 (sGet 0 acc.1 k)) (dec32 v))
        (sPut 0 acc.1 k w, acc.2 ||| f)) (ent, 0)

/-- What an MXE_MMA leaves: bank, flags, present rows, absent rows, a skipped check, the first row that failed. -/
structure MmaOut where
  bank : Bank
  flags : Flags
  present : Nat
  absent : Nat
  skipped : Bool
  failRow : Option Nat
  deriving DecidableEq, Repr

/-- One present row: partials, check, accumulation. Of several rows that fail, the first is reported: the manual gives one
CHECK_MISMATCH for the command that stops, and not which row it names (DESIGN CHOICE, notes/assumptions/73.md). -/
def mmaRow (p : Plane) (cls : MxClass) (isInt : Bool) (chk : Option Nat) (row r : Nat) (x : ActRow) (o : MmaOut) : MmaOut :=
  let ps := if isInt then [] else rowPartials p cls x
  let pi := if isInt then rowPartialsInt p x else []
  let res := match chk with
    | none => ChkRes.pass
    | some slack => if isInt then chkRowInt p x pi else chkRowFp p cls slack x (ps.map Prod.fst)
  let (ent, f) := accRow isInt cls o.bank.ent row (ps.map Prod.fst) pi
  { bank := { o.bank with ent := ent }, flags := ps.foldl (fun acc q => acc ||| q.2) (o.flags ||| f),
    present := o.present + 1, absent := o.absent, skipped := o.skipped || res = .skipped,
    failRow := if res = .fail && o.failRow.isNone then some r else o.failRow }

/-- The rows of an MXE_MMA in order; `gate r` says whether GEN keeps row r (R96). Only the rows that are read count in the operand
that must lie within 4 MiB (R87): the manual does not say whether absent rows do (DESIGN CHOICE, notes/assumptions/73.md). -/
def mmaRows (rd : Reader) (ref : RefSet) (a : MmaArgs) (p : Plane) (cls : MxClass) (isInt : Bool) (chk : Option Nat)
    (gate : Nat → Bool) : Nat → Nat → MmaOut → Except Nat MmaOut
  | 0, _, o => .ok o
  | n + 1, r, o => do
    if gate r then
      let z ← zskipRow rd a p r
      if z then mmaRows rd ref a p cls isInt chk gate n (r + 1) { o with absent := o.absent + 1 }
      else
        let x ← loadAct rd ref a p r
        mmaRows rd ref a p cls isInt chk gate n (r + 1) (mmaRow p cls isInt chk (a.row0.toNat + r) r x o)
    else mmaRows rd ref a p cls isInt chk gate n (r + 1) { o with absent := o.absent + 1 }

/-- MXE_MMA (R82 to R84, R90 to R96), or the cause of its abort. With M = 0 it does nothing, whatever the plane and the bank hold
(R82). -/
def mmaOp (rd : Reader) (ref : RefSet) (a : MmaArgs) (chk : Option Nat) (g : Engine) : Except Nat MmaOut := do
  check (a.rsv = 0) 0x10
  let b := if a.bank then g.bank1 else g.bank0
  let m := a.m.toNat
  if m = 0 then return { bank := b, flags := 0, present := 0, absent := 0, skipped := false, failRow := none }
  else match (if a.plane then g.plane1 else g.plane0) with
    | none => .error 0x10
    | some p =>
      check (mmaOk a p b) 0x10
      let cls := (fmtClass a.afmt.toNat).wider (fmtClass p.fmt)
      let ent := if a.accz then sClear b.ent (bankKey cls a.row0.toNat 0) (m * cls.nw) else b.ent
      mmaRows rd ref a p cls (fmtIsInt p.fmt) chk (fun r => !a.gen || mGet g a.gmask.toNat r) m 0
        { bank := { cls := some cls, ent := ent }, flags := 0, present := 0, absent := 0, skipped := false,
          failRow := none }

/-! ## MXE_DRAIN -/

/-- Does a drain's region fit a class? -/
def drainFits (a : DrainArgs) (c : MxClass) : Bool :=
  decide (a.row0.toNat + a.nrows.toNat ≤ c.rows) && decide (a.col0.toNat + a.ncol.toNat ≤ c.nw)

/-- What keeps an MXE_DRAIN legal (R84, R85, R87). -/
def drainOk (a : DrainArgs) (b : Bank) : Bool :=
  a.rsv = 0 && decide (a.nrows.toNat ≤ 512) && decide (a.ncol.toNat ≤ 512)
    && (match b.cls with
        | some c => drainFits a c
        | none => drainFits a .c16 || drainFits a .c8 || drainFits a .c4)
    && (a.dest || decide (a.nrows.toNat * a.ncol.toNat ≤ 4096))

/-- The keys of the drained entries, row-major. -/
def drainKeys (a : DrainArgs) (c : MxClass) : List Nat :=
  ((List.range a.nrows.toNat).map (fun r => (List.range a.ncol.toNat).map (fun n =>
    bankKey c (a.row0.toNat + r) (a.col0.toNat + n)))).flatten

/-- The drained words, row-major; a bank without a class delivers +0. -/
def drainWords (a : DrainArgs) (b : Bank) : List W32 :=
  match b.cls with
  | some c => (drainKeys a c).map (sGet 0 b.ent)
  | none => List.replicate (a.nrows.toNat * a.ncol.toNat) 0

/-- The bank after a drain: CLR sets each drained entry to +0. -/
def drainBank (a : DrainArgs) (b : Bank) : Bank :=
  match b.cls with
  | some c => if a.clr then { b with ent := sPutAll 0 b.ent ((drainKeys a c).map (fun k => (k, 0))) } else b
  | none => b

/-- The Caldera offsets and words of a drain to memory (R86). -/
def drainStores (a : DrainArgs) (ws : List W32) : List (Nat × W32) :=
  ((List.range ws.length).zip ws).map (fun e =>
    (a.obase.toNat * 64 + (e.1 / a.ncol.toNat) * (a.ostride.toNat * 64) + 4 * (e.1 % a.ncol.toNat), e.2))

end Sys2Proof.Machine
end

