-- ==== Sys2Proof/Machine/AttnOps.lean ====
section
/-! DEFINITION. Attention as functions of the engine and of operand bytes (spec/10_attention.md): key blocks, bias
buckets, forward and backward contexts, partial merges, and the Fumarole evaluation. -/

namespace Sys2Proof.Machine

/-- Reads an ATTN operand: cause 0x34 beyond the tile's Caldera (R358). -/
def attRead (rd : Reader) (off n : Nat) : Except Nat (List Byte) :=
  if off + n ≤ calBytes then rd off n else .error 0x34

/-- Head dimension of a DHC code (R339). -/
def dhOf (c : Nat) : Nat := 32 * (c + 1)

/-- The KV formats of R339. -/
def kvFmtOk (f : Nat) : Bool := decide (1 ≤ f) && decide (f ≤ 4)

/-! ## Key blocks (R339, R340) -/

/-- A key block: the position or absence of each group, the slots in use, K rows and V values as element codes. -/
structure KeyBlock where
  pb : List (Option Nat)
  kcnt : Nat
  fmt : Nat
  dhc : Nat
  k : List (List Nat)
  v : List (List Nat)
  deriving DecidableEq, Repr

/-- The bytes of a key block. -/
def keyBlockLen (dh fmt : Nat) : Nat := 64 + 32 * dh * fmtBits fmt

/-- The 64-byte head of a key block, checked (R339, R358). -/
def keyHeadOk (h : List Byte) : Bool :=
  let ws := (List.range 8).map (fun g => leAt h (4 * g) 4)
  ws.all (fun w => bitsAt w 20 11 = 0 && (bitAt w 31 || decide (w % 2 ^ 20 + 15 < 2 ^ 20)))
    && decide (leAt h 32 2 ≤ 128) && decide (leAt h 34 1 < 16) && decide (leAt h 35 1 < 4) && zeroAt h 36 28

/-- A key block read from Caldera in the formats of a context. -/
def readBlock (rd : Reader) (base dh fmt : Nat) : Except Nat KeyBlock := do
  let h ← attRead rd base 64
  check (keyHeadOk h) 0x33
  check (leAt h 34 1 = fmt && dhOf (leAt h 35 1) = dh) 0x33
  let w := fmtBits fmt
  let b ← attRead rd base (keyBlockLen dh fmt)
  let ks := unpackBits w (128 * dh) ((b.drop 64).take (16 * dh * w))
  let vs := unpackBits w (128 * dh) ((b.drop (64 + 16 * dh * w)).take (16 * dh * w))
  return { pb := (List.range 8).map (fun g => let x := leAt h (4 * g) 4; if bitAt x 31 then none else some (x % 2 ^ 20)),
           kcnt := leAt h 32 2, fmt := fmt, dhc := leAt h 35 1,
           k := (List.range 128).map (fun j => (ks.drop (j * dh)).take dh),
           v := (List.range dh).map (fun d => (vs.drop (d * 128)).take 128) }

/-- The position of a key slot. -/
def kpos (b : KeyBlock) (j : Nat) : Option Nat := ((b.pb.getD (j / 16) none).map (· + j % 16))

def infoQpos (w : W32) : Nat := w.toNat % 2 ^ 20
def infoHead (w : W32) : Nat := bitsAt w.toNat 20 8
def infoOff (w : W32) : Bool := bitAt w.toNat 31

/-- Is slot j valid for a row (R340)? -/
def slotValid (b : KeyBlock) (causal : Bool) (info : W32) (j : Nat) : Bool :=
  decide (j < b.kcnt) && (match kpos b j with
    | none => false
    | some p => !causal || decide (p ≤ infoQpos info))

/-- The bucket of a distance (R342). -/
def bucket (d : Nat) : Nat :=
  if d < 32 then d
  else if d < 2 ^ 19 then
    let e := Nat.log2 d
    32 + 16 * (e - 5) + d / 2 ^ (e - 4) % 16
  else 255

/-- |QPOS − kpos|; for a causal row a valid slot has QPOS ≥ kpos. -/
def distOf (q p : Nat) : Nat := if p ≤ q then q - p else p - q

/-- The bias entries of the latched copy: the FP32 word of head h and bucket b, with its base in 64 B units (R343). -/
def biasWord (rd : Reader) (base h b : Nat) : Except Nat W32 := do
  let x ← attRead rd (64 * base + 1024 * h + 4 * b) 4
  return BitVec.ofNat 32 (leNat x)

/-! ## Partials (R91) over plain lists of values -/

/-- The flags that ATTN_STEP, ATTN_MERGE and ATTN_BWD keep (R354). -/
def attMask : Flags := flInvalid ||| flOverflow

/-- One R91 partial of two lists of values without scales; +0 when no product is formed. -/
def dotPart (c16 : Bool) (x w : List FVal) : W32 × Flags :=
  let gs := (List.range (cdiv x.length 32)).map (fun g =>
    (groupProducts ((x.drop (32 * g)).take 32) ((w.drop (32 * g)).take 32), (0 : Int)))
  let (p, f) := partialFp c16 gs
  (p.getD 0, f)

/-- Does the pair of formats run in the 16-bit class? -/
def is16 (f g : Nat) : Bool := (fmtClass f).wider (fmtClass g) = .c16

def vals (fmt : Nat) (cs : List Nat) : List FVal := cs.map (elemVal fmt)

/-- The biases of a row against the slots of a block. -/
def rowBias (rd : Reader) (base : Nat) (b : KeyBlock) (causal : Bool) (info : W32) : List Nat → Except Nat (List W32)
  | [] => .ok []
  | j :: js => do
    let x ← match slotValid b causal info j, kpos b j with
      | true, some p => biasWord rd base (infoHead info) (bucket (distOf (infoQpos info) p))
      | _, _ => .ok 0
    let r ← rowBias rd base b causal info js
    return x :: r

/-- The scores of a row (R351): `none` where a slot is not valid. -/
def rowScores (c : AttnCtx) (b : KeyBlock) (info : W32) (q : List Nat) (bias : List W32) : List (Option (W32 × Flags)) :=
  (List.range 128).map (fun j =>
    if slotValid b c.causal info j then
      let (d, f1) := dotPart (is16 c.qfmt c.kvfmt) (vals c.qfmt q) (vals c.kvfmt (b.k.getD j []))
      let (x, f2) := fmul c.scale d
      let (s, f3) := fadd x (bias.getD j 0)
      some (s, f1 ||| f2 ||| f3)
    else none)

/-- The OR of the flags of a list of results. -/
def orFlags (l : List Flags) : Flags := l.foldl (· ||| ·) 0

/-! ## Context registers -/

/-- The number of output registers of a context (R349). -/
def ctxRegs (qrows dh : Nat) : Nat := cdiv (qrows * dh) 4096

/-- The vector-register key of output element (r, d): registers from `vo` on, 4,096 elements each. -/
def outKey (vo dh r d : Nat) : Nat := vKey vo (r * dh + d)

def outGet (g : Engine) (vo dh r d : Nat) : W32 := sGet 0 g.v (outKey vo dh r d)

def ctxOf (g : Engine) (ctx : Bool) : Option AttnCtx := if ctx then g.ctx1 else g.ctx0
def setCtx (g : Engine) (ctx : Bool) (c : Option AttnCtx) : Engine :=
  if ctx then { g with ctx1 := c } else { g with ctx0 := c }

/-- After any ATTN instruction planes are empty and banks as at command start (R347). -/
def clearMx (g : Engine) : Engine :=
  { g with plane0 := none, plane1 := none, bank0 := Bank.reset, bank1 := Bank.reset }

/-- The registers a context holds: outputs, and statistics of a forward context. -/
def ctxHolds (c : AttnCtx) : List Nat :=
  (List.range (ctxRegs c.qrows c.dh)).map (c.vo + ·) ++ (if c.bwd then [] else [c.vs])

/-- Register rules of R349: outputs within V15, apart from the context's own VS and VQI and from the other context. -/
def ctxRegsOk (g : Engine) (ctx : Bool) (c : AttnCtx) (vqi : Nat) : Bool :=
  let outs := (List.range (ctxRegs c.qrows c.dh)).map (c.vo + ·)
  decide (c.vo + ctxRegs c.qrows c.dh ≤ 16) && !outs.elem vqi && (c.bwd || !outs.elem c.vs)
    && (match ctxOf g (!ctx) with
        | none => true
        | some o => (ctxHolds c).all (fun r => !(ctxHolds o).elem r))

/-- Row-information words are legal (R341, R358). -/
def infoOk (nbh : Nat) (ws : List W32) : Bool :=
  ws.all (fun w => bitsAt w.toNat 28 3 = 0 && decide (infoHead w < nbh))

/-- Rows of DH elements at a stride. -/
def readRows (rd : Reader) (fmt dh base stride : Nat) : Nat → Nat → Except Nat (List (List Nat))
  | 0, _ => .ok []
  | n + 1, r => do
    let b ← attRead rd (base + r * stride) (cdiv (dh * fmtBits fmt) 8)
    let rest ← readRows rd fmt dh base stride n (r + 1)
    return unpackBits (fmtBits fmt) dh b :: rest

/-- ATTN_INIT (R348, R349). -/
def attnInitOp (rd : Reader) (nbh : Nat) (a : AttnInitArgs) (g : Engine) : Except Nat Engine := do
  let qrows := a.qrows1.toNat + 1
  let dh := dhOf a.dhc.toNat
  check ((ctxOf g a.ctx).isNone) 0x31
  check (fmtAct a.qfmt.toNat && kvFmtOk a.kvfmt.toNat && (a.pfmt.toNat = 1 || a.pfmt.toNat = 3)) 0x32
  let info := (List.range qrows).map (vGet g a.vqi.toNat)
  check (infoOk nbh info) 0x32
  let c0 : AttnCtx :=
   { bwd := false, qrows := qrows, dh := dh, qfmt := a.qfmt.toNat, kvfmt := a.kvfmt.toNat,
      pfmt := a.pfmt.toNat, vo := a.vo.toNat, vs := a.vs.toNat, q := [], info := info, causal := a.causal,
      scale := a.scale, dout := [], recs := [], blocks := [], merged := false }
  check (ctxRegsOk g a.ctx c0 a.vqi.toNat) 0x32
  let q ← readRows rd c0.qfmt dh (64 * a.qbase.toNat) (64 * a.qstride.toNat) qrows 0
  let g1 := putKeys g ((List.range (qrows * dh)).map (fun e => (vKey c0.vo e, 0)))
  let g2 := vPutAll g1 c0.vs ((List.range qrows).map (fun r => (r, negInf32)) ++
    (List.range qrows).map (fun r => (128 + r, 0)))
  return clearMx (setCtx g2 a.ctx (some { c0 with q := q }))

/-- Row records of ATTN_BINIT: m, l and D (R369). -/
def readRecs (rd : Reader) (base : Nat) : Nat → Nat → Except Nat (List (W32 × W32 × W32))
  | 0, _ => .ok []
  | n + 1, r => do
    let b ← attRead rd (base + 16 * r) 16
    let rest ← readRecs rd base n (r + 1)
    return (BitVec.ofNat 32 (leAt b 0 4), BitVec.ofNat 32 (leAt b 4 4), BitVec.ofNat 32 (leAt b 8 4)) :: rest

/-- ATTN_BINIT (R369). -/
def attnBinitOp (rd : Reader) (nbh : Nat) (a : AttnBinitArgs) (g : Engine) : Except Nat Engine := do
  let qrows := a.qrows1.toNat + 1
  let dh := dhOf a.dhc.toNat
  check ((ctxOf g a.ctx).isNone) 0x31
  check (fmtAct a.qfmt.toNat && kvFmtOk a.kvfmt.toNat) 0x32
  let info := (List.range qrows).map (vGet g a.vqi.toNat)
  check (infoOk nbh info) 0x32
  let c0 : AttnCtx :=
   { bwd := true, qrows := qrows, dh := dh, qfmt := a.qfmt.toNat, kvfmt := a.kvfmt.toNat,
      pfmt := 1, vo := a.vdq.toNat, vs := 0, q := [], info := info, causal := a.causal, scale := a.scale, dout := [],
      recs := [], blocks := [], merged := false }
  check (ctxRegsOk g a.ctx c0 a.vqi.toNat) 0x32
  let q ← readRows rd c0.qfmt dh (64 * a.qbase.toNat) (64 * a.qstride.toNat) qrows 0
  let d ← readRows rd c0.qfmt dh (64 * a.dobase.toNat) (64 * a.qstride.toNat) qrows 0
  let rs ← readRecs rd (64 * a.sbase.toNat) qrows 0
  let g1 := putKeys g ((List.range (qrows * dh)).map (fun e => (vKey c0.vo e, 0)))
  return clearMx (setCtx g1 a.ctx (some { c0 with q := q, dout := d, recs := rs }))

/-! ## ATTN_STEP (R351 to R353) -/

/-- What an ATTN instruction leaves: engine, stores to the tile's Caldera, rows rescaled, slots masked. -/
structure AttnOut where
  eng : Engine
  stores : List (Nat × Byte)
  rescaled : Nat
  masked : Nat
  deriving DecidableEq, Repr

/-- One row of ATTN_STEP after its scores. -/
def stepRow (c : AttnCtx) (b : KeyBlock) (r : Nat) (scores : List (Option (W32 × Flags))) (g : Engine) :
    Engine × Nat :=
  let fs := orFlags (scores.filterMap (fun o => o.map Prod.snd))
  let s := scores.map (fun o => o.map Prod.fst)
  let g := addFlags g (fs &&& attMask)
  match (treeRed fmax 7 s).1 with
  | none => (g, 0)
  | some mb =>
    if mb = negInf32 then (g, 0)
    else
      let mOld := vGet g c.vs r
      let lOld := vGet g c.vs (128 + r)
      let mn := (fmax mOld mb).1
      let (da, f1) := fsub mOld mn
      let (a, f2) := funary .exp da
      let ps := s.map (fun o => o.map (fun x =>
        let (d, e1) := fsub x mn
        let (e, e2) := funary .exp d
        let (q, _) := match fmtFloat c.pfmt with
          | some f => narrow f .rne true (dec32 e)
          | none => (0, 0)
        (q, e1 ||| e2)))
      let fp := orFlags (ps.filterMap (fun o => o.map Prod.snd))
      let pw := ps.map (fun o => o.map (fun q => widen c.pfmt q.1))
      let (sum, f3) := treeRed fadd 7 pw
      let (al, f4) := fmul a lOld
      let (l, f5) := fadd al (sum.getD 0)
      let pv := ps.map (fun o => match o with | some q => elemVal c.pfmt q.1 | none => .fin false 0 0)
      let outs := (List.range c.dh).map (fun d =>
        let (x, g1) := dotPart (is16 c.pfmt c.kvfmt) pv (vals c.kvfmt (b.v.getD d []))
        let (y, g2) := fmul a (outGet g c.vo c.dh r d)
        let (z, g3) := fadd y x
        (outKey c.vo c.dh r d, z, g1 ||| g2 ||| g3))
      let fo := orFlags (outs.map (fun o => o.2.2))
      let g := putKeys g (outs.map (fun o => (o.1, o.2.1)))
      let g := vPutAll g c.vs [(r, mn), (128 + r, l)]
      let g := addFlags g ((f1 ||| f2 ||| fp ||| f3 ||| f4 ||| f5 ||| fo) &&& attMask)
      (g, b2n (mOld ≠ negInf32 && fcmp 2 a 0x3F800000))

/-- The scores of every row; `none` for an absent row. -/
def allScores (rd : Reader) (biasBase : Nat) (c : AttnCtx) (b : KeyBlock) :
    List (Nat × W32 × List Nat) → Except Nat (List (Nat × Option (List (Option (W32 × Flags)))))
  | [] => .ok []
  | (r, info, q) :: rest => do
    let x ← if infoOff info then .ok none
      else do
        let bias ← rowBias rd biasBase b c.causal info (List.range 128)
        .ok (some (rowScores c b info q bias))
    let xs ← allScores rd biasBase c b rest
    return (r, x) :: xs

/-- The rows of a context: number, information word, query codes. -/
def ctxRows (c : AttnCtx) : List (Nat × W32 × List Nat) := (List.range c.qrows).zip (c.info.zip c.q)

/-- The attention mass of a group (R353). -/
def massWord (g : Engine) (vref : Nat) (rows : List (Nat × Option (List (Option (W32 × Flags))))) (grp : Nat) (m : W32) :
    W32 × Flags :=
  let (t, ft) := rows.foldl (fun (acc : W32 × Flags) row => match row.2 with
    | none => acc
    | some ss => match dec32 (vGet g vref row.1) with
      | .fin _ _ _ =>
        ((ss.drop (16 * grp)).take 16).foldl (fun (acc : W32 × Flags) o => match o with
          | none => acc
          | some s =>
            let (d, f1) := fsub s.1 (vGet g vref row.1)
            let (e, f2) := funary .exp d
            let (t, f3) := fadd acc.1 (fmin 0x3F800000 e).1
            (t, acc.2 ||| f1 ||| f2 ||| f3)) acc
      | _ => acc) (0, 0)
  let (r, f) := fadd m t
  (r, ft ||| f)

/-- ATTN_STEP. -/
def attnStepOp (rd : Reader) (biasBase : Nat) (a : AttnStepArgs) (g : Engine) : Except Nat AttnOut := do
  match ctxOf g a.ctx with
  | none => .error 0x31
  | some c =>
    check (!c.bwd) 0x31
    check (!a.men || a.maddr.toNat % 32 = 0) 0x34
    let b ← readBlock rd (64 * a.kbase.toNat) c.dh c.kvfmt
    let mass ← if a.men then attRead rd a.maddr.toNat 32 else .ok []
    let rows ← allScores rd biasBase c b (ctxRows c)
    let out := rows.foldl (fun (acc : Engine × Nat × Nat) row => match row.2 with
      | none => acc
      | some ss =>
        let (g', n) := stepRow c b row.1 ss acc.1
        (g', acc.2.1 + n, acc.2.2 + (ss.filter (·.isNone)).length)) (g, 0, 0)
    let ms := (List.range 8).map (fun k => massWord g a.vref.toNat rows k (BitVec.ofNat 32 (leAt mass (4 * k) 4)))
    let fm := if a.men then orFlags (ms.map Prod.snd) &&& attMask else 0
    return { eng := clearMx (addFlags out.1 fm),
             stores := if a.men then asWrites a.maddr.toNat ((ms.map (fun w => leBytes 4 w.1.toNat)).flatten) else [],
             rescaled := out.2.1, masked := out.2.2 }

/-! ## ATTN_FIN (R355) -/

/-- A row's result under NORM: words and whether it is empty. -/
def finRow (g : Engine) (c : AttnCtx) (norm : Bool) (r : Nat) (info : W32) : List W32 × Bool :=
  let m := vGet g c.vs r
  let l := vGet g c.vs (128 + r)
  let o := (List.range c.dh).map (outGet g c.vo c.dh r)
  if !norm then (o, false)
  else if infoOff info then (o.map (fun _ => 0), false)
  else if m = negInf32 then (o.map (fun _ => 0), true)
  else (o.map (fun w => (fdiv w l).1), false)

/-- ATTN_FIN; `vc` gives the rows for rounding. -/
def attnFinOp (vc : VCtx) (a : AttnFinArgs) (g : Engine) : Except Nat AttnOut := do
  match ctxOf g a.ctx with
  | none => .error 0x31
  | some c =>
    check (!c.bwd) 0x31
    check (a.ofmt = 0 || fmtAct a.ofmt.toNat) 0x32
    check (!a.save || a.saddr.toNat % 8 = 0) 0x34
    let n := c.qrows * c.dh
    check (!a.dest || rowsOk vc g.geom n a.rmode.toNat) 0x10
    let res := ((List.range c.qrows).zip c.info).map (fun e => finRow g c a.norm e.1 e.2)
    let words := (res.map Prod.fst).flatten
    let g1 := putKeys g (((List.range n).zip words).map (fun e => (vKey c.vo e.1, e.2)))
    let g2 := addFlags g1 (flIf (res.any Prod.snd) flEmpty)
    let w := fmtBits a.ofmt.toNat
    let nar := ((List.range n).zip words).map (fun e =>
      narrowTo a.ofmt.toNat (elemMode vc g.geom n a.rmode.toNat a.site.toNat e.1) a.sat e.2)
    let base := 64 * a.obase.toNat
    let stride := 64 * a.ostride.toNat
    let rowLen := cdiv (c.dh * w) 8
    check (!a.dest || decide (base + (c.qrows - 1) * stride + rowLen ≤ calBytes)) 0x34
    check (!a.save || decide (a.saddr.toNat + 8 * c.qrows ≤ calBytes)) 0x34
    let rows := (List.range c.qrows).map (fun r =>
      asWrites (base + r * stride) (packBits w (((nar.drop (r * c.dh)).take c.dh).map Prod.fst)))
    let stats := ((List.range c.qrows).zip c.info).map (fun e =>
      let m := if infoOff e.2 then negInf32 else vGet g c.vs e.1
      let l := if m = negInf32 then 0 else vGet g c.vs (128 + e.1)
      asWrites (a.saddr.toNat + 8 * e.1) (leBytes 4 m.toNat ++ leBytes 4 l.toNat))
    return { eng := clearMx (setCtx (addFlags g2 (if a.dest then orFlags (nar.map Prod.snd) else 0)) a.ctx none),
             stores := (if a.dest then rows.flatten else []) ++ (if a.save then stats.flatten else []),
             rescaled := 0, masked := 0 }

/-! ## ATTN_MERGE (R356) -/

/-- One row of a merge, and whether it was rescaled with a < 1 after earlier mass (R356, R371). -/
def mergeRow (c : AttnCtx) (r : Nat) (mp lp : W32) (op : List W32) (g : Engine) : Engine × Nat :=
  let m := vGet g c.vs r
  let l := vGet g c.vs (128 + r)
  if mp = negInf32 then (g, 0)
  else if m = negInf32 then
    (vPutAll (putKeys g (((List.range c.dh).zip op).map (fun e => (outKey c.vo c.dh r e.1, e.2)))) c.vs
      [(r, mp), (128 + r, lp)], 0)
  else
    let mn := (fmax m mp).1
    let (da, f1) := fsub m mn
    let (a, f2) := funary .exp da
    let (db, f3) := fsub mp mn
    let (b, f4) := funary .exp db
    let fold := fun (old new : W32) =>
      let (x, e1) := fmul a old
      let (y, e2) := ffma new b x
      (y, e1 ||| e2)
    let (l', f5) := fold l lp
    let os := ((List.range c.dh).zip op).map (fun e => (e.1, fold (outGet g c.vo c.dh r e.1) e.2))
    let fo := orFlags (os.map (fun o => o.2.2))
    let g := putKeys g (os.map (fun o => (outKey c.vo c.dh r o.1, o.2.1)))
    (addFlags (vPutAll g c.vs [(r, mn), (128 + r, l')]) ((f1 ||| f2 ||| f3 ||| f4 ||| f5 ||| fo) &&& attMask),
      b2n (fcmp 2 a 0x3F800000))

/-- The statistics and rows of a partial. -/
def readPartial (rd : Reader) (c : AttnCtx) (base stride sa : Nat) : Nat → Nat → Except Nat (List (W32 × W32 × List W32))
  | 0, _ => .ok []
  | n + 1, r => do
    let s ← attRead rd (sa + 8 * r) 8
    let o ← attRead rd (base + r * stride) (4 * c.dh)
    let rest ← readPartial rd c base stride sa n (r + 1)
    return (BitVec.ofNat 32 (leAt s 0 4), BitVec.ofNat 32 (leAt s 4 4),
      (unpackBits 32 c.dh o).map (BitVec.ofNat 32)) :: rest

/-- ATTN_MERGE. -/
def attnMergeOp (rd : Reader) (a : AttnMergeArgs) (g : Engine) : Except Nat AttnOut := do
  match ctxOf g a.ctx with
  | none => .error 0x31
  | some c =>
    check (!c.bwd) 0x31
    check (a.psaddr.toNat % 8 = 0) 0x34
    let ps ← readPartial rd c (64 * a.pbase.toNat) (64 * a.pstride.toNat) a.psaddr.toNat c.qrows 0
    let out := ((List.range c.qrows).zip (c.info.zip ps)).foldl (fun (acc : Engine × Nat) e =>
      if infoOff e.2.1 then acc
      else
        let (g', n) := mergeRow c e.1 e.2.2.1 e.2.2.2.1 e.2.2.2.2 acc.1
        (g', acc.2 + n)) (g, 0)
    return { eng := clearMx out.1, stores := [], rescaled := out.2, masked := 0 }

/-! ## ATTN_BWD (R370) -/

/-- FP32 to BF16 by RNE, as a value. -/
def toBf16 (w : W32) : FVal := fdecode bf16 (narrow bf16 .rne true (dec32 w)).1

/-- P and dS of a row and a slot, with flags. -/
structure BwdCell where
  p : W32
  ds : W32
  fl : Flags
  deriving DecidableEq, Repr

def bwdCell (c : AttnCtx) (b : KeyBlock) (rec : W32 × W32 × W32) (dout : List Nat) (j : Nat) (s : W32 × Flags) : BwdCell :=
  let (x, f1) := fsub s.1 rec.1
  let (e, f2) := funary .exp x
  let (p, f3) := fdiv e rec.2.1
  let (dp, f4) := dotPart true (vals c.qfmt dout) ((List.range c.dh).map (fun d => elemVal c.kvfmt ((b.v.getD d []).getD j 0)))
  let (y, f5) := fsub dp rec.2.2
  let (ds, f6) := fmul p y
  { p := p, ds := ds, fl := s.2 ||| f1 ||| f2 ||| f3 ||| f4 ||| f5 ||| f6 }

/-- Is a row's m finite? -/
def finite32 (w : W32) : Bool := match dec32 w with | .fin _ _ _ => true | _ => false

/-- x + scale × partial, rounded at each step. -/
def gradAdd (scale : Option W32) (old : W32) (part : W32 × Flags) : W32 × Flags :=
  match scale with
  | none => let (r, f) := fadd old part.1; (r, part.2 ||| f)
  | some k =>
    let (x, f1) := fmul k part.1
    let (r, f2) := fadd old x
    (r, part.2 ||| f1 ||| f2)

/-- ATTN_BWD. -/
def attnBwdOp (rd : Reader) (biasBase : Nat) (a : AttnBwdArgs) (g : Engine) : Except Nat AttnOut := do
  match ctxOf g a.ctx with
  | none => .error 0x31
  | some c =>
    check c.bwd 0x31
    check (a.dkaddr.toNat % 64 = 0 && a.dvaddr.toNat % 64 = 0) 0x34
    let b ← readBlock rd (64 * a.kbase.toNat) c.dh c.kvfmt
    let rows ← allScores rd biasBase c b (ctxRows c)
    let dkb ← attRead rd a.dkaddr.toNat (512 * c.dh)
    let dvb ← attRead rd a.dvaddr.toNat (512 * c.dh)
    -- cells (r, j) of the present rows with a finite m
    let cells : List (List (Option BwdCell)) := (rows.zip (c.dout.zip c.recs)).map (fun e => match e.1.2 with
      | none => List.replicate 128 none
      | some ss =>
        if finite32 e.2.2.1 then
          ((List.range 128).zip ss).map (fun js => js.2.map (bwdCell c b e.2.2 e.2.1 js.1))
        else List.replicate 128 none)
    let zero : FVal := .fin false 0 0
    let col := fun (f : BwdCell → W32) j => cells.map (fun row => match row.getD j none with
      | some x => toBf16 (f x)
      | none => zero)
    let used := fun j => cells.any (fun row => (row.getD j none).isSome)
    let grads := fun (f : BwdCell → W32) (src : List (List Nat)) (fmt : Nat) (scale : Option W32) (old : List Byte) (base : Nat) =>
      ((List.range 128).filter used).map (fun j => (List.range c.dh).map (fun d =>
        let o := (j * c.dh + d) * 4
        let (w, fl) := gradAdd scale (BitVec.ofNat 32 (leAt old o 4))
          (dotPart true (col f j) (src.map (fun row => elemVal fmt (row.getD d 0))))
        (base + o, w, fl)))
    let dvs := (grads (·.p) c.dout c.qfmt none dvb a.dvaddr.toNat).flatten
    let dks := (grads (·.ds) c.q c.qfmt (some c.scale) dkb a.dkaddr.toNat).flatten
    let dqs := (((List.range c.qrows).zip cells).filter (fun e => e.2.any (·.isSome))).map (fun e =>
      (List.range c.dh).map (fun d =>
        let dsRow := e.2.map (fun o => match o with | some x => toBf16 x.ds | none => zero)
        let ks := b.k.map (fun row => elemVal c.kvfmt (row.getD d 0))
        let (w, fl) := gradAdd (some c.scale) (outGet g c.vo c.dh e.1 d) (dotPart true dsRow ks)
        (outKey c.vo c.dh e.1 d, w, fl)))
    let dq := dqs.flatten
    let fl := orFlags (cells.flatten.filterMap (fun o => o.map (·.fl))) ||| orFlags (dvs.map (·.2.2)) |||
      orFlags (dks.map (·.2.2)) ||| orFlags (dq.map (·.2.2))
    let st := (dvs ++ dks).map (fun e => asWrites e.1 (leBytes 4 e.2.1.toNat))
    return { eng := clearMx (addFlags (putKeys g (dq.map (fun e => (e.1, e.2.1)))) (fl &&& attMask)),
             stores := st.flatten, rescaled := 0,
             masked := ((rows.filterMap Prod.snd).map (fun ss => (ss.filter (·.isNone)).length)).sum }

/-! ## Fumarole (R364, R365) -/

/-- A Fumarole request (R365). -/
structure FumCmd where
  nq : Nat
  nb : Nat
  dh : Nat
  causal : Bool
  norm : Bool
  save : Bool
  qfmt : Nat
  scale : W32
  qaddr : Nat
  qiaddr : Nat
  blist : Nat
  oaddr : Nat
  saddr : Nat
  deriving DecidableEq, Repr

/-- The formats Fumarole accepts (R364). -/
def fumFmtOk (f : Nat) : Bool := f = 1 || f = 3 || f = 4

/-- A request read from its 64 bytes; cause 0x32 when a field is out of range. -/
def fumParse (b : List Byte) : Except Nat FumCmd := do
  check (decide (1 ≤ leAt b 0 2) && decide (leAt b 0 2 ≤ 128) && decide (1 ≤ leAt b 2 1) && decide (leAt b 2 1 ≤ 64)
    && decide (leAt b 3 1 < 4) && decide (leAt b 4 1 < 8) && fumFmtOk (leAt b 5 1) && zeroAt b 6 2 && zeroAt b 32 32) 0x32
  return { nq := leAt b 0 2, nb := leAt b 2 1, dh := dhOf (leAt b 3 1), causal := bitAt (leAt b 4 1) 0,
           norm := bitAt (leAt b 4 1) 1, save := bitAt (leAt b 4 1) 2, qfmt := leAt b 5 1,
           scale := BitVec.ofNat 32 (leAt b 8 4), qaddr := leAt b 12 4, qiaddr := leAt b 16 4, blist := leAt b 20 4,
           oaddr := leAt b 24 4, saddr := leAt b 28 4 }

/-- A running FP32 sum of exact products by RNE, with INVALID and OVERFLOW. -/
def seqDot (xs ws : List FVal) : W32 × Flags :=
  (xs.zip ws).foldl (fun (acc : W32 × Flags) p =>
    let (q, i1) := mulX p.1 p.2
    let (r, f) := fin32 (let (z, i2) := addX (dec32 acc.1) q; (z, i1 || i2))
    (r, acc.2 ||| f)) (0, 0)

/-- One query row of a request: output words, m, l, flags, whether it is empty. -/
structure FumRow where
  out : List W32
  m : W32
  l : W32
  fl : Flags
  empty : Bool
  deriving DecidableEq, Repr

/-- The scores of a row over the blocks in order; `none` where a slot is not valid. -/
def fumScores (q : FumCmd) (info : W32) (row : List Nat) (blocks : List (KeyBlock × List W32)) :
    List (Option (W32 × Flags)) :=
  (blocks.map (fun bb => (List.range 128).map (fun j =>
    if slotValid bb.1 q.causal info j then
      let (d, f1) := seqDot (vals q.qfmt row) (vals bb.1.fmt (bb.1.k.getD j []))
      let (x, f2) := fmul q.scale d
      let (s, f3) := fadd x (bb.2.getD j 0)
      some (s, f1 ||| f2 ||| f3)
    else none))).flatten

/-- Evaluate one row (R364). -/
def fumRow (q : FumCmd) (info : W32) (row : List Nat) (blocks : List (KeyBlock × List W32)) : FumRow :=
  let zeros := List.replicate q.dh (0 : W32)
  if infoOff info then { out := zeros, m := negInf32, l := 0, fl := 0, empty := false }
  else
    let ss := fumScores q info row blocks
    let fs := orFlags (ss.filterMap (fun o => o.map Prod.snd))
    let s := ss.map (fun o => o.map Prod.fst)
    match (treeRed fmax 13 s).1 with
    | none => { out := zeros, m := negInf32, l := 0, fl := fs, empty := true }
    | some m =>
      if m = negInf32 then { out := zeros, m := negInf32, l := 0, fl := fs, empty := true }
      else
        let ps := s.map (fun o => o.map (fun x =>
          let (d, f1) := fsub x m
          let (e, f2) := funary .exp d
          (e, f1 ||| f2)))
        let fp := orFlags (ps.filterMap (fun o => o.map Prod.snd))
        let (l, fl) := treeRed fadd 13 (ps.map (fun o => o.map Prod.fst))
        let lw := l.getD 0
        let cols := ((List.range ps.length).zip ps).filterMap (fun e => e.2.map (fun p => (e.1, toBf16 p.1)))
        let outs := (List.range q.dh).map (fun d =>
          let vs := cols.map (fun e => match blocks[e.1 / 128]? with
            | some bb => elemVal bb.1.fmt ((bb.1.v.getD d []).getD (e.1 % 128) 0)
            | none => .fin false 0 0)
          let (o, f) := seqDot (cols.map Prod.snd) vs
          if q.norm then let (x, f2) := fdiv o lw; (x, f ||| f2) else (o, f))
        { out := outs.map Prod.fst, m := m, l := lw, fl := fs ||| fp ||| fl ||| orFlags (outs.map Prod.snd),
          empty := false }

/-- The stores of a request's rows and statistics, with its flags. -/
def fumResult (q : FumCmd) (rows : List FumRow) : List (Nat × Byte) × Flags :=
  let st := ((List.range rows.length).zip rows).map (fun e =>
    asWrites (q.oaddr + e.1 * 4 * q.dh) ((e.2.out.map (fun w => leBytes 4 w.toNat)).flatten) ++
    (if q.save then asWrites (q.saddr + 8 * e.1) (leBytes 4 e.2.m.toNat ++ leBytes 4 e.2.l.toNat) else []))
  (st.flatten, (orFlags (rows.map (·.fl)) &&& attMask) ||| flIf (q.norm && rows.any (·.empty)) flEmpty)

end Sys2Proof.Machine
end

