-- ==== Sys2Proof/Machine/QueueOps.lean ====
section
/-! DEFINITION. The queues of a tile: the class of each instruction, and which instructions wait for earlier ones of other queues
because of their registers (R178 to R180, R209). -/

namespace Sys2Proof.Machine

/-- The queues between the sequencer and the engines; SCAN instructions share VECTOR (R178). -/
inductive QClass where
  | matrix
  | vector
  | attn
  | xfer
  deriving DecidableEq, Repr

/-- The class of an instruction that is dispatched to a queue (R178, R179). -/
def classOf : Instr → Option QClass
  | .mxeWload _ _ | .mxeMma _ _ | .mxeDrain _ _ => some .matrix
  | .vadd _ _ | .vsub _ _ | .vmul _ _ | .vfma _ _ | .vdiv _ _ | .vmin _ _ | .vmax _ _ | .vrcp _ _ | .vrsqrt _ _ | .vexp _ _ => some .vector
  | .vexp2 _ _ | .vlog _ _ | .vtanh _ _ | .vsigm _ _ | .vgelu _ _ | .vsilu _ _ | .vabs _ _ | .vneg _ _ | .vcmp _ _ | .vsel _ _ => some .vector
  | .vcvtF2i _ _ | .vcvtI2f _ _ | .vqnt _ _ | .viadd _ _ | .visub _ _ | .vimul _ _ | .viota _ _ | .vred _ _ | .vscan _ _ | .vperm _ _ => some .vector
  | .vbci _ _ | .vbce _ _ | .vmov _ _ | .mand _ _ | .mor _ _ | .mxor _ _ | .mnot _ _ | .mfill _ _ | .mpop _ _ | .vld _ _ => some .vector
  | .vst _ _ | .vgath _ _ | .vlds _ _ | .vsts _ _ | .vgeom _ _ | .vfclr _ _ | .scan _ _ | .srmask _ _ | .sst _ _ => some .vector
  | .attnInit _ _ | .attnStep _ _ | .attnFin _ _ | .attnMerge _ _ | .attnBwd _ _ | .attnFum _ _ | .attnBinit _ _ => some .attn
  | .xreq _ _ => some .xfer
  | _ => none

/-- The vector registers that an instruction of the VECTOR queue reads or writes (R120 to R124, R270). -/
def vecRegs : Instr → List Nat
  | .vadd _ a | .vsub _ a | .vmul _ a | .vdiv _ a | .vmin _ a | .vmax _ a => [a.vd.toNat, a.va.toNat, a.vb.toNat]
  | .vsel _ a | .viadd _ a | .visub _ a | .vimul _ a | .vperm _ a => [a.vd.toNat, a.va.toNat, a.vb.toNat]
  | .vfma _ a => [a.vd.toNat, a.va.toNat, a.vb.toNat, a.vc.toNat]
  | .vrcp _ a | .vrsqrt _ a | .vexp _ a | .vexp2 _ a | .vlog _ a | .vtanh _ a => [a.vd.toNat, a.va.toNat]
  | .vsigm _ a | .vgelu _ a | .vsilu _ a | .vabs _ a | .vneg _ a | .vcvtF2i _ a => [a.vd.toNat, a.va.toNat]
  | .vcvtI2f _ a | .vqnt _ a | .vred _ a | .vscan _ a | .vbce _ a | .vmov _ a => [a.vd.toNat, a.va.toNat]
  | .vcmp _ a => [a.va.toNat, a.vb.toNat]
  | .viota _ a | .vbci _ a | .mpop _ a => [a.vd.toNat]
  | .vld _ a | .vst _ a | .sst _ a => [a.vr.toNat]
  | .vlds _ a | .vsts _ a => [a.vr.toNat]
  | .vgath _ a => [a.vd.toNat, a.vb.toNat]
  | .scan _ a => [a.vd.toNat, a.va.toNat, a.vb.toNat, a.vc.toNat]
  | _ => []

/-- The mask registers that one writes. -/
def vecMasks : Instr → List Nat
  | .vcmp _ a | .mand _ a | .mor _ a | .mxor _ a | .mnot _ a | .mfill _ a => [a.vd.toNat % 8]
  | .srmask _ a => [a.md.toNat]
  | _ => []

/-- The vector register that a drain writes, and the mask register that a gather reads: what MATRIX shares with VECTOR. -/
def drainReg : Instr → List Nat
  | .mxeDrain _ a => if a.dest then [] else [a.vreg.toNat]
  | _ => []
def gatherMask : Instr → List Nat
  | .mxeMma _ a => if a.gen then [a.gmask.toNat] else []
  | _ => []

/-- Do a MATRIX and a VECTOR instruction touch the same register, one of them writing it (R209)? -/
def regClash (m v : Instr) : Bool :=
  (drainReg m).any (vecRegs v).elem || (gatherMask m).any (vecMasks v).elem

/-- Does an instruction wait for an earlier one that has not started, whatever lies in memory: in its own queue (R178), around an ATTN
instruction (R180), or for a register (R209)? -/
def queuesBehind (e i : Instr) : Bool :=
  match classOf e, classOf i with
  | some .xfer, some .xfer => true
  | some .xfer, _ => false
  | _, some .xfer => false
  | some .attn, _ => true
  | _, some .attn => true
  | some .matrix, some .vector => regClash e i
  | some .vector, some .matrix => regClash i e
  | _, _ => true

/-- Does an instruction wait in its queue behind one that is there? -/
def blocked (c : Cmd) (i : Instr) : Bool := c.queue.any (fun e => queuesBehind e.instr i)

/-- Does no engine instruction of a command wait or run? -/
def enginesDone (c : Cmd) : Bool := c.queue.all (fun e => classOf e.instr = some .xfer)

/-- The entries of a class, and whether its queue of 16 has room (R178). -/
def queueLen (c : Cmd) (k : Option QClass) : Nat := (c.queue.filter (fun e => decide (classOf e.instr = k))).length
def queueFree (c : Cmd) (i : Instr) : Bool := decide (queueLen c (classOf i) < 16)

/-! ## Ranges of an instruction in Caldera (R209) -/

/-- Ranges of n rows. -/
def rowRanges (base stride len n : Nat) : List (Nat × Nat) := (List.range n).map (fun r => (base + r * stride, len))

/-- The tile that a TILE field names. -/
def tileNamed (t : Nat) (f : BitVec 7) : Nat := if f = 0x7F then t else f.toNat

/-- The elements and the scales of a memory instruction of layout M (R131). -/
def memRanges (t : Nat) (a : MArgs) : List (Nat × Nat) :=
  let w := fmtBits a.fmt.toNat
  let tile := tileNamed t a.tile
  (List.range a.n.toNat).flatMap (fun e =>
    let b := elemBit a.addr.toNat a.stride.toInt w a.n.toNat a.run.toNat e
    (if 0 ≤ b then [(calAddr tile (b.toNat / 8), (b.toNat % 8 + w + 7) / 8)] else [])
      ++ (if fmtIsMx a.fmt.toNat then [(calAddr tile (scaleOff a.saddr.toNat a.n.toNat a.run.toNat e), 1)] else []))

/-- The whole Caldera of a tile: where an operand is coded, its blocks lie where the directory says. -/
def calWhole (t : Nat) : Nat × Nat := (calAddr t 0, calBytes)

/-- A key block of the widest format. -/
def blockRange (t base : Nat) : Nat × Nat := (calAddr t (64 * base), keyBlockLen 128 1)

/-- The ranges that a MATRIX, VECTOR or SCAN instruction of a tile may read, and may write: at least those it does (DESIGN CHOICE,
notes/assumptions/81.md). -/
def engineReads (t : Nat) : Instr → List (Nat × Nat)
  | .mxeWload _ a => if a.wcoded then [calWhole t] else
      [(calAddr t (64 * a.wbase.toNat), a.ncol.toNat * colBytes a.wfmt.toNat), (calAddr t (64 * a.wsbase.toNat), 8 * a.ncol.toNat),
        (calAddr t (64 * a.wmbase.toNat), 32 * a.ncol.toNat)]
  | .mxeMma _ a => if a.acoded then [calWhole t] else
      rowRanges (calAddr t (64 * a.abase.toNat)) (64 * a.astride.toNat) (32 * fmtBits a.afmt.toNat) a.m.toNat
        ++ [(calAddr t (64 * a.asbase.toNat), 8 * a.m.toNat)]
  | .vld _ a | .vst _ a | .sst _ a => memRanges t a
  | .vgath _ a => [(calAddr (tileNamed t a.tile) a.addr.toNat, cdiv (a.lim.toNat * fmtBits a.fmt.toNat) 8)]
  | .vlds _ a => [calWhole (tileNamed t a.tile)]
  | .attnInit _ a => rowRanges (calAddr t (64 * a.qbase.toNat)) (64 * a.qstride.toNat) 512 (a.qrows1.toNat + 1)
  | .attnStep _ a => blockRange t a.kbase.toNat :: (if a.men then [(calAddr t a.maddr.toNat, 32)] else [])
  | .attnMerge _ a => rowRanges (calAddr t (64 * a.pbase.toNat)) (64 * a.pstride.toNat) 512 128 ++ [(calAddr t a.psaddr.toNat, 1024)]
  | .attnBwd _ a => [blockRange t a.kbase.toNat, (calAddr t a.dkaddr.toNat, 0x10000), (calAddr t a.dvaddr.toNat, 0x10000)]
  | .attnBinit _ a => rowRanges (calAddr t (64 * a.qbase.toNat)) (64 * a.qstride.toNat) 512 (a.qrows1.toNat + 1)
      ++ rowRanges (calAddr t (64 * a.dobase.toNat)) (64 * a.qstride.toNat) 512 (a.qrows1.toNat + 1)
      ++ [(calAddr t (64 * a.sbase.toNat), 16 * (a.qrows1.toNat + 1))]
  | _ => []

def engineWrites (t : Nat) : Instr → List (Nat × Nat)
  | .mxeDrain _ a => if a.dest then
      rowRanges (calAddr t (64 * a.obase.toNat)) (64 * a.ostride.toNat) (4 * a.ncol.toNat) a.nrows.toNat else []
  | .vst _ a | .sst _ a => memRanges t a
  | .vsts _ a =>
    let tile := tileNamed t a.tile
    [(calAddr tile a.daddr.toNat, 4 * (a.n.toNat / 128)), (calAddr tile a.baddr.toNat, a.n.toNat / 128 * (4 + 16 * fmtBits a.fmt.toNat))]
  | .attnStep _ a => if a.men then [(calAddr t a.maddr.toNat, 32)] else []
  | .attnBwd _ a => [(calAddr t a.dkaddr.toNat, 0x10000), (calAddr t a.dvaddr.toNat, 0x10000)]
  | .attnFin _ a => (if a.dest then rowRanges (calAddr t (64 * a.obase.toNat)) (64 * a.ostride.toNat) 512 128 else [])
      ++ (if a.save then [(calAddr t a.saddr.toNat, 1024)] else [])
  | _ => []

/-- Does a range meet one of a list? -/
def meetsRange (l : List (Nat × Nat)) (a n : Nat) : Bool := l.any (fun r => overlap a n r.1 r.2)

end Sys2Proof.Machine
end

