-- ==== Sys2Proof/Machine/CmdMem.lean ====
section
/-! DEFINITION. Memory as a command sees it: WORK and its written units, COPY shadows, half-pairs, and the ranges that a
command may write (R190 to R192, R206, R207). -/

namespace Sys2Proof.Machine

/-! ## WORK, halves and windows -/

/-- The running command of a tile. -/
def getCmd (s : State) (t : Nat) : Option Cmd := (getTile s t).cmd

/-- First address and length of a tile's WORK (R221). -/
def workAddr (s : State) (t : Nat) : Nat := calAddr t (64 * (getTile s t).workBase)
def workLen (s : State) (t : Nat) : Nat := 64 * (getTile s t).workUnits

def inWork (s : State) (t a : Nat) : Bool := decide (workAddr s t ≤ a) && decide (a < workAddr s t + workLen s t)

/-- The offset in Caldera of the half with the FILL role, and of the half with the COMPUTE role (R206). -/
def fillOff (p : Pair) : Nat := if p.comp1 then p.base else p.base + p.len
def computeOff (p : Pair) : Nat := if p.comp1 then p.base + p.len else p.base

/-- Do n bytes at an offset of the command's own Caldera touch a FILL half (R207)? -/
def fillHit (c : Cmd) (off n : Nat) : Bool := c.pairs.any (fun p => overlap off n (fillOff p) p.len)

/-- Do they touch a half-pair at all? -/
def pairHit (c : Cmd) (off n : Nat) : Bool := c.pairs.any (fun p => overlap off n p.base (2 * p.len))

/-- The COPY window whose home range holds an address (R191). -/
def copyWin (c : Cmd) (a : Nat) : Option Win :=
  c.wins.find? (fun w => !w.append && decide (w.home ≤ a) && decide (a < w.home + w.len))

/-- The COPY window whose shadow range holds an address. -/
def shadowWin (c : Cmd) (a : Nat) : Option Win :=
  c.wins.find? (fun w => !w.append && decide (w.shadow ≤ a) && decide (a < w.shadow + w.len))

/-- Has the command written the 64 B unit of an address (R192)? -/
def unitWritten (c : Cmd) (a : Nat) : Bool := c.written.elem (a / 64)

/-- Where the command's own read of a byte goes: a written unit of a COPY home is read in its shadow (R192). -/
def readAddr (c : Cmd) (a : Nat) : Nat :=
  match copyWin c a with
  | some w => if unitWritten c (w.shadow + (a - w.home)) then w.shadow + (a - w.home) else a
  | none => a

/-- Does the command's read of a byte return zero because it has not written that WORK unit (R192)? -/
def readsZero (s : State) (t : Nat) (c : Cmd) (a : Nat) : Bool := inWork s t (readAddr c a) && !unitWritten c (readAddr c a)

/-- Is the command a checking run, which takes no ring and no hold of its own (R657, R659)? -/
def isChecking (c : Cmd) : Bool :=
  match c.run with
  | .check _ => true
  | .third _ _ => true
  | _ => false

/-- The byte that the command has written to a slot, a ring or a staging set. -/
def privateByte (c : Cmd) (a : Nat) : Option Byte := (tGet c.slotWrites a).or ((tGet c.appendWrites a).or (tGet c.kvWrites a))

/-- What the command reads at an address other than what lies there: its WORK with zeros where it never wrote (R192), its own writes
(R190), or the byte that a later commit has replaced (R29). -/
def ownByte (s : State) (t : Nat) (c : Cmd) (a : Nat) : Option Byte :=
  let x := readAddr c a
  if inWork s t x then some (if unitWritten c x then (tGet c.work x).getD 0 else 0)
  else (privateByte c a).or (tGet c.old a)

/-- The byte that the command's own engines read at an address. -/
def cmdByte (s : State) (t : Nat) (c : Cmd) (a : Nat) : Byte := (ownByte s t c a).getD (memGet s.mem a)

/-- The cause of an uncorrectable error read at an address: the own tile's Caldera, another tile's, or HBM
(R250, R648). -/
def badCause (t a : Nat) : Nat :=
  match placeOf a with
  | .caldera t' _ => if t' = t then 0x70 else 0x21
  | _ => 0x20

/-- The code of an abort inside an instruction: its cause plus 256 times the failing address. -/
def abortCode (cause addr : Nat) : Nat := cause + 256 * addr

/-- The code, if a read of n bytes meets an uncorrectable word. -/
def cmdBad (s : State) (t : Nat) (c : Cmd) (a n : Nat) : Option Nat :=
  (addrs a n).findSome? (fun x =>
    if readsZero s t c x || (privateByte c x).isSome then none
    else if isBad s (readAddr c x) then some (abortCode (badCause t (readAddr c x)) (readAddr c x)) else none)

/-- Does an address lie in a copy of a resident section in Caldera (R231)? -/
def residentAt (s : State) (a : Nat) : Bool :=
  s.jobs.any (fun e => e.2.placed.any (fun p => !p.hbm && decide (p.addr ≤ a) && decide (a < p.addr + p.len)))

/-- The byte that an engine reads: in a resident region its value is unpredictable, a free value of the instruction and the
address (R231; notes/assumptions/21.md). -/
def engByte (s : State) (t : Nat) (c : Cmd) (a : Nat) : Byte :=
  if residentAt s a then Config.residentByte s.freeCtr c.startTime t c.issued a else cmdByte s t c a

/-! ## What earlier instructions have yet to do, and the scoreboard (R209) -/

/-- A descriptor of 64 bytes. -/
def parseDesc (b : List Byte) : Desc :=
  { kind := leAt b 0 1, codec := leAt b 1 1, depth := leAt b 2 1, len := leAt b 4 4, src := leAt b 8 8, dst := leAt b 16 8,
    count := leAt b 24 4, sstride := signedAt 32 (leAt b 28 4), rate0 := leAt b 32 4, dline := leAt b 36 4,
    stream := leAt b 40 4, group := leAt b 44 1, gidx := leAt b 45 1, rsv := !(zeroAt b 3 1 && zeroAt b 46 18) }

/-- The unfinished transfers of a tile's command. -/
def tileXfers (s : State) (t : Nat) : List Xfer := (getGey s (t / 8)).xfers.filter (fun x => x.tile = t && !x.cancelled)

/-- Bytes of a slab at its source and at its destination: a coded region has its header array after the bodies (R227). -/
def Desc.isCopy (d : Desc) : Bool := d.kind = 1
def Desc.isRotate (d : Desc) : Bool := d.kind = 3
def Desc.enc (d : Desc) : Bool := d.codec % 4 = 1
def Desc.dec (d : Desc) : Bool := d.codec % 4 = 2
def Desc.slabs (d : Desc) : Nat := if d.isCopy then 1 else d.count
def Desc.srcLen (d : Desc) : Nat := if d.dec then d.len + 16 * (d.len / 4096) else d.len
def Desc.dstLen (d : Desc) : Nat := if d.enc then d.len + 16 * (d.len / 4096) else d.len

/-- The source of slab j (R225, R243). -/
def Desc.slabSrc (d : Desc) (j : Nat) : Int :=
  if d.isRotate then (d.src + (d.gidx + j) % d.group * 0x400000 : Nat) else (d.src : Int) + (j : Int) * d.sstride

/-- Does an address lie in Caldera? -/
def isCal (a : Nat) : Bool := match placeOf a with | .caldera _ _ => true | _ => false

/-- Does a descriptor, from slab j on, read bytes of a range? -/
def Desc.reads (d : Desc) (j a n : Nat) : Bool :=
  (List.range (d.slabs - j)).any (fun i => decide (0 ≤ d.slabSrc (j + i)) && overlap a n (d.slabSrc (j + i)).toNat d.srcLen)

/-- Where a descriptor writes: at DST, or at DST of the FILL half of its pair. -/
def descDest (t : Nat) (c : Cmd) (pair : Option Nat) (d : Desc) : Nat :=
  match pair with
  | some p => (match c.pairs[p]? with | some q => calAddr t (fillOff q + d.dst) | none => 0)
  | none => d.dst

/-- The pair of a transfer, and of an XREQ. -/
def Xfer.toPair (x : Xfer) : Option Nat := if x.topair then some x.pair else none
def xreqPair (a : XferArgs) : Option Nat := if a.topair then some a.pair.toNat else none

/-- The descriptor of an XREQ that waits in its queue, as it lies in memory: what would write it waits (R209). -/
def queuedDesc (s : State) (t : Nat) (c : Cmd) (a : XferArgs) : Desc :=
  parseDesc ((addrs (calAddr t a.daddr.toNat) 64).map (cmdByte s t c))

/-- The request of an ATTN_FUM that waits or runs. -/
def queuedFum (s : State) (t : Nat) (c : Cmd) (off : Nat) : Option FumCmd :=
  match fumParse ((addrs (calAddr t off) 64).map (cmdByte s t c)) with
  | .ok q => some q
  | .error _ => none

/-- What a request of Fumarole reads and writes (R365). -/
def fumReads (s : State) (t : Nat) (c : Cmd) (q : FumCmd) : List (Nat × Nat) :=
  [(calAddr t q.qaddr, q.nq * cdiv (q.dh * fmtBits q.qfmt) 8), (calAddr t q.qiaddr, 4 * q.nq), (calAddr t q.blist, 8 * q.nb)]
    ++ (List.range q.nb).map (fun i => (leNat ((addrs (calAddr t q.blist + 8 * i) 8).map (cmdByte s t c)), keyBlockLen q.dh 1))
def fumWrites (s : State) (t : Nat) (q : FumCmd) : List (Nat × Nat) :=
  (workAddr s t + q.oaddr, 4 * q.nq * q.dh) :: (if q.save then [(workAddr s t + q.saddr, 8 * q.nq)] else [])

/-- Has an instruction in a queue yet to read bytes of a range? -/
def queueReads (s : State) (t : Nat) (c : Cmd) (i : Instr) (a n : Nat) : Bool :=
  match i with
  | .xreq _ x => overlap a n (calAddr t x.daddr.toNat) 64 || (queuedDesc s t c x).reads 0 a n
  | .attnFum _ x => overlap a n (calAddr t x.off.toNat) 64
      || (queuedFum s t c x.off.toNat).any (fun q => meetsRange (fumReads s t c q) a n)
  | i => meetsRange (engineReads t i) a n

/-- Has one yet to write them? -/
def queueWrites (s : State) (t : Nat) (c : Cmd) (i : Instr) (a n : Nat) : Bool :=
  match i with
  | .xreq _ x => let d := queuedDesc s t c x; overlap a n (descDest t c (xreqPair x) d) d.dstLen
  | .attnFum _ x => (queuedFum s t c x.off.toNat).any (fun q => meetsRange (fumWrites s t q) a n)
  | i => meetsRange (engineWrites t i) a n

/-- Does an outstanding transfer write bytes of a range, a stream through its next slab only (R240), or an instruction that waits in its
queue? -/
def rangeWritten (s : State) (t : Nat) (c : Cmd) (a n : Nat) : Bool :=
  (tileXfers s t).any (fun x => overlap a n (descDest t c x.toPair x.desc) x.desc.dstLen)
    || c.queue.any (fun e => queueWrites s t c e.instr a n)

/-- Does one read them? -/
def rangeRead (s : State) (t : Nat) (c : Cmd) (a n : Nat) : Bool :=
  (tileXfers s t).any (fun x => x.desc.reads (x.landed + x.store.length) a n)
    || c.queue.any (fun e => queueReads s t c e.instr a n)

/-- Scoreboard entries of a transfer: one for each range of it in Caldera (notes/assumptions/8.md). -/
def boardNeed (d : Desc) (topair : Bool) : Nat := b2n (isCal (d.slabSrc 0).toNat) + b2n (topair || isCal d.dst)

/-- Scoreboard entries that the transfers of a tile's command hold. -/
def boardUsed (s : State) (t : Nat) : Nat := ((tileXfers s t).map (fun x => boardNeed x.desc x.topair)).sum

/-- Is one of the 64 entries free? -/
def boardFree (s : State) (t : Nat) : Bool := decide (boardUsed s t < 64)

/-- The code of an instruction that waits in its queue, for a range or for a scoreboard entry: it has no effect yet. -/
def heldCode : Nat := 0

/-- A read of n bytes at an offset of a tile's Caldera by an engine: `rng` is the cause of a range beyond 4 MiB. Bytes that an
outstanding transfer or an earlier instruction writes are waited for (R209). -/
def calRead (byte : Nat → Byte) (s : State) (t : Nat) (c : Cmd) (tile rng off n : Nat) : Except Nat (List Byte) :=
  if n = 0 then .ok []
  else if 0x400000 < off + n then .error rng
  else if tile = t && fillHit c off n then .error 0x12
  else if rangeWritten s t c (calAddr tile off) n then .error heldCode
  else match cmdBad s t c (calAddr tile off) n with
    | some k => .error k
    | none => .ok ((addrs (calAddr tile off) n).map byte)

/-- An engine's read of a tile's Caldera. -/
def engRead (s : State) (t : Nat) (c : Cmd) (tile rng off n : Nat) : Except Nat (List Byte) :=
  calRead (engByte s t c) s t c tile rng off n

/-- The sequencer's read of its own Caldera: a descriptor, a loop count, a tested word. Halves have no roles for it (R207). -/
def seqRead (s : State) (t : Nat) (c : Cmd) (off n : Nat) : Except Nat (List Byte) :=
  if 0x400000 < off + n then .error 0x10
  else match cmdBad s t c (calAddr t off) n with
    | some k => .error k
    | none => .ok ((addrs (calAddr t off) n).map (cmdByte s t c))

/-- A 32-bit word that the sequencer reads. -/
def engWord (s : State) (t : Nat) (c : Cmd) (off : Nat) : Except Nat Nat :=
  match seqRead s t c off 4 with
  | .ok bs => .ok (leNat bs)
  | .error k => .error k

/-! ## Rings and staging sets -/

/-- The bytes of a ring. -/
def ringSize (r : Ring) : Nat := r.recsz * r.nrec

/-- Free bytes of a ring: from the committed tail to the consumer head read last (R190, R304). Head and tail count
records. DEDUCED (notes/assumptions/18.md). -/
def ringFree (r : Ring) : Nat := ringSize r - r.recsz * ((r.tail + 2 ^ 32 - r.head) % 2 ^ 32)

/-- The byte offset at which the next record of a ring lies. -/
def ringPos (r : Ring) : Nat := r.tail % r.nrec * r.recsz

/-- Does an address lie in the free space of a ring? -/
def ringHas (r : Ring) (a : Nat) : Bool :=
  decide (r.base ≤ a) && decide (a < r.base + ringSize r)
    && decide ((a - r.base + ringSize r - ringPos r) % ringSize r < ringFree r)

/-- The frame size of a KV job (R377). -/
def frameBytes (h : KvHdr) : Nat := h.nkvh * keyBlockLen (dhOf h.dhc) h.fmt

/-- The bytes of a window's staging frames: two sets of a frame for each layer (R378). -/
def stageBytes (h : KvHdr) : Nat := 2 * h.nlayers * frameBytes h

/-- Where unit f of a pool, a frame or the staging frames of a window, lies: the pieces are (units, base), in the order of the units (R22,
R378). -/
def frameAt (fb : Nat) : List (Nat × Nat) → Nat → Nat
  | [], _ => 0
  | (n, b) :: ps, f => if f < n then b + f * fb else frameAt fb ps (f - n)

/-- The staging frame of a layer in a set of a window (R382). -/
def stageFrame (k : KvJob) (w set layer : Nat) : Nat :=
  frameAt (stageBytes k.hdr) k.stage w + (set * k.hdr.nlayers + layer) * frameBytes k.hdr

/-- The rows that the work list assigns to the tile the command stands for. -/
def ownRows (s : State) (c : Cmd) : List Row :=
  match getTask s c.task with
  | some k => k.rows.filter (fun r => r.tile = c.ident)
  | none => []

/-- The size of a job's state slots; 0 without state. -/
def slotBytes (j : Job) : Nat := match j.decl with | some d => d.slotSize | none => 0

/-- Does an address lie in the assigned slot of a row placed on the tile? -/
def slotHit (s : State) (c : Cmd) (a : Nat) : Bool :=
  match getJob s c.job with
  | some j => (ownRows s c).any (fun r => decide (r.assigned ≤ a) && decide (a < r.assigned + slotBytes j) && r.assigned ≠ 0)
  | none => false

/-- Does an address lie in the inactive staging set of a row placed on the tile? -/
def stagingHit (s : State) (c : Cmd) (a : Nat) : Bool :=
  match getJob s c.job with
  | some j => match j.kv with
    | some k => (ownRows s c).any (fun r => match r.kvw with
      | some w => match tGet k.wins w with
        | some x => let b := stageFrame k w (b2n (!x.ssel)) 0
                    decide (b ≤ a) && decide (a < b + k.hdr.nlayers * frameBytes k.hdr)
        | none => false
      | none => false)
    | none => false
  | none => false

/-- Does an address lie in the free space of a ring that an APPEND window of the command names? -/
def appendHit (s : State) (c : Cmd) (a : Nat) : Bool :=
  match getJob s c.job with
  | some j => c.wins.any (fun w => w.append && (match j.rings[w.home]? with | some r => ringHas r a | none => false))
  | none => false

/-! ## Writes -/

/-- What a write of a command touches (R190). -/
inductive WKind where
  | work
  | slot
  | append
  | staging
  deriving DecidableEq, Repr

/-- Does an address lie in a READONLY region of the partition (R508)? -/
def readonlyAt (s : State) (p a : Nat) : Bool :=
  isHost a && ((regionAt (funcRegions s (p + 1)) a 1).map regReadonly).getD false

/-- Where a write of one byte goes, or the cause of its abort (R190, R202, R207). -/
def writeKind (s : State) (t : Nat) (c : Cmd) (viaX : Bool) (a : Nat) : Except Nat (WKind × Nat) :=
  if !viaX && decide (calAddr t 0 ≤ a) && fillHit c (a - calAddr t 0) 1 then .error (abortCode 0x12 a)
  else if inWork s t a then
    (if (shadowWin c a).any (fun w => readonlyAt s c.part (w.home + (a - w.shadow))) then .error (abortCode 0x1F a) else .ok (.work, a))
  else match copyWin c a with
    | some w => if readonlyAt s c.part a then .error (abortCode 0x1F a) else .ok (.work, w.shadow + (a - w.home))
    | none =>
      if readonlyAt s c.part a then .error (abortCode 0x1F a)
      else if slotHit s c a then (if c.last then .ok (.slot, a) else .error (abortCode 0x18 a))
      else if stagingHit s c a && viaX then (if c.last then .ok (.staging, a) else .error (abortCode 0x18 a))
      else if appendHit s c a then .ok (.append, a)
      else if partOwns s c.part a 1 then .error (abortCode 0x11 a)
      else .error (abortCode 0x1F a)

/-- The words of written addresses become readable again (R650). -/
def clearBad (s : State) (as : List Nat) : State :=
  { s with badWords := s.badWords.filter (fun b => !(as.any (fun a => decide (codeWord a = b)))) }

/-- Write bytes of the command's WORK: no other command ever reads them (R190). -/
def workWrite (c : Cmd) (ws : List (Nat × Byte)) : Cmd := { c with work := ws.foldl (fun l w => tPut l w.1 w.2) c.work }

/-- The bytes of a unit of a home as the command reads it: committed ones, as they were when it started (R29, R192). -/
def homeUnit (s : State) (c : Cmd) (a : Nat) : List Byte := (addrs a 64).map (fun a => (tGet c.old a).getD (memGet s.mem a))

/-- Bytes read, or the code of the uncorrectable word among them. -/
def bytesUnlessBad (bad : Option Nat) (bs : List Byte) : Except Nat (List Byte) :=
  match bad with
  | some k => .error k
  | none => .ok bs

/-- The bytes of a WORK unit before its first write: a unit of a COPY shadow takes the home's, another unit zeros (R192). -/
def freshUnit (s : State) (t : Nat) (c : Cmd) (u : Nat) : Except Nat (List Byte) :=
  match shadowWin c (64 * u) with
  | some w => bytesUnlessBad (cmdBad s t c (w.home + (64 * u - w.shadow)) 64) (homeUnit s c (w.home + (64 * u - w.shadow)))
  | none => .ok (List.replicate 64 0)

/-- The first write of a WORK unit fills it. -/
def initUnit (s : State) (t : Nat) (c : Cmd) (u : Nat) : Except Nat Cmd :=
  match freshUnit s t c u with
  | .ok bs => .ok (workWrite c (asWrites (64 * u) bs))
  | .error k => .error k

/-- One write to WORK. -/
def workPut (s : State) (t : Nat) (c : Cmd) (x : Nat) (b : Byte) : Except Nat (State × Cmd) :=
  if unitWritten c x then .ok (clearBad s [x], workWrite c [(x, b)])
  else match initUnit s t c (x / 64) with
    | .ok c1 => .ok (clearBad s (addrs (x / 64 * 64) 64), { workWrite c1 [(x, b)] with written := setIns c.written (x / 64) })
    | .error k => .error k

/-- One write of any kind: kept with the command until its task commits (R29, R190). -/
def kindPut (s : State) (t : Nat) (c : Cmd) (k : WKind) (x : Nat) (b : Byte) : Except Nat (State × Cmd) :=
  match k with
  | .work => workPut s t c x b
  | .slot => .ok (s, { c with slotWrites := tPut c.slotWrites x b })
  | .append => .ok (s, { c with appendWrites := tPut c.appendWrites x b })
  | .staging => .ok (s, { c with kvWrites := tPut c.kvWrites x b })

/-- Does an address of a write wait for a transfer or an earlier instruction that reads or writes it (R209)? -/
def writeHeld (s : State) (t : Nat) (c : Cmd) (ws : List (Nat × Byte)) : Bool :=
  ws.any (fun w => rangeWritten s t c w.1 1 || rangeRead s t c w.1 1)

/-- The writes of an instruction or a transfer, in order. Every address is checked before any byte is written. -/
def cmdWrites (s : State) (t : Nat) (c : Cmd) (viaX : Bool) (ws : List (Nat × Byte)) : Except Nat (State × Cmd) := do
  let ts ← ws.mapM (fun w => writeKind s t c viaX w.1)
  if !viaX && writeHeld s t c ws then throw heldCode
  else (ts.zip ws).foldlM (fun (sc : State × Cmd) (k : (WKind × Nat) × (Nat × Byte)) =>
    kindPut sc.1 t sc.2 k.1.1 k.1.2 k.2.2) (s, c)

/-! ## Engine requests outside the XREQs: counters, faults, queues 40 and 43 (R224, R244, R251, R252, R258) -/

/-- Add to a GEY_CNT_ counter. -/
def geyAdd (s : State) (cl i n : Nat) : State := setGey s cl (fun g => { g with cnt := cntAt g.cnt i n })

/-- System entries in use (R244). -/
def sysUsed (g : Gey) : Nat := (g.sys.map (·.entries)).sum

/-- A request of queue 40 or 43 takes its entries. -/
def addSys (s : State) (cl : Nat) (r : SysReq) : State :=
  setGey s cl (fun g => { g with sys := g.sys ++ [r], entFree := g.entFree - r.entries })

/-- It is done: the first of that description gives them back. -/
def dropSys (s : State) (cl queue who what : Nat) : State :=
  setGey s cl (fun g =>
    let is := fun (r : SysReq) => r.queue = queue && r.who = who && r.what = what
    { g with sys := g.sys.eraseP is, entFree := g.entFree + ((g.sys.find? is).elim 0 (·.entries)) })

/-- GEY_FAULT keeps the first fault (R258). -/
def geyFault (s : State) (cl cause queue task : Nat) : State :=
  setGey s cl (fun g => if g.fault.valid then g
    else { g with fault := { valid := true, cause := cause, aux := queue, task := task } })

/-- Is a cause one of Geyser's faults, or of a decode (R175, R250)? -/
def geyCause (k : Nat) : Bool := (decide (0x20 ≤ k) && decide (k ≤ 0x25)) || k = 0x1F || (decide (1 ≤ k) && decide (k ≤ 7))

/-- Record a cause that is Geyser's. -/
def noteFault (s : State) (cl cause queue task : Nat) : State := if geyCause cause then geyFault s cl cause queue task else s

/-- A late request of an engine: counted, the latest kept (R252). -/
def countLate (s : State) (cl stream ns : Nat) : State :=
  setGey (geyAdd s cl 4 1) cl (fun g => if g.lateMax < ns then { g with lateMax := min ns (2 ^ 32 - 1), lateStream := stream } else g)

/-- A request of an engine is done: it gives back its entries, and counts when it is later than its deadline or, on queue 40, the
deadline `dl` of the requesting request (R232, R252). -/
def endSys (s : State) (cl queue who what stream : Nat) (dl : Int) : State :=
  match (getGey s cl).sys.find? (fun r => r.queue = queue && r.who = who && r.what = what) with
  | none => s
  | some r =>
    let s1 := dropSys s cl queue who what
    let d := r.deadline.elim dl (fun n => (n : Int))
    if d < (now s : Int) then countLate s1 cl stream ((now s : Int) - d).toNat else s1

/-- BG_SLACK of an engine in ns (R232, R255). -/
def bgSlackNs (s : State) (cl : Nat) : Nat := 128000 * (getGey s cl).bgSlack

/-! ## Host-interface tags (R15, R244, R513) -/

/-- Slabs or bursts of a transfer in flight. -/
def inFlight (x : Xfer) : Nat := x.issued - x.landed - x.store.length

/-- Transactions of one slab: bursts of at most 64 KiB (R244). -/
def slabBursts (x : Xfer) : Nat := cdiv x.desc.len 0x10000

/-- Tracked entries that a transfer holds: its transactions in flight, no more than its credits (R244, R245). -/
def xferEntries (x : Xfer) : Nat := if x.member.isSome then 0 else min (inFlight x * slabBursts x) (max x.held 1)

/-- Does slab j of a transfer read or write host memory, through the placement map: its transactions then hold host-interface tags? -/
def hostSlab (s : State) (x : Xfer) (j : Nat) : Bool :=
  isHost (placedAt s (x.tile / 8) (x.desc.slabSrc j).toNat) || (!x.topair && isHost (placedAt s (x.tile / 8) x.desc.dst))

/-- Tags that a transfer's slabs in flight hold. -/
def xferTag (s : State) (x : Xfer) : Nat :=
  min (((addrs (x.landed + x.store.length) (inFlight x)).filter (hostSlab s x)).length * slabBursts x) (xferEntries x)

/-- Tags that the requests of an engine's queue 43 hold. -/
def swapTags (g : Gey) : Nat := ((g.sys.filter (fun r => r.queue = 43)).map (·.entries)).sum

/-- Tags that a partition's transfers and swaps hold. -/
def heldTags (s : State) (p : Nat) : Nat :=
  ((s.geys.zipIdx.filter (fun e => bitAt (getPart s p).slices e.2)).map (fun e => (e.1.xfers.map (xferTag s)).sum + swapTags e.1)).sum

/-- The tags of a partition's slices that nothing holds (R15). -/
def withTags (x : Part) : Part := { x with tagsFree := 340 * popMask x.slices - x.tagsHeld }

/-- The tags of a partition follow its transfers and swaps. -/
def settleTags (s : State) : State :=
  { s with parts := s.parts.mapIdx (fun p x =>
      let n := heldTags s p
      { x with tagsFree := x.tagsFree + x.tagsHeld - n, tagsHeld := n }) }

end Sys2Proof.Machine
end

