-- ==== Sys2Proof/Machine/KvOps.lean ====
section
/-! DEFINITION. The page unit's tables: windows, page records, frames, references and pins (R376 to R384, R390 to R393,
R411). -/

namespace Sys2Proof.Machine

def getKv (s : State) (j : Nat) : Option KvJob := (getJob s j).bind (·.kv)
def setKv (s : State) (j : Nat) (f : KvJob → KvJob) : State := setJob s j (fun x => { x with kv := x.kv.map f })
def setWin (s : State) (j w : Nat) (f : Window → Window) : State := setKv s j (fun k => { k with wins := tMod k.wins w f })
def setRec (s : State) (j x : Nat) (f : PageRec → PageRec) : State := setKv s j (fun k => { k with recs := tMod k.recs x f })

/-- The key of page i of a layer in a window's page table (R382). -/
def pageKey (layer i : Nat) : Nat := 264 * layer + i

/-- First position and size of page i (R380). -/
def pageStart (i : Nat) : Nat :=
  if i = 0 then 0 else if i = 1 then 16 else if i ≤ 3 then 32 * 2 ^ (i - 2)
  else if i ≤ 8 then 128 * 2 ^ (i - 4) else 4096 * (i - 8)

def pageSize (i : Nat) : Nat :=
  if i ≤ 1 then 16 else if i = 2 then 32 else if i = 3 then 64 else if i ≤ 8 then 2 ^ (i + 3) else 4096

/-- PK of a fresh page: it occupies 2^PK frames. -/
def pagePk (i : Nat) : Nat := if i ≤ 3 then 0 else if i ≤ 8 then i - 4 else 5

/-- The page that holds a position. -/
def pageOf (p : Nat) : Nat :=
  if p < 16 then 0 else if p < 32 then 1 else if p < 64 then 2 else if p < 128 then 3
  else if p < 256 then 4 else if p < 512 then 5 else if p < 1024 then 6 else if p < 2048 then 7 else if p < 4096 then 8
  else p / 4096 + 8

/-- Do n frames from f lie in one piece of a pool? -/
def inPiece : List (Nat × Nat) → Nat → Nat → Bool
  | [], _, _ => false
  | (m, _) :: ps, f, n => decide (f + n ≤ m) || (decide (m ≤ f) && inPiece ps (f - m) n)

/-- The pieces of a slice's pool. -/
def poolPieces (k : KvJob) (sl : Nat) : List (Nat × Nat) := (tGet k.pools sl).getD []

/-- Device physical address of a record's first frame. -/
def recAddr (k : KvJob) (r : PageRec) : Nat := frameAt (frameBytes k.hdr) (poolPieces k r.slice) r.frame

/-- The records that a window holds, each once: the lead image counts one reference (R390). -/
def winRecs (w : Window) : List Nat := dedup (w.pages.map Prod.snd)

/-- Frames of pages whose only holder is the window (PRIV, R382). -/
def winPriv (k : KvJob) (w : Window) : Nat :=
  ((winRecs w).filterMap (tGet k.recs)).foldl (fun n r => if r.ref = 1 then n + 2 ^ r.pk else n) 0

/-! ## The tables in memory (R382) -/

def winStateCode : WinState → Nat
  | .free => 0
  | .resident => 1
  | .swappingOut => 2
  | .swapped => 3
  | .swappingIn => 4

/-- Address of a window's page table. -/
def ptabAddr (k : KvJob) (w : Nat) : Nat := k.ptab + w * (4 * 264 * k.hdr.nlayers)

/-- The window entry of 128 bytes. -/
def winBytes (j : Nat) (k : KvJob) (n : Nat) : List Byte :=
  match tGet k.wins n with
  | none => List.replicate 128 0
  | some w =>
    leBytes 2 j ++ leBytes 1 (winStateCode w.state)
      ++ leBytes 1 (b2n w.flushPend + 2 * b2n w.auto + 4 * b2n w.waitFrames + 8 * b2n w.ssel)
      ++ leBytes 4 w.stream ++ leBytes 8 (ptabAddr k n) ++ leBytes 8 (stageFrame k n 0 0) ++ leBytes 8 w.swap
      ++ leBytes 4 w.swapLen ++ leBytes 4 (winPriv k w) ++ leBytes 8 k.rtab ++ List.replicate 80 0

/-- A page table: a record index or 0xFFFFFFFF for each page of each layer. -/
def ptabBytes (k : KvJob) (w : Window) : List Byte :=
  (List.range (264 * k.hdr.nlayers)).flatMap (fun i => leBytes 4 ((tGet w.pages i).getD 0xFFFFFFFF))

/-- A page record of 16 bytes. -/
def recBytes (k : KvJob) (r : PageRec) : List Byte :=
  leBytes 8 (if r.swapped then r.swapOff else recAddr k r) ++ leBytes 1 r.pk
    ++ leBytes 1 (b2n r.lead + 2 * b2n r.shrunk + 4 * b2n r.swapped) ++ leBytes 2 r.live ++ leBytes 2 r.ref
    ++ leBytes 2 r.pin

/-- The function of a job's partition. -/
def kvFn (s : State) (j : Nat) : Nat := (getJob s j).elim 0 (·.part) + 1

/-- Write a record to the table in memory. -/
def syncRec (j x : Nat) (s : State) : State :=
  match getKv s j with
  | some k => match tGet k.recs x with
    | some r => dpaPut s (kvFn s j) (k.rtab + 16 * x) (recBytes k r)
    | none => s
  | none => s

/-- Write a window's entry to the table in memory, which may lie in a host region. -/
def syncEntry (s : State) (j n : Nat) : State :=
  match getKv s j with
  | some k => dpaPut s (kvFn s j) (k.winTab + 128 * n) (winBytes j k n)
  | none => s

/-- Write a window's entry, page table and records to the tables in memory. -/
def syncWin (s : State) (j n : Nat) : State :=
  match getKv s j with
  | none => s
  | some k =>
    let s1 := syncEntry s j n
    match tGet k.wins n with
    | none => s1
    | some w => forAll (dpaPut s1 (kvFn s j) (ptabAddr k n) (ptabBytes k w)) (winRecs w) (fun s x => syncRec j x s)

/-- The holders of a record have changed: the record, and PRIV in the entries of the windows that map it (R382, R390). -/
def syncHolders (s : State) (j x : Nat) : State :=
  let s1 := syncRec j x s
  forAll s1 (((getKv s1 j).elim [] (fun k => k.wins.filter (fun e => e.2.pages.any (fun p => p.2 = x)))).map Prod.fst)
    (fun s n => syncEntry s j n)

/-! ## References and pins (R390 to R393) -/

/-- Reclaim a record that neither a holder nor a reader has (R393). -/
def reclaim (s : State) (j x : Nat) : State :=
  match (getKv s j).bind (fun k => tGet k.recs x) with
  | some r => if r.ref = 0 && r.pin = 0 then setKv (syncRec j x s) j (fun k => { k with recs := tDel k.recs x }) else s
  | none => s

def addRef (s : State) (j x : Nat) : State := syncHolders (setRec s j x (fun r => { r with ref := r.ref + 1 })) j x
def dropRef (s : State) (j x : Nat) : State := reclaim (syncHolders (setRec s j x (fun r => { r with ref := r.ref - 1 })) j x) j x
def addPin (s : State) (j x : Nat) : State := syncRec j x (setRec s j x (fun r => { r with pin := r.pin + 1 }))
def dropPin (s : State) (j x : Nat) : State := reclaim (syncRec j x (setRec s j x (fun r => { r with pin := r.pin - 1 }))) j x

/-- Free a window: its references, its swap image, its staging frames, its entry (R411). -/
def freeWindow (s : State) (j n : Nat) : State :=
  match (getKv s j).bind (fun k => tGet k.wins n) with
  | none => s
  | some w => syncWin (forAll (setKv s j (fun k => { k with wins := tDel k.wins n })) (winRecs w) (fun s x => dropRef s j x)) j n

/-- The requests of a job's swaps, or of one window's, leave queue 43, and their tags are free. -/
def dropSwaps (s : State) (j : Nat) (w : Option Nat) : State :=
  settleTags <| forAll s (List.range 12) (fun s sl =>
    forAll s ((getGey s sl).sys.filter (fun r => r.queue = 43 && r.who = j && w.all (· = r.what))) (fun s r => dropSys s sl 43 j r.what))

/-- Does a window hold its stream back: a flush or a transfer in progress (R389, R410)? -/
def winBusy (s : State) (j n : Nat) : Bool :=
  match (getKv s j).bind (fun k => tGet k.wins n) with
  | some w => w.flushPend || w.state = .swappingOut || w.state = .swappingIn
  | none => false

/-! ## Ranges (R378) -/

/-- The tables of a KV job: windows, pages, records, prefix nodes, tokens. -/
def kvTables (k : KvJob) : List (Nat × Nat) :=
  [(k.winTab, 128 * k.hdr.maxwin), (k.ptab, 1056 * k.hdr.nlayers * k.hdr.maxwin), (k.rtab, 16 * k.hdr.pool * k.pools.length),
   (k.nodeTab, Config.nodeBytes * k.hdr.nodes), (k.tokStore, 4 * k.hdr.tokwords)]

/-- The staging region and the tables of a KV job, which stay where JOB_LOAD placed them. -/
def kvFixed (k : KvJob) : List (Nat × Nat) :=
  k.stage.map (fun p => (p.2, p.1 * stageBytes k.hdr)) ++ kvTables k

/-- Every range of a KV job: the pieces of its pools, and what stays. -/
def kvRanges (k : KvJob) : List (Nat × Nat) :=
  k.pools.flatMap (fun e => e.2.map (fun p => (p.2, p.1 * frameBytes k.hdr))) ++ kvFixed k

/-! ## Frames (R383, R412) -/

/-- Frames of a slice's pool that records hold. -/
def usedFrames (k : KvJob) (sl : Nat) : List Nat :=
  (k.recs.filter (fun e => e.2.slice = sl && !e.2.swapped)).flatMap (fun e => addrs e.2.frame (2 ^ e.2.pk))

/-- The first frames of the free runs of 2^pk frames aligned to 2^pk in a slice's pool: a page is one piece of memory. -/
def freeRuns (k : KvJob) (sl pk : Nat) : List Nat :=
  let used := usedFrames k sl
  ((List.range (k.hdr.pool / 2 ^ pk)).map (· * 2 ^ pk)).filter (fun f =>
    inPiece (poolPieces k sl) f (2 ^ pk) && !(addrs f (2 ^ pk)).any used.elem)

/-- The slices whose pools a job has: a slice taken offline leaves with its pool (R452). -/
def poolSlices (k : KvJob) : List Nat := (k.pools.map Prod.fst).filter (fun n => !k.lost.elem n)

/-- The slices of a job's pools in the order in which a window tries them: its home slice, the others of its die, the
other die's (R383). -/
def sliceOrder (k : KvJob) (home : Nat) : List Nat :=
  let others := (poolSlices k).filter (· ≠ home)
  (if (poolSlices k).elem home then [home] else []) ++ others.filter (fun n => n / 6 = home / 6)
    ++ others.filter (fun n => n / 6 ≠ home / 6)

/-- Allocate a page of 2^pk frames with a reference count of 1: its record index. -/
def allocPage (s : State) (j home pk : Nat) (lead : Bool) : Option Nat × State :=
  match getKv s j with
  | none => (none, s)
  | some k =>
    match (sliceOrder k home).find? (fun sl => !(freeRuns k sl pk).isEmpty) with
    | none => (none, s)
    | some sl =>
      let (f, s1) := pick s (freeRuns k sl pk)
      let (x, s2) := pick s1 ((List.range (k.hdr.pool * k.pools.length)).filter (fun x => !tHas k.recs x))
      match f, x with
      | some f, some x =>
        let r : PageRec :=
          { slice := sl, frame := f, swapOff := 0, pk := pk, lead := lead, shrunk := false, swapped := false, live := 0,
            ref := 1, pin := 0 }
        (some x, setKv s2 j (fun k => { k with recs := tPut k.recs x r }))
      | _, _ => (none, s)

/-- Total and mapped frames, and staging frames of windows that are not FREE (R412). -/
def kvMapped (k : KvJob) : Nat :=
  k.recs.foldl (fun n e => if e.2.swapped || !(poolSlices k).elem e.2.slice then n else n + 2 ^ e.2.pk) 0
def kvStaging (k : KvJob) : Nat := k.wins.length * (2 * k.hdr.nlayers)
def kvTotal (k : KvJob) : Nat := k.hdr.pool * (poolSlices k).length + k.hdr.maxwin * (2 * k.hdr.nlayers)
def kvFreeFrames (k : KvJob) : Nat := kvTotal k - kvMapped k - kvStaging k

/-! ## The prefix trees' versions (R397) -/

/-- A switch of the prefix trees of a partition: lookups see the background version, removed nodes give up their references,
and the commands that waited complete (R397, R399, R400). -/
def switchTrees (s : State) (p : Nat) : State :=
  let s1 := forAll s ((partJobs s p).map Prod.fst) (fun s j => match getKv s j with
    | none => s
    | some k => forAll (setKv s j (fun k => { k with fg := k.bg, gone := [] })) k.gone (fun s x => dropRef s j x))
  let ops := (getPart s p).treeOps
  forAll (setPart s1 p (fun x => { x with treeOps := [] })) ops (fun s o => dciComplete s o.fn o.tag stOk o.result 0)

/-- Does a partition run a job (R332)? -/
def partRuns (s : State) (p : Nat) : Bool := (partJobs s p).any (fun e => e.2.state = .running || e.2.state = .stopping)

/-- A partition that runs no job switches at once. -/
def idleSwitch (s : State) (p : Nat) : State := if partRuns s p then s else switchTrees s p

end Sys2Proof.Machine
end

