-- ==== Sys2Proof/Machine/StreamOps.lean ====
section
/-! DEFINITION. Streams, their chunks and completions, state slots, and what a row does at its commit or end (R264 to R268,
R289 to R306, R322 to R329). -/

namespace Sys2Proof.Machine

/-! ## State slots (R262 to R265) -/

def setPool (s : State) (j c : Nat) (f : Pool → Pool) : State := setJob s j (fun x => { x with pools := tMod x.pools c f })

def getPool (s : State) (j c : Nat) : Option Pool := (getJob s j).bind (fun x => tGet x.pools c)

/-- Take a free slot of a pool: any of them. -/
def takeSlot (s : State) (j c : Nat) : Option Nat × State :=
  match getPool s j c with
  | none => (none, s)
  | some p =>
    if p.free.isEmpty then (none, s)
    else
      let (a, s1) := pick s p.free
      (a, setPool s1 j c (fun p => { p with free := p.free.filter (fun x => some x ≠ a) }))

/-- Return a slot of a pool. -/
def freeSlot (s : State) (j c a : Nat) : State :=
  setPool s j c (fun p => if p.slots.elem a then { p with free := setIns p.free a } else p)

/-! ## Chunks -/

/-- Chunks queued, the one in flight included (QCNT). -/
def queued (st : Stream) : List Chunk := st.chunks.filter (fun c => !c.ended)

/-- Is a continuation due, or has the head chunk's payload landed (R296, R302, R324)? -/
def headReady (st : Stream) : Bool :=
  st.cont || (match queued st with | c :: _ => c.landed | [] => false)

/-- The head chunk: a queued chunk is it only once its payload has landed (R293, R302). -/
def headChunk (st : Stream) : Option Chunk := (queued st).head?.bind (fun c => if c.landed then some c else none)

/-- OPEN or RUNNABLE. -/
def openState (st : Stream) : StreamState := if headReady st then .runnable else .open

/-- STATE as R295 encodes it. -/
def stCode : StreamState → Nat
  | .free => 0
  | .open => 1
  | .runnable => 2
  | .waiting => 3
  | .paused => 4
  | .preempted => 5
  | .closing => 6
  | .faulted => 7

/-- Release ended chunks at the front of the ring: the chunks left and the bytes released (R302, R326). -/
def purge : List Chunk → Nat → List Chunk × Nat
  | [], n => ([], n)
  | c :: r, n => if c.ended && c.landed then purge r (n + c.used) else (c :: r, n)

def purgeStream (st : Stream) : Stream :=
  let (cs, n) := purge st.chunks 0
  { st with chunks := cs, irhead := st.irhead + n }

/-- Chunk statuses (R305). -/
def chDone : Nat := 0
def chAborted : Nat := 1
def chDropped : Nat := 2

/-- The step number of a completion (R305). -/
def doneStep (st : Stream) (c : Chunk) : Nat :=
  match c.lastStep with
  | some n => n
  | none => if st.committed then (st.step + 2 ^ 32 - 1) % 2 ^ 32 else 0

/-- ns by which a chunk ends after its deadline (R316). -/
def lateNs (c : Chunk) (t : Nat) : Option Nat :=
  match c.deadline with
  | some d => if d < t then some (t - d) else none
  | none => none

/-- DETAIL of a completion (R305); lateness in whole µs. -/
def doneDetail (st : Stream) (c : Chunk) (drop t : Nat) : Nat :=
  let ns := (lateNs c t).getD 0
  b2n c.drift + 2 * b2n (c.allSkip && decide (0 < c.steps)) + 4 * b2n (lateNs c t).isSome + 8 * b2n c.replayed
    + 16 * b2n c.exited + 32 * b2n (!st.committed) + 2 ^ 8 * drop + 2 ^ 16 * min (ns / 1000) (2 ^ 32 - 1)
    + 2 ^ 48 * min c.steps 65535

/-- DEADLINE_MISS of a late chunk of an RT stream (R316, R666). -/
def missEvent (p j i t ns : Nat) : Event :=
  { mkEvent 0x03 p 0x05 i with job := j, stream := i, time := t, detail := leBytes 8 ns ++ [0xFF] }

/-- Counters of a chunk's end: DONE, ABORTED, DROPPED with their internal totals, and LATE (R331, R332). -/
def countEnd (s : State) (p status : Nat) (late : Bool) : State :=
  let s1 := orcAdd (orcAdd s p (1 + status) 1) p 5 (b2n late)
  setPart s1 p (fun x =>
    if status = chDone then { x with totDone := x.totDone + 1 }
    else if status = chAborted then { x with totAborted := x.totAborted + 1 }
    else { x with totDropped := x.totDropped + 1 })

/-- Queue the completion of a chunk of stream i (R305, R306). -/
def queueDone (s : State) (i : Nat) (st : Stream) (c : Chunk) (status drop : Nat) : State :=
  let t := now s
  let d : ChunkDone :=
    { ring := st.cring, tag := c.tag, stream := i, status := status, result := min c.result (2 ^ 32 - 1),
      step := doneStep st c, detail := doneDetail st c drop t, time := t }
  let s1 := countEnd (setJob s st.job (fun j => { j with compQ := j.compQ ++ [d] })) st.part status (lateNs c t).isSome
  match lateNs c t with
  | some ns => if st.dclass = 0 then postPart s1 st.part (missEvent st.part st.job i t ns) else s1
  | none => s1

/-! ## CHECK_STEP requests (R566) -/

/-- Conclude the check of a stream: CHECK_STEP completes OK with its outcome. -/
def concludeCheck (s : State) (i outcome : Nat) : State :=
  match s.checks.find? (fun c => c.stream = i) with
  | none => s
  | some c =>
    let s1 := setStream { s with checks := s.checks.filter (fun c => c.stream ≠ i) } i (fun st => { st with check := false })
    let d := if c.placed then c.step + 2 ^ 32 * c.firstTile + 2 ^ 40 * c.checkTile.getD 0
      else (getStream s i).elim 0 (·.step)
    dciComplete s1 c.fn c.tag stOk outcome d

/-- The chunk that would carry or carries the check ended without its step's commit: NOT_RUN. -/
def notRun (s : State) (i : Nat) : State := concludeCheck s i 2

/-- End the chunk at an index of a stream's list; the head's end returns REPLAYS to 0. -/
def endChunk (s : State) (i k status drop : Nat) : State :=
  match getStream s i with
  | none => s
  | some st => match st.chunks[k]? with
    | none => s
    | some c =>
      if c.ended then s
      else
        let head := st.chunks.take k |>.all (·.ended)
        let s1 := queueDone s i st c status drop
        let s2 := setStream s1 i (fun st => purgeStream { st with
          chunks := st.chunks.modify k (fun c => { c with ended := true }),
          replays := if head then 0 else st.replays, cont := if head then false else st.cont })
        if status ≠ chDone && head then notRun s2 i else s2

/-- Index of the head chunk: the first that has not ended. -/
def headIx (st : Stream) : Nat := (st.chunks.takeWhile (·.ended)).length

/-- End the head chunk. -/
def endHead (s : State) (i status drop : Nat) : State :=
  match getStream s i with
  | some st => endChunk s i (headIx st) status drop
  | none => s

/-- End every queued chunk, but the one in flight when `keep` is set. -/
def endQueued (s : State) (i drop : Nat) (keep : Bool) : State :=
  match getStream s i with
  | none => s
  | some st =>
    let n := (queued st).length - b2n keep
    forAll s (List.range n) (fun s _ =>
      match getStream s i with
      | some st =>
        let ix := (st.chunks.zip (List.range st.chunks.length)).filter (fun e => !e.1.ended)
        match (ix.drop (b2n keep)).head? with
        | some e => endChunk s i e.2 chDropped drop
        | none => s
      | none => s)

/-! ## Stream states (R296, R297) -/

/-- Do completions of a stream wait to be posted? -/
def doneWaiting (s : State) (st : Stream) (i : Nat) : Bool :=
  match getJob s st.job with
  | some j => j.compQ.any (fun d => d.stream = i)
  | none => false

/-- May the entry become FREE: CLOSING with nothing queued or fetched, or FAULTED and closed, its completions posted, its
window at rest? -/
def freeable (s : State) (st : Stream) (i : Nat) : Bool :=
  ((st.state = .closing && st.chunks.isEmpty) || (st.state = .faulted && st.pclose))
    && !doneWaiting s st i
    && (match st.kvw with | some w => !winBusy s st.job w | none => true)

/-- An entry is FREE: its partition has one more unused (R331). -/
def dropEntry (s : State) (i : Nat) (st : Stream) : State :=
  setPart { s with streams := tDel s.streams i } st.part (fun x => { x with entFree := x.entFree + 1 })

/-- Make an entry FREE: its slot, its input ring, its window (R265, R294, R411). -/
def freeStream (s : State) (i : Nat) (st : Stream) : State :=
  let s1 := notRun (freeSlot s st.job (st.home / 8) st.slot) i
  let s2 := setJob s1 st.job (fun j => { j with inUse := tMod j.inUse st.home (fun l => l.filter (fun e => e.1 ≠ st.irbase)) })
  let s3 := match st.kvw with
    | some w => freeWindow s2 st.job w
    | none => s2
  dropEntry s3 i st

def tryFree (s : State) (i : Nat) : State :=
  match getStream s i with
  | some st => if freeable s st i then freeStream s i st else s
  | none => s

/-- A chunk became ready or a request was cleared: OPEN and RUNNABLE follow the queue. -/
def refresh (s : State) (i : Nat) : State :=
  setStream s i (fun st => if st.state = .open || st.state = .runnable then { st with state := openState st } else st)

/-! ## Swap images (R405 to R407) -/

/-- The records of a window that a swap-out writes: those with no other holder, in order of layer and page (R406). -/
def swapRecs (k : KvJob) (w : Window) : List Nat :=
  (winRecs w).filter (fun x => match tGet k.recs x with | some r => r.ref = 1 && !r.swapped | none => false)

/-- Bytes of a page's body, padded to a multiple of 4,096 (R407). -/
def bodyLen (k : KvJob) (r : PageRec) : Nat := cdiv (2 ^ r.pk * frameBytes k.hdr) 4096 * 4096

/-- Body offsets of the pages of an image, in order, and the length of all bodies. -/
def bodyOffs (k : KvJob) : List Nat → Nat → List (Nat × Nat) × Nat
  | [], o => ([], o)
  | x :: xs, o =>
    let n := (tGet k.recs x).elim 0 (bodyLen k)
    let (l, e) := bodyOffs k xs (o + n)
    ((x, o) :: l, e)

/-- The length of a coded region of n bytes with its header array, in whole 4,096 B (R227, R407; notes/assumptions/20.md). -/
def imageLen (n : Nat) : Nat := cdiv (n + 16 * (n / 4096)) 4096 * 4096

/-- The swap area of a partition (R507). -/
def swapArea (s : State) (p : Nat) : Option Region := (funcRegions s (p + 1)).find? regSwap

/-- Images in a partition's swap area: address and bytes, in whole MiB. -/
def swapUsed (s : State) (p : Nat) : List (Nat × Nat) :=
  (partJobs s p).flatMap (fun e => match e.2.kv with
    | some k => (k.wins.filter (fun w => w.2.swap ≠ 0)).map (fun w => (w.2.swap, cdiv (w.2.swapLen * 4096) 0x100000 * 0x100000))
    | none => [])

/-- First fit in units of 1 MiB (R406): the device physical address of room for n bytes. -/
def swapFit (s : State) (p n : Nat) : Option Nat :=
  match swapArea s p with
  | none => none
  | some r =>
    let sz := max 0x100000 (cdiv n 0x100000 * 0x100000)
    ((List.range (r.len / 0x100000)).map (fun i => r.dpa + i * 0x100000)).find? (fun a =>
      inside a sz r.dpa r.len && !(swapUsed s p).any (fun u => overlap a sz u.1 u.2))

/-- Image length of a window's swap-out. -/
def winImage (k : KvJob) (w : Window) : Nat := imageLen (bodyOffs k (swapRecs k w) 0).2

/-- A stream leaves PREEMPTED (R296). -/
def unpreempt (s : State) (i : Nat) : State :=
  setStream s i (fun st =>
    if st.state ≠ .preempted then st
    else if st.ppause then { st with state := .paused, ppause := false } else { st with state := openState st })

/-- Bytes of pages that lie on a slice, each body padded (R407). -/
def sliceBody (k : KvJob) (xs : List Nat) (sl : Nat) : Nat :=
  (((xs.filterMap (tGet k.recs)).filter (fun r => r.slice = sl)).map (bodyLen k)).sum

/-- A swap's requests on queue 43 of each engine whose stack holds pages of it, with their background deadline; how many of their
transactions are outstanding at once is a free value, within the system entries and the partition's host-interface tags that are free
(R224, R232, R244, R249, R513; notes/assumptions/79.md). -/
def startSwap (s : State) (p j w : Nat) (k : KvJob) (xs : List Nat) : State :=
  forAll s (List.range 12) (fun s sl =>
    let n := cdiv (sliceBody k xs sl) 0x10000
    let (f, s1) := takeFree s
    let room := min (min n (256 - sysUsed (getGey s sl))) (getPart s p).tagsFree
    if n = 0 then s
    else settleTags (addSys s1 sl { queue := 43, who := j, what := w, deadline := some (now s + bgSlackNs s sl), bursts := n,
                                    entries := if room = 0 then 0 else 1 + Config.freeNat f % room }))

/-- A swap has landed on every engine: its requests are done, and late where their deadline has passed (R252). -/
def endSwap (s : State) (j w stream : Nat) : State :=
  settleTags (forAll s (List.range 12) (fun s sl => endSys s sl 43 j w stream 0))

/-- Is the flush of a stream's window pending: a close or a preemption of it waits (R389)? -/
def flushing (s : State) (st : Stream) : Bool :=
  (st.kvw.bind (fun w => (getKv s st.job).bind (fun k => tGet k.wins w))).any (·.flushPend)

/-- Start the swap-out of a PREEMPTED stream whose window is RESIDENT and not flushing, or was preempted for its own flush, which waits
for frames (R389, R405): the window becomes SWAPPING_OUT with its image, and its pages are pinned for the copy (R391, R405, R406). Without room the
command completes NO_RESOURCE. -/
def startSwapOut (s : State) (i : Nat) : State :=
  match getStream s i with
  | none => s
  | some st => match st.kvw with
    | none => s
    | some w => match getKv s st.job with
      | none => s
      | some k => match tGet k.wins w with
        | none => s
        | some win =>
          if st.state ≠ .preempted || win.state ≠ .resident || (win.flushPend && !(win.auto && win.victim = some w)) then s
          else match swapFit s st.part (winImage k win) with
            | none =>
              syncEntry (setWin (unpreempt (completeWaiters s (fun x => x.what = .kvOut i) stNoResource 0 0) i) st.job w
                (fun v => { v with auto := false })) st.job w
            | some a =>
              let s1 := setWin s st.job w (fun v => { v with
                state := .swappingOut, swap := a, swapLen := winImage k win / 4096, moving := swapRecs k win })
              syncWin (startSwap (forAll s1 (swapRecs k win) (fun s x => addPin s st.job x)) st.part st.job w k (swapRecs k win)) st.job w

/-- Start the preemption of a stream that has no step in flight (R296, R406): its window is swapped out as the page unit
gets to it. -/
def preemptStream (st : Stream) : Stream :=
  match st.state with
  | .open | .runnable => { st with state := .preempted, ppreempt := false }
  | .paused => { st with state := .preempted, ppause := true, ppreempt := false }
  | _ => st

/-- A close ends a preemption that has not started: its command completes INVALID, and the window is no victim (R296, R297,
R410). -/
def dropPreempt (s : State) (i : Nat) : State :=
  match getStream s i with
  | none => s
  | some st => match st.kvw.bind (fun w => ((getKv s st.job).bind (fun k => tGet k.wins w)).map (fun v => (w, v))) with
    | none => s
    | some (w, v) =>
      if v.state ≠ .resident then s
      else completeWaiters (syncEntry (setWin s st.job w (fun v => { v with auto := false })) st.job w) (fun x => x.what = .kvOut i) stInvalid 0 0

/-- The stream's step has ended: pending requests in the order of R297, else RUNNABLE or OPEN. A preemption waits on while a flush is
pending (R389, R406). -/
def stepEnd (s : State) (i : Nat) : State :=
  let held := (getStream s i).any (flushing s)
  let s1 := setStream (if ((getStream s i).map (fun st => st.state = .waiting && st.pclose)).getD false then dropPreempt s i else s) i
   (fun st =>
    if st.state ≠ .waiting then st
    else if st.pclose then { st with state := .closing, pclose := false, ppreempt := false }
    else if st.ppreempt && !held then { st with state := .preempted, ppreempt := false }
    else if st.ppause then { st with state := .paused, ppause := false }
    else { st with state := openState st })
  let s2 := completeWaiters s1 (fun w => w.what = .pause i) stOk ((getStream s1 i).elim 0 (stCode ·.state)) 0
  tryFree (startSwapOut s2 i) i

/-- STREAM_CLOSE in every state: DISCARD ends the queued chunks that are not in flight DROPPED at once. While a flush of the stream's
window is pending the close waits for it as PCLOSE (R297, R389). -/
def closeStream (s : State) (i : Nat) (discard : Bool) : State :=
  match getStream s i with
  | none => s
  | some st =>
    if flushing s st && (st.state = .open || st.state = .runnable || st.state = .paused || st.state = .preempted) then
      setStream s i (fun x => { x with pclose := true, discard := x.discard || discard })
    else
      let s1 := if st.state ≠ .waiting && (st.state = .preempted || st.ppreempt) then dropPreempt s i else s
      let s2 := setStream s1 i (fun x => match x.state with
        | .open | .runnable | .paused | .preempted =>
          { x with state := .closing, ppause := false, pclose := false, ppreempt := false, discard := discard }
        | .waiting => { x with pclose := true, discard := x.discard || discard }
        | .faulted => { x with pclose := true }
        | _ => { x with discard := x.discard || discard })
      tryFree (if discard then endQueued s2 i 4 (st.state = .waiting) else s2) i

/-- A window's flush has landed: a close of its stream that waited for it acts now and its command completes, or else a preemption
does (R389, R406). -/
def flushEnd (s : State) (i : Nat) : State :=
  match getStream s i with
  | none => s
  | some st =>
    if st.state = .waiting then s
    else if st.pclose then
      let s1 := closeStream s i st.discard
      completeWaiters s1 (fun w => w.what = .close i) stOk ((getStream s1 i).elim 0 (stCode ·.state)) 0
    else startSwapOut (if st.ppreempt then setStream s i preemptStream else s) i

/-! ## A row's commit (R290, R322 to R326) -/

/-- A status word (R321). -/
def stSkip (w : W32) : Bool := bitAt w.toNat 0
def stMore (w : W32) : Bool := bitAt w.toNat 1
def stExit (w : W32) : Bool := bitAt w.toNat 2
def stBytes (w : W32) : Nat := w.toNat / 256

/-- Does a row reset its stream's state: RST0 or a mark (R278)? -/
def carriesReset (r : Row) : Bool := r.rst0 || r.rst.isSome

/-- Does the commit raise the drift bit (R291)? -/
def driftBit (st : Stream) (sat nan : Nat) : Bool :=
  (st.driftLimit ≠ 0 && decide (st.driftSat < st.driftLimit) && decide (st.driftLimit ≤ min (st.driftSat + sat) (2 ^ 32 - 1)))
    || (st.driftNan = 0 && decide (0 < nan))

/-- A stepped row's effect on its entry: slot, drift counters, STEP, RST_PEND, EXPHIST, KVLEN, LAST, NEXIT. -/
def rowStep (r : Row) (w : W32) (n sat nan t : Nat) (st : Stream) : Stream :=
  { st with
    slot := r.assigned
    driftSat := min (st.driftSat + sat) (2 ^ 32 - 1)
    driftNan := min (st.driftNan + nan) (2 ^ 16 - 1)
    step := (st.step + 1) % 2 ^ 32
    rstPend := st.rstNext
    rstNext := false
    exphist := r.experts
    kvlen := st.kvlen + n
    last := t
    nexit := if stExit w then min (st.nexit + 1) (2 ^ 32 - 1) else st.nexit
    committed := true }

/-- A skipped row's effect: STEP and NSKIP, NEXIT if it exited; the reset it carried stays due (R322, R323). -/
def rowSkip (r : Row) (w : W32) (st : Stream) : Stream :=
  { st with
    step := (st.step + 1) % 2 ^ 32
    nskip := min (st.nskip + 1) (2 ^ 32 - 1)
    nexit := if stExit w then min (st.nexit + 1) (2 ^ 32 - 1) else st.nexit
    rstPend := carriesReset r || st.rstNext
    rstNext := false
    committed := true }

/-- What a committed step adds to its chunk's record. -/
def chunkStep (r : Row) (w : W32) (drift : Bool) (c : Chunk) : Chunk :=
  { c with
    steps := c.steps + 1
    lastStep := some r.step
    allSkip := c.allSkip && stSkip w
    exited := c.exited || stExit w
    drift := c.drift || drift
    result := if stSkip w then c.result else c.result + stBytes w }

/-- The engine whose queue 42 flushes a window: that of the slice with its staging sets, a home engine for those in host memory (R248,
R389). -/
def flushEngine (s : State) (j w home : Nat) : Nat :=
  ((getKv s j).bind (fun k => sliceOf (stageFrame k w 0 0))).getD home

/-- Release the pins of a row (R391). -/
def unpinRow (s : State) (j : Nat) (r : Row) : State := forAll s r.pins (fun s x => dropPin s j x)

/-- One row in step 5 of R196: `n` positions appended, `sat` and `nan` its drift counts. -/
def rowCommit (s : State) (j : Nat) (hdr : KgiHdr) (r : Row) (w : W32) (n sat nan : Nat) : State :=
  match getStream s r.stream with
  | none => unpinRow s j r
  | some st =>
    let skip := stSkip w
    let cl := st.home / 8
    let drift := !skip && driftBit st sat nan
    let s1 := setStream s r.stream (if skip then rowSkip r w else rowStep r w n sat nan (now s))
    let s2 := if r.assigned = 0 then s1
      else if skip then freeSlot s1 j cl r.assigned else freeSlot s1 j cl st.slot
    let s3 := setStream s2 r.stream (fun x => { x with chunks := x.chunks.modify (headIx x) (chunkStep r w drift) })
    let s4 := orcAdd (orcAdd s3 st.part 6 (b2n skip)) st.part 7 (b2n (stExit w))
    let s5 := match r.kvw with
      | some x => if n = 0 || skip then s4
        else syncWin (setWin s4 j x (fun v => { v with
          ssel := !v.ssel, flushPend := v.flushPend || (st.kvlen + n) % 64 = 0, flushFrom := (st.kvlen + n) / 64 - 1, flushDue := now s4 + bgSlackNs s4 (flushEngine s4 j x cl) })) j x
      | none => s4
    let steps := ((getStream s5 r.stream).bind (fun x => x.chunks[headIx x]?)).elim 0 (·.steps)
    let more := hdr.autoreg && stMore w && !skip && decide (steps < hdr.stepLimit)
    let s6 := if more then setStream s5 r.stream (fun x => { x with cont := true })
      else endHead s5 r.stream chDone 0
    stepEnd (unpinRow s6 j r) r.stream

/-- A row that ends without a commit and is not replayed: its chunk ends ABORTED, its assigned slot is freed (R329). -/
def rowAbort (s : State) (j : Nat) (r : Row) : State :=
  let s1 := match getStream s r.stream with
    | some st => freeSlot s j (st.home / 8) r.assigned
    | none => s
  stepEnd (unpinRow (endHead s1 r.stream chAborted 0) j r) r.stream

end Sys2Proof.Machine
end

