-- ==== Sys2Proof/Machine/TaskOps.lean ====
section
/-! DEFINITION. What ends commands, tasks and jobs: kill, abort, teardown, partition faults, withdrawn tiles, slices taken
offline, and escalation (R198 to R200, R328, R443 to R456, R649 to R654, R669, R670). -/

namespace Sys2Proof.Machine

/-! ## Kill (R198) -/

/-- Release holds on a job's semaphores (R204). -/
def releaseHolds (s : State) (j : Nat) (hs : List (Nat × Nat)) : State :=
  setJob s j (fun x => { x with sems := hs.foldl (fun l h => tMod l h.1 (fun m => { m with h := m.h - h.2 })) x.sems })

/-- A killed command leaves the wait order of every semaphore (R448). -/
def dropWaits (s : State) (j t : Nat) : State :=
  setJob s j (fun x => { x with sems := x.sems.map (fun e => (e.1, { e.2 with waits := e.2.waits.filter (fun w => w.1 ≠ t) })) })

/-- The OUTPUT rings that a tile's command holds are free again (R191). -/
def releaseRings (s : State) (j t : Nat) : State :=
  setJob s j (fun x => { x with rings := x.rings.map (fun r => if r.holder = some t then { r with holder := none } else r) })

/-- Credits that the transfers of an engine have taken. -/
def usedCredits (g : Gey) : Nat := ((g.xfers.filter (fun x => !x.cancelled)).map (·.held)).sum

/-- Entries that transactions of transfers hold. -/
def usedEntries (g : Gey) : Nat := (g.xfers.map xferEntries).sum

/-- Replace the transfers of an engine: what they no longer hold is free, what they take is not (R246, R247). -/
def putXfers (g : Gey) (xs : List Xfer) : Gey :=
  let h := { g with xfers := xs }
  { h with entFree := g.entFree + usedEntries g - usedEntries h, credFree := g.credFree + usedCredits g - usedCredits h }

/-- A request whose burst is gone goes on by itself (R242). -/
def promote (xs : List Xfer) : List Xfer :=
  xs.map (fun x => match x.member with
    | some h => if xs.any (fun y => y.id = h) then x else { x with member := none }
    | none => x)

/-- Cancel a tile's transfers: queued ones go, those in flight land where nothing reads them and drain (R246). -/
def cancelXfers (s : State) (t : Nat) : State :=
  settleTags (setGey s (t / 8) (fun g => putXfers g (promote (g.xfers.filterMap (fun x =>
    if x.tile ≠ t || x.cancelled then some x
    else if inFlight x = 0 then none
    else some { x with cancelled := true, landed := x.landed + x.store.length, store := [] })))))

/-- A tile's requests leave the Fumarole queues. -/
def dropFum (s : State) (t : Nat) : State :=
  { s with dies := s.dies.map (fun d => { d with fumQ := d.fumQ.filter (fun q => q.tile ≠ t) }) }

/-- The tile has no command: engine state, WORK and scratch are gone. -/
def clearTile (s : State) (t : Nat) : State := setTile s t (fun x => { x with cmd := none, eng := Engine.reset })

/-- Add to a TLE_CNT_ counter. -/
def tleAdd (s : State) (t i n : Nat) : State := setTile s t (fun x => { x with cnt := cntAt x.cnt i n })

/-- End a tile's command with nothing published. -/
def dropCmd (s : State) (t : Nat) : State :=
  match getCmd s t with
  | none => s
  | some c =>
    let s1 := if isChecking c then s else releaseHolds s c.job c.holds
    clearTile (dropFum (cancelXfers (releaseRings (dropWaits s1 c.job t) c.job t) t) t) t

/-- Is a command in a stage commit, and is it in COMMIT_WAIT: past the comparison that R657 may hold it for? -/
def committing (c : Cmd) : Bool := c.phase = .commit && c.wait.isNone
def waitsCommit (c : Cmd) : Bool := c.phase = .commitWait && c.wait.isNone

/-- The bytes of the written units of a command's COPY windows, by home address (R194, R196). -/
def copyBytes (c : Cmd) : List (Nat × Byte) :=
  c.wins.flatMap (fun w =>
    if w.append then []
    else (List.range (w.len / 64)).flatMap (fun u =>
      if unitWritten c (w.shadow + 64 * u) then
        asWrites (w.home + 64 * u) ((addrs (w.shadow + 64 * u) 64).map (fun a => (tGet c.work a).getD 0)) else []))

/-- Commit-phase COPY units whose home lies in another cluster cross on queue 41 of the engine of the tile's cluster: 64 B read and 64 B
written for each, in one transaction (R224, R253; notes/assumptions/16.md). -/
def countCommit (s : State) (cl : Nat) (ws : List (Nat × Byte)) : State :=
  let n := (ws.filter (fun w => match placeOf w.1 with | .caldera t _ => t / 8 ≠ cl | _ => false)).length
  setGey s cl (fun g => { g with cnt := cntAt (cntAt (cntAt g.cnt 0 n) 1 n) 2 (n / 64) })

/-- Add BARSIG amounts to a task's barriers (R203). -/
def addBars (s : State) (k : Nat) (bs : List (Nat × Nat)) : State :=
  setTask s k (fun x => { x with bars := bs.foldl (fun l b => tPut l b.1 ((tGet l b.1).getD 0 + b.2)) x.bars })

/-- A stage commit's effects on memory and the task (R194). -/
def stagePublish (s : State) (t : Nat) (c : Cmd) : State :=
  let s0 := countCommit (publish s c.part (t / 8) [t] (copyBytes c)) (t / 8) (copyBytes c)
  let s1 := addBars s0 c.task c.barsig
  setTask s1 c.task (fun x => { x with holds := x.holds ++ c.holds, signals := x.signals ++ c.semsig,
                                       drift := x.drift ++ c.drift })

/-- The flag record of a committed command (R67, R218), its count and the longest commit phase, whose cycles the manual
bounds only (R197, R220): a free value. -/
def recordFlags (s : State) (t : Nat) (f : BitVec 8) : State :=
  let (n, s1) := takeFree s
  tleAdd (setTile s1 t (fun x => { x with
    flagSticky := x.flagSticky ||| f, flagLast := f, commitMax := max x.commitMax (min (Config.freeNat n) 65535) })) t 0 1

/-- When the window of a job on a tile that ends next ends by the table, in device time (R436). -/
def nextEnd (x : Part) (j t now : Nat) : Nat :=
  x.table.elim 0 (fun tab =>
    let per := 1000 * tab.period
    let o := (now - x.periodStart) % per
    let ws := (tab.wins.filter (fun w => w.job = j && bitAt w.mask t)).map (fun w => 1000 * (w.start + w.len))
    now - o + ws.foldl (fun m e => min m (if o < e then e else e + per)) (2 * per))

/-- The next window of a job on a tile whose commit phase a window end reached ends earlier by the overrun (R445). -/
def oweOverrun (s : State) (p j t : Nat) : State :=
  match tGet (getPart s p).debits t with
  | none => s
  | some e => setPart s p (fun x => { x with
      debits := tDel x.debits t
      owed := { tile := t, job := j, ns := now s - e, till := nextEnd x j t (now s) }
        :: x.owed.filter (fun o => decide (now s < o.till) && !(o.tile = t && o.job = j)) })

/-- The end of a commit phase on its tiles: the overrun, when a window end reached it, is counted once (R445). -/
def debitOverrun (s : State) (p j : Nat) (ts : List Nat) : State :=
  let n := ((ts.findSome? (tGet (getPart s p).debits)).map (now s - ·)).getD 0
  forAll (mgtAdd s p 1 n) ts (fun s t => oweOverrun s p j t)

/-- Kill a tile's command; one in its stage commit runs to its end first, and counts as committed (R67, R195, R199). `ix` is the
counter: 1 KILLED, 2 ABORTED. -/
def killCmd (s : State) (t ix : Nat) : State :=
  match getCmd s t with
  | none => s
  | some c =>
    if committing c then
      dropCmd (setCmd (recordFlags (stagePublish (debitOverrun s c.part c.job [t]) t c) t (getTile s t).eng.flags) t
        (fun c => { c with holds := [] })) t
    else dropCmd (tleAdd s t ix 1) t

/-- The tiles that run a command of a task, a job. -/
def taskTiles (s : State) (k : Nat) : List Nat :=
  (List.range 96).filter (fun t => match getCmd s t with | some c => c.task = k | none => false)

def jobTiles (s : State) (j : Nat) : List Nat :=
  (List.range 96).filter (fun t => match getCmd s t with | some c => c.job = j | none => false)

/-- Release what a task holds beside its running commands: pending holds, and the finished commands' holds and rings. -/
def releaseTask (s : State) (k : Nat) : State :=
  match getTask s k with
  | none => s
  | some x =>
    let s1 := releaseHolds s x.job (x.holds ++ x.finals.flatMap (fun f => f.2.holds))
    let s2 := forAll s1 (x.finals.map Prod.fst) (fun s t => releaseRings s x.job t)
    setTask s2 k (fun y => { y with finals := [], holds := [], signals := [], drift := [] })

/-- The commands of earlier roles that wait with their task's last ones end with them (R223, R433): one for each final whose tile
has gone on to another role. -/
def countFinals (s : State) (k ix : Nat) : State :=
  match getTask s k with
  | none => s
  | some x => forAll s (List.range 96) (fun s t =>
      tleAdd s t ix ((x.finals.filter (fun f => f.1 = t)).length
        - b2n ((getCmd s t).any (fun c => c.task = k && waitsCommit c && !isChecking c))))

/-- Kill every command of a task. -/
def killTask (s : State) (k ix : Nat) : State := forAll (countFinals s k ix) (taskTiles s k) (fun s t => killCmd s t ix)

/-! ## Teardown (R450, R451) -/

/-- JOB_TEARDOWN and PARTITION_FAULT: aborts counted, and the SEQ of the event that caused it. -/
def tearDetail (aborts seq : Nat) : List Byte := leBytes 4 aborts ++ leBytes 4 seq

/-- Post an event to a partition's queue and the device-wide queue. -/
def postBoth (s : State) (p : Nat) (e : Event) : State := postDev (postPart s p e) e

/-- F of R306 and R327: the job's SPARE, which is the image's ROWMAX (R263). -/
def spareOf (j : Job) : Nat := j.decl.elim j.hdr.rowmax (·.spare)

/-- Bytes of the completion queue, 2 × F × 12 records of 32 (R306), and of a cluster's replay buffer, 2 × F row records of 64
(R327). -/
def queueBytes (f : Nat) : Nat := 2 * f * 12 * 32
def replayBytes (f : Nat) : Nat := 2 * f * 64

/-- Ranges of the job in Caldera, HBM and host regions: the frames, the placed sections, the slots, the completion queue, the
replay buffers, the KV pools, staging and tables. -/
def jobRanges (j : Job) : List (Nat × Nat) :=
  j.share.map (fun t => (calAddr t j.base, j.hdr.frame)) ++ j.placed.map (fun p => (p.addr, p.len))
    ++ j.pools.flatMap (fun e => e.2.slots.map (fun a => (a, slotBytes j)))
    ++ (j.queueAt, queueBytes (spareOf j)) :: j.replayAt.map (fun e => (e.2, replayBytes (spareOf j))) ++ j.kv.elim [] kvRanges

/-- Entries of a placement map that cover a released range go, and so do moves of it. -/
def dropPlaced (s : State) (rs : List (Nat × Nat)) : State :=
  { s with
    geys := s.geys.map (fun g => { g with
      place := g.place.filter (fun e => !rs.any (fun r => overlap e.base (2 ^ e.k) r.1 r.2)) })
    moves := s.moves.filter (fun m => !rs.any (fun r => overlap m.base (2 ^ m.k) r.1 r.2)) }

/-- Zero the device side of a job's ranges; a host range is released. -/
def zeroRanges (s : State) (rs : List (Nat × Nat)) : State :=
  forAll s rs (fun s r => if isHost r.1 then s else devZero s r.1 r.2)

/-- End one stream of a job that is torn down (R330): the chunk in flight ABORTED, every queued chunk DROPPED with cause
0x06; the stream is FAULTED. -/
def faultStream (s : State) (i : Nat) : State :=
  match getStream s i with
  | none => s
  | some st =>
    let s1 := if st.state = .waiting then endHead s i chAborted 0 else s
    let s2 := endQueued s1 i 6 false
    let s3 := setStream (notRun s2 i) i (fun x => { x with
      state := .faulted, kvw := none, pclose := x.pclose || x.state = .closing, ppause := false, ppreempt := false })
    let s4 := completeWaiters s3 (fun w => w.what = .pause i) stOk (stCode .faulted) 0
    let s5 := completeWaiters s4 (fun w => w.what = .close i) stOk (stCode .faulted) 0
    completeWaiters s5 (fun w => w.what = .kvOut i || (match w.what with | .kvIn k _ => k = i | _ => false)) stFaulted 0 0

/-- Streams of a job. -/
def jobStreams (s : State) (j : Nat) : List Nat := (s.streams.filter (fun e => e.2.job = j)).map Prod.fst

/-- Does a command wait for a job's tables? -/
def tableWaits (j : Nat) (w : Waiter) : Bool :=
  match w.what with
  | .tableLoad _ k _ _ _ => k = j
  | .bias k _ _ _ => k = j
  | .tableQueued _ _ k _ _ _ _ => k = j
  | _ => false

/-- RESULT and DETAIL of a TABLE_LOAD that has loaded nothing: no slot, and whether a retire took effect (R167, R345). -/
def noTable : WaitFor → Nat × Nat
  | .tableLoad _ _ _ _ retired => (0xFFFFFFFF, b2n retired)
  | .tableQueued _ kind _ _ _ _ _ => (if kind = 3 then 0 else 0xFFFFFFFF, 0)
  | _ => (0, 0)

/-- The commands that wait for a job's tables end with NOT_FOUND (R167). -/
def endTables (s : State) (j : Nat) : State :=
  let ws := s.waiters.filter (tableWaits j)
  forAll { s with waiters := s.waiters.filter (fun w => !tableWaits j w) } ws
    (fun s w => dciComplete s w.fn w.tag stNotFound (noTable w.what).1 (noTable w.what).2)

def emptySlot : DecSlot := { cond := .empty, gen := 0, table := List.replicate 16 0, order := 0 }

/-- Tear a job down, in the order of R451. -/
def teardown (s : State) (j cause seq : Nat) : State :=
  match getJob s j with
  | none => s
  | some x =>
    if x.state = .tornDown then s
    else
      let p := x.part
      let ks := (s.tasks.filter (fun e => e.2.job = j)).map Prod.fst
      let s1 := forAll (forAll s ks (fun s k => countFinals s k 1)) (jobTiles s j) (fun s t => killCmd s t 1)
      let s2 := { s1 with tasks := s1.tasks.filter (fun e => !ks.elem e.1) }
      let s3 := forAll s2 (jobStreams s2 j) (fun s i => faultStream s i)
      let s4 := endTables (dropPlaced (zeroRanges s3 (jobRanges x)) (jobRanges x)) j
      let s5 := setJob (dropSwaps s4 j none) j (fun y => { y with
        state := .tornDown, share := [], sems := [], kv := none, pools := [], placed := [], progs := [],
        quince := [emptySlot, emptySlot], sloe := [emptySlot, emptySlot] })
      postBoth (idleSwitch (mgtAdd s5 p 3 1) p) p
        { mkEvent 0x07 p 0x04 j with job := j, cause := cause, detail := tearDetail x.abortTimes.length seq }

/-! ## Configuration fields that wait (R210 to R212, R447, R565) -/

/-- Is none of a partition's tasks built or executing? -/
def partQuiet (s : State) (p : Nat) : Bool :=
  !s.tasks.any (fun e => (e.2.state = .built || e.2.state = .executing)
    && (getJob s e.2.job).any (fun j => j.part = p))

/-- A new quota: the unused part changes with it (R331, R422). -/
def withQuota (x : Part) (q : Nat) : Part := { x with quota := q, entFree := x.entFree + q - x.quota }

/-- The job-wide fields of a partition's current set become live: DEPTH, DROP_LATE, QUOTA. What waits in ORC_CTRL goes on waiting for its
scheduling step (R332). -/
def applyJobWide (s : State) (p : Nat) : State :=
  match curSet s p with
  | none => s
  | some c =>
    let s1 := setPart s p (fun x => { withQuota x c.quota with
      storedQuota := if x.stored then c.quota else x.storedQuota, dropLate := c.dropLate })
    { s1 with jobs := s1.jobs.map (fun e =>
        if e.2.part = p then (e.1, { e.2 with depth := (tGet c.depth e.1).getD e.2.hdr.depth }) else e) }

/-- Write the tile fields of a set to one tile: at once while it is idle, else pending (R210, R212). -/
def writeTileCfg (c : CfgSet) (x : Tile) : Tile :=
  if x.cmd.isSome then { x with pendWdogExp := some c.wdogExp, pendMxe := some (c.chkEn, c.chkSlack) }
  else { x with wdogExp := c.wdogExp, chkEn := c.chkEn, chkSlack := c.chkSlack, pendWdogExp := none, pendMxe := none }

/-- Does a cluster's engine serve a command: a tile of the cluster runs one? -/
def clusterBusy (s : State) (n : Nat) : Bool := (List.range 8).any (fun i => (getTile s (8 * n + i)).cmd.isSome)

/-- Write the tile and Geyser fields of a set to a slice. -/
def writeSliceCfg (s : State) (n : Nat) (c : CfgSet) : State :=
  let s1 := forAll s (List.range 8) (fun s i => setTile s (8 * n + i) (writeTileCfg c))
  setGey s1 n (fun g => if clusterBusy s n then { g with pend := some (c.mergeWait, c.bgSlack) }
    else { g with mergeWait := c.mergeWait, bgSlack := c.bgSlack, pend := none })

/-- Write the fields of a partition's current set to slices of it. -/
def writeCfg (s : State) (p : Nat) (ns : List Nat) : State :=
  match curSet s p with
  | some c => forAll s ns (fun s n => writeSliceCfg s n c)
  | none => s

/-- Has every tile and engine of a partition its fields live? -/
def fieldsLive (s : State) (p : Nat) : Bool :=
  (List.range 12).all (fun n => !bitAt (getPart s p).slices n
    || ((getGey s n).pend.isNone && ((List.range 8).all (fun i =>
      let t := getTile s (8 * n + i)
      t.pendWdogExp.isNone && t.pendMxe.isNone))))

/-- Carry a waiting CFG_COMMIT or CFG_REVERT on: its job-wide fields at a point where the partition is quiet; it completes
when the last field is live. -/
def settleWaiter (s : State) (w : Waiter) : State :=
  match w.what with
  | .cfg p v wide =>
    if wide && !partQuiet s p then s
    else
      let s1 := if wide then applyJobWide s p else s
      if fieldsLive s1 p then completeWaiters s1 (fun x => x = w) stOk v 0
      else { s1 with waiters := s1.waiters.map (fun x => if x = w then { x with what := .cfg p v false } else x) }
  | _ => s

def settleCfg (s : State) : State := forAll s s.waiters settleWaiter

/-! ## Partition fault (R456) -/

/-- Fault a partition: the event, every job torn down with cause 0x04, SCHED_EN cleared. -/
def partFault (s : State) (p cause seq : Nat) : State :=
  if (getPart s p).state = .none || (getPart s p).state = .faulted then s
  else
    let s1 := postBoth s p { mkEvent 0x08 p 0x07 p with
      cause := cause, detail := tearDetail ((getPart s p).mgtCnt.getD 2 0) seq }
    let sq := (partSeq s p).getD 0
    let s2 := forAll s1 ((partJobs s1 p).map Prod.fst) (fun s j => teardown s j 4 sq)
    settleCfg (setPart s2 p (fun x => { x with
      state := .faulted, schedEn := false, pendOrc := x.pendOrc.map (fun e => (false, e.2)) }))

/-! ## Withdrawn tiles (R653, R654) -/

/-- A tile that is to be withdrawn and runs no command is withdrawn. -/
def boundary (t : Tile) : Tile :=
  if t.withdrawNext && t.cmd.isNone then { t with withdrawn := true, withdrawNext := false } else t

/-- A live job whose share has no tile in service on some cluster of it. -/
def unserved (s : State) (j : Job) : Bool :=
  j.state ≠ .tornDown && (shareClusters j).any (fun c => (serviceOn s j c).isEmpty)

/-- Withdraw idle tiles, and tear down each job that is left without a tile on a cluster (cause 0x03). -/
def settleN (s : State) : Nat → State
  | 0 => s
  | n + 1 =>
    let s1 := { s with tiles := s.tiles.map boundary }
    match s1.jobs.find? (fun e => unserved s1 e.2) with
    | some e => settleN (teardown s1 e.1 3 0) n
    | none => s1

/-! ## Full and reduced service (R611, R630 to R633, R655) -/

/-- Is a task built, executing or suspended on a cluster? A suspended one goes on with the programs it began with (R367). -/
def clusterTasked (s : State) (c : Nat) : Bool := s.tasks.any (fun e => e.2.cluster = c && e.2.state ≠ .replayDue)

/-- Tiles of a cluster. -/
def clusterTiles (s : State) (c : Nat) : List Tile := (List.range 8).map (fun i => getTile s (8 * c + i))

/-- Set or clear bit c of a die's CSEL. -/
def cselPut (d : Die) (c : Nat) (on : Bool) : Die :=
  { d with csel := d.csel - b2n (bitAt d.csel c) * 2 ^ c + b2n on * 2 ^ c }

/-- Is a PLL locked? -/
def isLocked (c : ClkSt) : Pll → Bool
  | .coreA d => (if d = 0 then c.die0 else c.die1).getD 0 false
  | .coreB d => (if d = 0 then c.die0 else c.die1).getD 1 false
  | .fab d => (if d = 0 then c.die0 else c.die1).getD 2 false
  | .xfab => c.xfabLock
  | .hbm n => c.hbm.getD n false
  | .management => c.mgtLock
  | .audio => c.audLock
  | .cxl => c.cxlLock

/-- Is a cluster to serve in full service: it has passed phase 2, runs none of it now, and its die's CORE_A serves (R632, R655)? -/
def wantsFull (s : State) (c : Nat) : Bool :=
  !(getDie s (c / 6)).coreLost && !(getGey s c).phase2 && (clusterTiles s c).any (·.phase2)

/-- A cluster without a task takes the mode it is to serve in; the PLL that its core clock goes to is locked, and so is the one that it
leaves unless it has lost lock. A core clock is not lowered below the fabric of its die (R610, R611, R655). -/
def settleMode (s : State) (c : Nat) : State :=
  let d := c / 6
  let want := wantsFull s c
  if clusterTasked s c || !isLocked s.clk (.coreB d) || (want && !isLocked s.clk (.coreA d)) then s
  else
    let s1 := setGey s c (fun g => { g with full := want })
    if bitAt (getDie s d).csel (c % 6) = want || (!want && (getDie s d).fsel) then s1
    else setDie s1 d (fun x => cselPut x (c % 6) want)

/-- Is a die's fabric to run at full rate: every cluster online is in full service, and its PLLs are locked? -/
def fabricUp (s : State) (d : Nat) : Bool :=
  let cs := ((List.range 6).map (6 * d + ·)).filter (fun c => (getSlice s c).online)
  !(getDie s d).coreLost && !cs.isEmpty && cs.all (fun c => (getGey s c).full)
    && isLocked s.clk (.coreA d) && isLocked s.clk (.coreB d) && isLocked s.clk (.fab d)

/-- A die's fabric and Fumarole go to full rate: the core clock of every cluster is raised before, of those too that are not online (R610,
R611). -/
def raiseFabric (s : State) (d : Nat) : State :=
  if fabricUp s d then setDie s d (fun x => { x with csel := 63, fsel := true, fumsel := true }) else s

/-- A die's fabric and Fumarole go to CORE_B, before any core clock does: no cluster is online, or one leaves full service (R611). -/
def lowerFabric (s : State) (d : Nat) : State :=
  let cs := ((List.range 6).map (6 * d + ·)).filter (fun c => (getSlice s c).online)
  let keep := !(getDie s d).coreLost && !cs.isEmpty && cs.all (fun c => (getGey s c).full && (wantsFull s c || clusterTasked s c))
  if keep || !isLocked s.clk (.coreB d) then s else setDie s d (fun x => { x with fsel := false, fumsel := false })

/-- May phase 2 of a cluster start: it is online in reduced service, its phase 1 is over, and no task is on it? -/
def phase2Ready (s : State) (c : Nat) : Bool :=
  let ts := clusterTiles s c
  (getSlice s c).online && !(getGey s c).full && !clusterTasked s c && ts.all (fun x => x.phase1 || x.failed)
    && ts.any (fun x => x.phase1 && !x.failed) && ts.all (fun x => !x.phase2)

/-- Phase 2 starts on the lowest cluster of a die that is ready, one at a time, once every stack of the die has been
trained. -/
def startPhase2 (s : State) (d : Nat) : State :=
  let cs := (List.range 6).map (6 * d + ·)
  if (getDie s d).coreLost || !tyraxUp s || cs.any (fun c => (getGey s c).phase2)
      || !cs.all (fun c => (getSlice s c).trained || (getSlice s c).bad) then s
  else match cs.find? (phase2Ready s) with
    | some c => setGey s c (fun g => { g with phase2 := true })
    | none => s

def settleModes (s : State) : State :=
  let s1 := forAll (forAll s (List.range 2) lowerFabric) (List.range 12) settleMode
  forAll (forAll s1 (List.range 2) raiseFabric) (List.range 2) startPhase2

/-- What follows when commands or tasks end: withdrawals, configuration fields whose point has come, modes of service. -/
def settle (s : State) : State := settleModes (settleCfg (settleN s (s.jobs.length + 1)))

/-- Withdraw a tile by escalation: at its next command boundary, until a module reset. -/
def withdrawTile (s : State) (t : Nat) : State :=
  settle (setTile s t (fun x => if x.withdrawn then { x with failed := true } else { x with withdrawNext := true, failed := true }))

/-! ## A slice taken offline (R452, R654) -/

/-- Take a slice offline: it leaves its partition, whose quota shrinks by the slice's share, and the jobs with tiles there
are torn down on every cluster. A KV job that goes on loses the slice's pool: no page is placed there any more, its totals shrink, and its
pages there stay counted in references only, for their stack is not read again. -/
def sliceOffline (s : State) (n seq : Nat) : State :=
  let s1 := setSlice s n (fun x => { x with online := false, keySlot := none, bad := true })
  match partOfSlice s n with
  | none => s1
  | some p =>
    let s2 := setPart s1 p (fun x => withTags { withQuota x (x.quota - 5456) with slices := x.slices - 2 ^ n })
    let js := (partJobs s2 p).filter (fun e => e.2.share.any (fun t => t / 8 = n))
    let s3 := forAll s2 (js.map Prod.fst) (fun s j => teardown s j 5 seq)
    settle (forAll s3 ((partJobs s3 p).map Prod.fst) (fun s j => setJob s j (fun x => { x with
      kv := x.kv.map (fun k => { k with lost := setIns k.lost n }) })))

/-! ## Escalation (R664, R669, R670) -/

/-- What a second error of a class does to its unit. -/
def escalate (s : State) (seq : Nat) (c : ErrClass × Nat) : State :=
  match c.1 with
  | .caldera => withdrawTile s c.2
  | .engine => withdrawTile s c.2
  | .hbm => sliceOffline s c.2 seq
  | .jobData => teardown s c.2 3 seq

/-- The function whose queue acknowledges a class: the physical function, or the virtual function of partition p. -/
def ackFn (c : ErrClass) (p : Option Nat) : Nat := match c, p with | .jobData, some p => p + 1 | _, _ => 0

/-- Post an error's event and count it in its classes, in table order; a class that already has an error outstanding on
the unit escalates the unit. `dev` also posts to the device-wide queue. -/
def raiseErr (s : State) (cs : List (ErrClass × Nat)) (dev : Bool) (p : Option Nat) (e : Event) : State :=
  let out := cs.filter (fun c => errOut s c.1 c.2)
  let e1 := if out.isEmpty then e else { e with flags := e.flags ||| 1 }
  let ds := devSeq s e.cls
  let ps := p.bind (partSeq s)
  let s1 := match p with | some p => postPart s p e1 | none => s
  let s2 := if dev then postDev s1 e1 else s1
  let s3 := forAll s2 cs (fun s c => addErr s c.1 c.2 (ackFn c.1 p) (if ackFn c.1 p = 0 then ds else ps))
  forAll s3 out (fun s c => escalate s (ps.getD 0) c)

/-- Is an address in a job's committed space: its frames outside WORK, its sections, slots and KV frames (R190, R669)? -/
def jobCommitted (s : State) (j : Job) (a : Nat) : Bool :=
  (jobRanges j).any (fun r => decide (r.1 ≤ a) && decide (a < r.1 + r.2))
    && !(j.share.any (fun t => inWork s t a))

/-- The escalation classes of an error at an address, for a job that read it. -/
def errClasses (s : State) (cause a t j : Nat) : List (ErrClass × Nat) :=
  let job := match getJob s j with
    | some x => if jobCommitted s x a then [(ErrClass.jobData, j)] else []
    | none => []
  if cause = 0x20 then (match placeOf a with | .hbm n _ => [(ErrClass.hbm, n)] | _ => []) ++ job
  else if cause = 0x21 || cause = 0x70 then
    (match placeOf a with | .caldera x _ => [(ErrClass.caldera, x)] | _ => [(ErrClass.caldera, t)]) ++ job
  else if cause = 0x71 then [(ErrClass.engine, t)]
  else []

/-! ## Task abort (R199, R200, R328, R329, R449) -/

/-- TLE_ABORT holds the first abort since VALID was cleared (R219). -/
def recordAbort (s : State) (t cause pc k : Nat) : State :=
  setTile s t (fun x => if x.abort.valid then x
    else { x with abort := { valid := true, cause := cause, aux := pc, task := k } })

/-- Where an abort happened: its cause, tile, instruction, HALT code and failing address. -/
structure AbortAt where
  cause : Nat
  tile : Nat
  pc : Nat
  halt : Nat
  addr : Nat
  deriving DecidableEq, Repr

/-- Rows of an aborted task: those replayed keep their place, the others end (R328, R329). -/
def replayRow (s : State) (r : Row) : Bool :=
  match getStream s r.stream with
  | some st => decide (st.replays < 2)
  | none => false

/-- The aborted task's rows: REPLAYS counts, assigned slots are freed, chunks past their second replay end ABORTED; the
task waits as a replay task, or is gone when no row is left or its job no longer runs. -/
def endRows (s : State) (k : Nat) (x : Task) (go : Bool) : State :=
  let keep := x.rows.filter (fun r => go && replayRow s r)
  let gone := x.rows.filter (fun r => !(go && replayRow s r))
  let s1 := forAll s keep (fun s r => setStream (freeSlot s x.job x.cluster r.assigned) r.stream
    (fun st => { st with replays := st.replays + 1 }))
  let s2 := forAll s1 gone (fun s r => rowAbort s x.job r)
  if keep.isEmpty then { s2 with tasks := tDel s2.tasks k }
  else setTask s2 k (fun y => { y with
    state := .replayDue, rows := keep.map (fun r => { r with assigned := 0, experts := 0 }), pos := [], finals := [], bars := [],
    sites := [], kills := 0, streak := 0, killedAt := 0 })

/-- The job's aborts in device time: is this the third within one second (R449)? -/
def thirdAbort (ts : List Nat) : Bool :=
  match ts.reverse with
  | c :: _ :: a :: _ => decide (c - a ≤ 1000000000)
  | _ => false

/-- Abort a task: nothing is published; its commands end, its holds are released, its rows are replayed or end, the abort is
recorded, posted and counted, and the job is torn down for an isolation violation or its third abort in a second. -/
def abortTask (s : State) (k : Nat) (a : AbortAt) : State :=
  match getTask s k with
  | none => s
  | some x => match getJob s x.job with
    | none => s
    | some j =>
      let s1 := releaseTask (killTask (recordAbort s a.tile a.cause a.pc k) k 2) k
      let e := { mkEvent 0x06 j.part 0x01 a.tile with
        job := x.job, task := k, cause := a.cause, detail := leBytes 2 a.pc ++ leBytes 2 a.halt ++ leBytes 8 a.addr }
      let s2 := mgtAdd (setJob s1 x.job (fun y => { y with abortTimes := y.abortTimes ++ [now s1] })) j.part 2 1
      let cs := errClasses s a.cause a.addr a.tile x.job
      let go := j.state = .running && a.cause ≠ 0x1F
      let s3 := endRows s2 k x go
      let seq := (partSeq s3 j.part).getD 0
      let s4 := raiseErr s3 cs (!cs.isEmpty || a.cause = 0x20 || a.cause = 0x21 || a.cause = 0x70 || a.cause = 0x71)
        (some j.part) e
      let s5 := if a.cause = 0x1F then teardown s4 x.job 2 seq
        else if thirdAbort ((getJob s4 x.job).elim [] (·.abortTimes)) then teardown s4 x.job 1 seq
        else s4
      settle s5

end Sys2Proof.Machine
end

