-- ==== Sys2Proof/Machine/MoveOps.lean ====
section
/-! DEFINITION. What an engine reads where data is now, what it reports when it cannot, and moves of ranges between levels (R174, R175,
R229, R230, R248, R251, R253). -/

namespace Sys2Proof.Machine

/-! ## Reads through the map -/

/-- What keeps the engine of a cluster from reading a byte where it is now: an uncorrectable word of it or of its coded unit, by
address, or a unit that does not decode (R174, R175, R250). -/
def byteFault (s : State) (cl p a : Nat) : Option (Nat × Nat) :=
  match placeFind (getGey s cl) a with
  | some e =>
    if e.coded then
      let rs := funcRegions s (p + 1)
      let u := (a - e.base) / 4096
      match unitBad s rs e u with
      | some x => some (0, x)
      | none => match unitAt s rs e u with
        | .ok _ => none
        | .error k => some (k % 256, a)
    else if isBad s (e.dest + (a - e.base)) then some (0, e.dest + (a - e.base)) else none
  | none => if isBad s a then some (0, a) else none

/-- The first of a range's bytes that cannot be read where it is now: a word of it (cause 0) or a coded unit. -/
def rangeFault (s : State) (cl p base n : Nat) : Option (Nat × Nat) := (addrs base n).findSome? (byteFault s cl p)

/-- The bytes of a range where it is now, as the engine of a cluster reads them; `none` when a word or a coded unit of it
cannot be read. -/
def rangeBytes (s : State) (cl p base n : Nat) : Option (List Byte) :=
  if (rangeFault s cl p base n).isSome then none else some ((addrs base n).map (baseByte s cl p))

/-! ## Bytes on a path (R174, R253) -/

/-- The coded units of a redirected range that a read of n bytes reads whole: their entry and number. -/
def unitsRead (s : State) (cl a n : Nat) : List (PlaceEnt × Nat) :=
  ((addrs a n).filterMap (fun x => (placeFind (getGey s cl) x).bind (fun e => if e.coded then some (e, (x - e.base) / 4096) else none))).eraseDups

/-- Bytes that cross the path at the source when a range is read where it is now: of a coded unit its header and its body. -/
def pathBytes (s : State) (cl p a n : Nat) : Nat :=
  ((addrs a n).filter (fun x => !(placeFind (getGey s cl) x).any (·.coded))).length
    + ((unitsRead s cl a n).map (fun e => 16 + gcBodyLen (dpaRead s (funcRegions s (p + 1)) (unitHdr e.1 e.2) 16))).sum

/-- Bytes that its codec keeps off the path. -/
def pathSaved (s : State) (cl p a n : Nat) : Nat :=
  ((unitsRead s cl a n).map (fun e => 4096 - (16 + gcBodyLen (dpaRead s (funcRegions s (p + 1)) (unitHdr e.1 e.2) 16)))).sum

/-- Is a stack's HBM traffic held (R599)? -/
def stackHeld (s : State) (a : Nat) : Bool := match placeOf a with | .hbm n _ => (getGey s n).held | _ => false

/-- A word that a read found uncorrectable stays bad until it is written (R650). -/
def noteBad (s : State) (a : Nat) : State :=
  if isHost a then s else { s with badWords := setIns s.badWords (codeWord a) }

/-! ## UNCORRECTED (R649, R664, R669) -/

/-- DETAIL of UNCORRECTED (R666); the syndrome is what the reader found. -/
def uncorrectedDetail (a syndrome source : Nat) : List Byte := leBytes 8 a ++ leBytes 4 syndrome ++ leBytes 1 source

/-- The jobs whose committed space holds an address, as classes of R669. -/
def dataClasses (s : State) (a : Nat) : List (ErrClass × Nat) :=
  (s.jobs.filter (fun e => e.2.state ≠ .tornDown && jobCommitted s e.2 a)).map (fun e => (ErrClass.jobData, e.1))

/-- An uncorrectable word met by queue 42, queue 43 or a scrub: UNCORRECTED, counted in its classes (R649, R664, R669). -/
def raiseUncorrected (s : State) (a syndrome source : Nat) : State :=
  let s1 := noteBad s a
  match placeOf a with
  | .hbm n _ => raiseErr s1 ((.hbm, n) :: dataClasses s1 a) true (partOfSlice s n)
      { mkEvent 0x0D ((partOfSlice s n).getD 0xF0) 0x03 n with detail := uncorrectedDetail a syndrome source }
  | .caldera t _ => raiseErr s1 ((.caldera, t) :: dataClasses s1 a) true (partOfSlice s (t / 8))
      { mkEvent 0x0D ((partOfSlice s (t / 8)).getD 0xF0) 0x01 t with detail := uncorrectedDetail a syndrome source }
  | _ => s1

/-! ## Moves (R230, R248) -/

/-- The clusters of a partition. -/
def partClusters (s : State) (p : Nat) : List Nat := (List.range 12).filter (bitAt (getPart s p).slices)

/-- Does a partition run no command? -/
def partIdle (s : State) (p : Nat) : Bool :=
  (List.range 96).all (fun t => match getCmd s t with | some c => c.part ≠ p | none => true)

/-- The map with a range redirected: entries within it go; a range back at its own place needs none. -/
def placeSet (l : List PlaceEnt) (base k dest : Nat) (coded : Bool) : List PlaceEnt :=
  let l1 := l.filter (fun e => !inside e.base (2 ^ e.k) base (2 ^ k))
  if dest = base && !coded then l1 else l1 ++ [{ base := base, k := k, dest := dest, coded := coded }]

/-- Has every engine of the partition room for the entry of a redirected range? -/
def mapRoom (s : State) (p base k dest : Nat) (coded : Bool) : Bool :=
  (partClusters s p).all (fun c => decide ((placeSet (getGey s c).place base k dest coded).length ≤ 1024))

/-- The element size of the buffer at an address as ESIZE (R171, R248): that of the state tensor whose slot holds it, 1 B for FP8 and
INT8, 2 B for BF16 and FP16, 4 B otherwise; of other buffers the manual does not say where the size stands, a free value. -/
def bufEsize (s : State) (p a free : Nat) : Nat :=
  let size (w : Nat) : Nat := if w = 8 then 0 else if w = 16 then 1 else 2
  ((partJobs s p).findSome? (fun e => (e.2.pools.flatMap (fun q => q.2.slots)).findSome? (fun o =>
    if decide (o ≤ a) && decide (a < o + slotBytes e.2) then
      (e.2.decl.bind (fun d => d.tensors.find? (fun x =>
        decide (o + x.offset ≤ a) && decide (a < o + x.offset + x.count * fmtBits x.fmt / 8)))).map (fun x => size (fmtBits x.fmt))
    else none))).getD (free % 3)

/-- What keeps 4 KiB units of a move from being copied: the error that the copy meets at an offset, a function that may not use host memory
(R505), a word (cause 0) or a coded unit that cannot be read. -/
def moveFault (s : State) (m : Move) (us : List Nat) (err : Option Nat) : Option (Nat × Nat) :=
  let here (o : Nat) : Nat := placedAt s m.cluster (m.base + o)
  match err with
  | some o => some (if isHost (here o) then 0x22 else 0, here o)
  | none =>
    if (isHost m.dest || us.any (fun u => isHost (here (4096 * u)))) && !hostReadOk s (m.part + 1) then some (0x22, m.dest)
    else us.findSome? (fun u => rangeFault s m.cluster m.part (m.base + 4096 * u) 4096)

/-- Copy units of a move to the new place; their bytes count at the engine that moves them (R253). -/
def copyUnits (s : State) (m : Move) (us : List Nat) : State :=
  let (n, s0) := takeFree s
  let raw (u : Nat) : List Byte := (addrs (m.base + 4096 * u) 4096).map (baseByte s m.cluster m.part)
  let esz (u : Nat) : Nat := bufEsize s m.part (m.base + 4096 * u) (Config.freeNat n)
  let put (s : State) (u : Nat) : State :=
    if m.coded then putUnit s (m.part + 1) { base := m.base, k := m.k, dest := m.dest, coded := true } u (esz u) (raw u)
    else dpaPut s (m.part + 1) (m.dest + 4096 * u) (raw u)
  let rd := (us.map (fun u => pathBytes s m.cluster m.part (m.base + 4096 * u) 4096)).sum
  let wr := (us.map (fun u => if m.coded then 16 + (gcEncode (esz u) (raw u)).2.length else 4096)).sum
  let kept := (us.map (fun u => pathSaved s m.cluster m.part (m.base + 4096 * u) 4096)).sum
  geyAdd (geyAdd (geyAdd (geyAdd (forAll s0 us put) m.cluster 0 rd) m.cluster 1 wr) m.cluster 2 (2 * cdiv (4096 * us.length) 0x10000))
    m.cluster 5 (kept + (4096 * us.length - wr))

/-- A fault on queue 42: the buffer stays where it was. A word that cannot be read is reported with its event, which the log keeps; Tyrax
logs any other fault with a code that the manual does not number (R251, R258, R582). -/
def spillFault (s : State) (cluster p : Nat) (f : Nat × Nat) : State :=
  let (n, s0) := takeFree s
  if f.1 = 0 then raiseUncorrected (noteFault s0 cluster (badCause 0xFF f.2) 42 0) f.2 (Config.freeNat n % 2 ^ 32) 3
  else noteFault (logAdd s (mkLog 0x02 0xFE p (Config.kindCode 6 % 65536) cluster)) cluster f.1 42 0

/-- Switch the entry of a moved range in every engine of the partition (R229). -/
def switchEntry (s : State) (m : Move) : State :=
  forAll s (partClusters s m.part) (fun s c => setGey s c (fun g => { g with place := placeSet g.place m.base m.k m.dest m.coded }))

/-- At a command boundary of the partition a move copies again what commits have written, and its entry switches (R230); on a fault, or
without an entry that is free any more, the buffer stays where it was. -/
def finishMove (s : State) (m : Move) : State :=
  let s0 := { s with moves := s.moves.filter (· ≠ m) }
  match moveFault s m m.marked none with
  | some f => spillFault s0 m.cluster m.part f
  | none => if mapRoom s m.part m.base m.k m.dest m.coded then switchEntry (copyUnits s0 m m.marked) m else s0

/-- The moves of a partition that runs no command finish. -/
def finishMoves (s : State) (p : Nat) : State :=
  if partIdle s p then forAll s (s.moves.filter (fun m => m.part = p)) finishMove else s

/-- A move starts: the whole range is copied while its old place remains authoritative, and the move waits for a command boundary, which
may be now. -/
def startMove (s : State) (m : Move) : State :=
  let s1 := copyUnits s m (List.range (2 ^ m.k / 4096))
  finishMoves { s1 with moves := s1.moves ++ [m] } m.part

end Sys2Proof.Machine
end

