-- ==== Sys2Proof/Machine/CmdOps.lean ====
section
/-! DEFINITION. Commands: the start of R187 with the checks of R186 and R191, what a finished command publishes, and the way
a tile moves through the roles and stages of its task (R193 to R196, R433, R658). -/

namespace Sys2Proof.Machine

/-! ## Stage header and windows -/

/-- A stage header (R186). -/
structure StageHdr where
  entry : Nat
  ninstr : Nat
  last : Bool
  nwin : Nat
  wintab : Nat
  pairs : List (Nat × Nat)
  deriving DecidableEq, Repr

/-- The pairs of a header: base and half length in bytes from the start of WORK. -/
def hdrPairs (b : List Byte) (n : Nat) : List (Nat × Nat) :=
  (List.range n).map (fun i => (64 * leAt b (16 + 8 * i) 2, 64 * leAt b (16 + 8 * i + 2) 2))

/-- No two ranges of a list share an address. -/
def disjoint : List (Nat × Nat) → Bool
  | [] => true
  | r :: rs => rs.all (fun q => !overlap r.1 r.2 q.1 q.2) && disjoint rs

/-- Parse and check a header against its table and R186, for a WORK of `wl` bytes, a frame of `fl` bytes and the stage's
place among the stages. -/
def parseHdr (b : List Byte) (wl fl : Nat) (final : Bool) : Option StageHdr :=
  let np := leAt b 6 1
  let h : StageHdr :=
    { entry := leAt b 0 2, ninstr := leAt b 2 2, last := bitAt (leAt b 4 1) 0, nwin := leAt b 5 1,
      wintab := leAt b 8 4, pairs := hdrPairs b np }
  if decide (1 ≤ h.ninstr) && decide (h.entry + h.ninstr ≤ 16384) && decide (leAt b 4 1 < 2) && h.last = final
      && decide (h.nwin ≤ 16) && decide (np ≤ 4) && zeroAt b 7 1 && zeroAt b 12 4 && zeroAt b 48 16
      && zeroAt b (16 + 8 * np) (8 * (4 - np))
      && (List.range np).all (fun i => decide (1 ≤ leAt b (16 + 8 * i + 2) 2) && zeroAt b (16 + 8 * i + 4) 4)
      && h.pairs.all (fun p => decide (p.1 + 2 * p.2 ≤ wl)) && disjoint (h.pairs.map (fun p => (p.1, 2 * p.2)))
      && (h.nwin = 0 || (decide (h.wintab % 32 = 0) && decide (h.wintab + 32 * h.nwin ≤ fl)))
  then some h else none

/-- A window entry of 32 bytes (R191), `wa` and `wl` being WORK's address and length; `pr` the half-pairs as offsets in
WORK. -/
def parseWin (j : Job) (wa wl : Nat) (pr : List (Nat × Nat)) (b : List Byte) : Option Win :=
  let kind := leAt b 0 1
  let len := leAt b 4 4
  let home := leAt b 8 8
  let sh := leAt b 16 4
  let lw := leAt b 20 4
  if !(zeroAt b 1 3 && zeroAt b 24 8) then none
  else if kind = 1 then
    match placeOf home with
    | .caldera t o =>
      if len ≠ 0 && len % 64 = 0 && home % 64 = 0 && decide (o + len ≤ 0x400000) && j.share.elem t && sh % 64 = 0
          && decide (sh + len ≤ wl) && lw = 0 && !pr.any (fun p => overlap sh len p.1 (2 * p.2))
      then some { append := false, len := len, home := home, shadow := wa + sh, lenw := 0 } else none
    | _ => none
  else if kind = 2 then
    if len = 0 && decide (lw + 4 ≤ wl) && (match j.rings[home]? with | some r => decide (r.kind = 2) | none => false)
    then some { append := true, len := 0, home := home, shadow := 0, lenw := wa + lw } else none
  else none

/-- The rules over a whole window table (R191). -/
def winsOk (ws : List Win) : Bool :=
  let cp := ws.filter (fun w => !w.append)
  let ap := ws.filter (·.append)
  disjoint (cp.map (fun w => (w.home, w.len))) && disjoint (cp.map (fun w => (w.shadow, w.len)))
    && decide ((cp.map (·.len)).foldl (· + ·) 0 ≤ 0x40000)
    && decide ((dedup (ap.map (·.home))).length = ap.length)

/-! ## Command start (R187) -/

/-- Is the tile idle and in service? -/
def tileIdle (s : State) (t : Nat) : Bool := (getTile s t).cmd.isNone && tileInService s t

/-- The program image of a role in a task's program set, as an offset in Caldera. -/
def imageOff (j : Job) (reduced : Bool) (role : Nat) : Option Nat :=
  (j.progs.find? (fun p => p.role = role && p.reduced = reduced)).map (fun p => j.base + p.dest)

/-- WORK and the bias registers of the running job, and the shadowed fields made live at the command boundary (R187, R211,
R221, R372); the tile wakes (R617). -/
def tileBoundary (j : Job) (x : Tile) : Tile :=
  { x with
    workBase := (j.base + j.hdr.workoff) / 64
    workUnits := j.hdr.worklen / 64
    bias0 := (j.base + j.hdr.biasoff) / 64
    bias1 := (j.base + j.hdr.biasoff) / 64 + 16 * j.hdr.nbh
    nbh := j.hdr.nbh
    biasLive := j.biasLive
    wdogExp := x.pendWdogExp.getD x.wdogExp
    pendWdogExp := none
    chkEn := x.pendMxe.elim x.chkEn Prod.fst
    chkSlack := x.pendMxe.elim x.chkSlack Prod.snd
    pendMxe := none
    power := .run
    eng := Engine.reset }

/-- The bytes of a task's work list as a tile receives it (R312 to R314). -/
def rowFlags (r : Row) : Nat := b2n r.rst0 + 2 * b2n r.sr + 4 * b2n r.cont + 8 * b2n r.check + 16 * b2n r.replay

def rowBytes (j : Job) (r : Row) : List Byte :=
  let kv := match r.kvw, j.kv with | some w, some k => k.winTab / 128 + w | _, _ => 0xFFFFFFFF
  leBytes 4 r.stream ++ leBytes 4 r.len ++ leBytes 4 (r.rst.getD 0xFFFFFFFF) ++ leBytes 4 (rowFlags r)
    ++ leBytes 4 r.tile ++ leBytes 4 r.step ++ leBytes 4 (r.active / 4096) ++ leBytes 4 (r.assigned / 4096)
    ++ leBytes 4 r.chunk ++ leBytes 4 r.bytes ++ leBytes 4 kv ++ leBytes 4 r.kvlen ++ leBytes 4 (2 ^ 16 * r.exitThr)
    ++ leBytes 4 r.dline ++ leBytes 4 (r.active / 4096 / 2 ^ 32 + 2 ^ 8 * (r.assigned / 4096 / 2 ^ 32)) ++ leBytes 4 0

/-- First batch row and number of rows placed on a tile (R311). -/
def ownFirst (x : Task) (t : Nat) : Nat := (x.rows.takeWhile (fun r => r.tile ≠ t)).length
def ownCnt (x : Task) (t : Nat) : Nat := (x.rows.filter (fun r => r.tile = t)).length

/-- LIKELY: the OR of EXPHIST over the rows (R313). -/
def likely (s : State) (x : Task) : Nat := x.rows.foldl (fun n r => n ||| (getStream s r.stream).elim 0 (·.exphist)) 0

def listBytes (s : State) (k : Nat) (x : Task) (j : Job) (t : Nat) : List Byte :=
  let own := if ownCnt x t = 0 then 0 else ownFirst x t
  leBytes 4 k ++ leBytes 2 x.job ++ leBytes 2 x.cluster ++ leBytes 4 x.sched ++ leBytes 4 x.rows.length
    ++ leBytes 4 own ++ leBytes 4 (ownCnt x t) ++ leBytes 1 (b2n x.replay + 2 * b2n (x.rows.any (·.check)))
    ++ List.replicate 7 0 ++ leBytes 8 x.tstep ++ leBytes 32 (likely s x)
    ++ (List.range 8).flatMap (fun i => leBytes 2 (ownCnt x (8 * x.cluster + i))) ++ List.replicate 168 0
    ++ x.rows.flatMap (rowBytes j)

/-- Write the list of tile `ident` into a tile: the buffer of the task's parity at WLBASE (R312). -/
def writeList (s : State) (k : Nat) (x : Task) (j : Job) (ident t : Nat) : State :=
  let a := calAddr t (j.base + j.hdr.wloff + k % 2 * (256 + 64 * j.hdr.rowmax))
  devWrite s (asWrites a (listBytes s k x j ident))

/-- A COMMAND at its start: the windows, the half-pairs with half 0 in COMPUTE, credits and watchdog. -/
def newCmd (s : State) (x : Task) (j : Job) (k : Nat) (p : TilePos) (run : RunKind) (img : Nat) (h : StageHdr)
    (ws : List Win) : Cmd :=
  let tl := getTile s p.tile
  { task := k, job := x.job, part := j.part, stage := p.stage, role := p.role, ident := p.ident, image := img,
    entry := h.entry, ninstr := h.ninstr, last := h.last, phase := .start, pc := h.entry, loops := [], wins := ws,
    pairs := h.pairs.map (fun q =>
      { base := j.base + j.hdr.workoff + q.1, len := q.2, comp1 := false, swaps := [] }),
    written := [], barsig := [], semsig := [], holds := [], drift := [], refQ := x.refQ, refS := x.refS,
    chkEn := tl.chkEn, chkSlack := tl.chkSlack, wdogEnd := some (now s + 2 ^ tl.wdogExp * 1000), allow := tl.creditAllow,
    credits := 0, startTime := now s, issued := 0, wait := none,
    checked := x.rows.any (fun r => r.tile = p.ident && r.check), mismatch := none, run := run, slotWrites := [],
    kvWrites := [], appendWrites := [], lateQueues := [], work := [], old := [], queue := [],
    narrowed := [], loose := [] }

/-- Take the OUTPUT rings that a command's APPEND windows name (R191). -/
def takeRings (s : State) (j t : Nat) (ws : List Win) : State :=
  setJob s j (fun x => { x with rings := x.rings.mapIdx (fun i r =>
    if ws.any (fun w => w.append && w.home = i) then { r with holder := some t } else r) })

/-- Does another command hold a ring that a window names? -/
def ringHeld (j : Job) (ws : List Win) : Bool :=
  ws.any (fun w => w.append && (match j.rings[w.home]? with | some r => r.holder.isSome | none => false))

/-- Start the command of a tile position, or give the cause of its abort with the failing address. -/
def startCmd (s : State) (k : Nat) (x : Task) (j : Job) (p : TilePos) (run : RunKind) : Except (Nat × Nat) State :=
  let t := p.tile
  let s1 := setTile s t (tileBoundary j)
  let wl := j.hdr.worklen
  let chk := match run with | .check _ => true | .third _ _ => true | _ => false
  match imageOff j x.reduced p.role with
  | none => .error (0x17, 0)
  | some img =>
    let ha := calAddr t (img + 64 * p.stage)
    if (addrs ha 64).any (isBad s1) then .error (0x70, ha)
    else match parseHdr (devRead s1 ha 64) wl j.hdr.frame (decide (p.stage + 1 = j.hdr.nstage)) with
      | none => .error (0x17, 0)
      | some h =>
        let ta := calAddr t (j.base + h.wintab)
        if (addrs ta (32 * h.nwin)).any (isBad s1) then .error (0x70, ta)
        else match (List.range h.nwin).mapM (fun i => parseWin j (workAddr s1 t) wl h.pairs (devRead s1 (ta + 32 * i) 32)) with
          | none => .error (0x17, 0)
          | some ws =>
            if !winsOk ws then .error (0x17, 0)
            else if !h.last && ws.any (·.append) then .error (0x18, 0)
            else if !chk && ringHeld j ws then .error (0x17, 0)
            else
              let s2 := if chk then s1 else takeRings s1 x.job t ws
              .ok (setTile s2 t (fun y => { y with cmd := some (newCmd s2 x j k p run img h ws) }))

/-- Start a run of a tile position on the tile named there: moves of the partition that wait for a command boundary finish (R230), the
tile gets the list of the tile that it stands for, and the command starts. One that fails its checks has ended at the boundary, where the
tile's pending fields became live, and counts as ABORTED (R187, R211, R223). -/
def startRun (s : State) (k : Nat) (x : Task) (j : Job) (p : TilePos) (run : RunKind) : State :=
  let s0 := finishMoves s j.part
  let s1 := if p.tile = p.ident then s0 else writeList s0 k x j p.ident p.tile
  match startCmd s1 k x j p run with
  | .ok s2 => s2
  | .error e => abortTask (tleAdd (setTile s1 p.tile (tileBoundary j)) p.tile 2 1) k
      { cause := e.1, tile := p.tile, pc := 0, halt := 0, addr := e.2 }

/-- The position of a tile in its task. -/
def setPos (s : State) (k ident : Nat) (f : TilePos → TilePos) : State :=
  setTask s k (fun x => { x with pos := x.pos.map (fun p => if p.ident = ident then f p else p) })

def getPos (s : State) (k ident : Nat) : Option TilePos :=
  (getTask s k).bind (fun x => x.pos.find? (fun p => p.ident = ident))

/-- Start the next command of a tile position when its tile is idle and in service; a role whose tile is withdrawn passes to
the lowest idle tile of the share on the cluster (R433, R653). -/
def startPos (s : State) (k ident : Nat) : State :=
  match getTask s k, getPos s k ident with
  | some x, some p => match getJob s x.job with
    | none => s
    | some j =>
      let tile := if tileInService s p.tile then p.tile
        else ((shareOn j x.cluster).find? (fun t => tileIdle s t && !x.pos.any (fun q => q.tile = t))).getD p.tile
      if x.state ≠ .executing || p.fin || p.run ≠ .first || !tileIdle s tile then s
      else
        setPos (startRun s k x j { p with tile := tile } .first) k ident (fun p => { p with tile := tile })
  | _, _ => s

/-! ## What a finished command publishes (R194, R196, R658) -/

/-- A word of the command's WORK as it reads it: 0 where it never wrote. -/
def workWord (s : State) (t : Nat) (c : Cmd) (off : Nat) : W32 :=
  BitVec.ofNat 32 (leNat ((addrs (workAddr s t + off) 4).map (cmdByte s t c)))

/-- One word for each row placed on the tile the command stands for, by batch row. -/
def rowWords (s : State) (t : Nat) (c : Cmd) (off : Nat) : List (Nat × W32) :=
  match getTask s c.task with
  | some x => (List.range (ownCnt x c.ident)).map (fun i => (ownFirst x c.ident + i, workWord s t c (off + 4 * i)))
  | none => []

def publishedOf (s : State) (t : Nat) (c : Cmd) : Published :=
  let j := getJob s c.job
  { copies := copyBytes c, slots := c.slotWrites,
    appends := (c.wins.filter (·.append)).map (fun w => (w.home, (workWord s t c (w.lenw - workAddr s t)).toNat)),
    appendBytes := c.appendWrites, kv := c.kvWrites, barsig := c.barsig, semsig := c.semsig, holds := c.holds,
    status := if c.last then rowWords s t c (j.elim 0 (·.hdr.rstat)) else [],
    kvstat := match c.last, j.bind (·.kv) with
      | true, some k => rowWords s t c k.hdr.kvstat
      | _, _ => [],
    drift := c.drift, flags := (getTile s t).eng.flags,
    loose := c.loose }

/-- A final-stage command has ended its execute phase: what it publishes passes to the task, and the tile goes on with its
next role or waits in COMMIT_WAIT (R193, R433). -/
def finishFinal (s : State) (t : Nat) (c : Cmd) : State :=
  let pub := publishedOf s t c
  let s1 := setTask s c.task (fun x => { x with finals := x.finals ++ [(t, pub)] })
  match getPos s c.task c.ident with
  | none => s1
  | some p => match p.left with
    | [] =>
      setPos (setTask (setCmd s1 t (fun c => { c with phase := .commitWait, wait := none, wdogEnd := none, holds := [] }))
          c.task (fun x => { x with finalAt := now s }))
        c.task c.ident (fun p => { p with fin := true })
    | r :: rs =>
      startPos (settle (clearTile (setPos s1 c.task c.ident (fun p => { p with tile := p.ident, role := r, left := rs, run := .first })) t)) c.task c.ident

/-- The roles of a tile position: role r of NROLE runs on the r-th tile in service, or on tile r mod n (R433). -/
def rolesAt (nrole n i : Nat) : List Nat := (List.range nrole).filter (fun r => r % n = i)

/-- A stage commit (R194): homes, barriers, then the tile's next role or stage. -/
def stageCommitOp (s : State) (t : Nat) : State :=
  match getCmd s t with
  | none => s
  | some c =>
    if !committing c then s
    else
      let f := (getTile s t).eng.flags
      let s1 := settle (clearTile (recordFlags (stagePublish s t c) t f) t)
      match getPos s1 c.task c.ident, getTask s1 c.task with
      | some p, some x => match p.left with
        | r :: rs => startPos (setPos s1 c.task c.ident (fun p => { p with tile := p.ident, role := r, left := rs, run := .first })) c.task c.ident
        | [] =>
          let nrole := (getJob s1 c.job).elim 1 (·.hdr.nrole)
          let i := (x.pos.takeWhile (fun q => q.ident ≠ c.ident)).length
          let rs := rolesAt nrole x.pos.length i
          startPos (setPos s1 c.task c.ident (fun p =>
            { p with tile := p.ident, stage := p.stage + 1, role := rs.headD 0, left := rs.drop 1, run := .first }))
            c.task c.ident
      | _, _ => s1

end Sys2Proof.Machine
end

