-- ==== Sys2Proof/Machine/TileOps.lean ====
section
/-! DEFINITION. How a tile dispatches an instruction: which commands dispatch, the start block, the program counter with its
loops, and the abort of an instruction's task (R178 to R183, R188). -/

namespace Sys2Proof.Machine

/-- Does a command run: is it in its start block or its execute phase? -/
def inRun (c : Cmd) : Bool := c.phase = .start || c.phase = .execute

/-- A command dispatches the next instruction while it runs and no instruction of it waits at dispatch. -/
def dispatchable (c : Cmd) : Bool := inRun c && c.wait.isNone

/-- An instruction that waits at dispatch with `w` holds dispatch: it alone is tried again (R178, R183, R188, R208). -/
def retries (c : Cmd) (w : Wait) : Bool := inRun c && decide (c.wait = some w)

/-- They do so while the sequencer is clocked (R639). -/
def dispatches (s : State) (t : Nat) (c : Cmd) : Bool := dispatchable c && clocked s t 0
def triesAgain (s : State) (t : Nat) (c : Cmd) (w : Wait) : Bool := retries c w && clocked s t 0

/-- Abort the task of a tile's command with the code of CmdMem. -/
def abortCmd (s : State) (t : Nat) (c : Cmd) (code : Nat) : State :=
  abortTask s c.task { cause := code % 256, tile := t, pc := c.pc, halt := 0, addr := code / 256 }

/-- What an instruction does that fails: with heldCode it has no effect yet; another code aborts its task. -/
def failCmd (s : State) (t : Nat) (c : Cmd) (k : Nat) : State := if k = heldCode then s else abortCmd s t c k

/-- The outcome of an instruction's effect. -/
def settled (s : State) (t : Nat) (c : Cmd) (r : Except Nat State) : State :=
  match r with
  | .ok s1 => s1
  | .error k => failCmd s t c k

/-- Run an instruction at the dispatch of a tile; without a command that dispatches, nothing happens. -/
def runTile (s : State) (t : Nat) (f : State → Cmd → Except Nat State) : Out :=
  .next (match getCmd s t with
    | none => s
    | some c => if dispatches s t c then settled s t c (f s c) else s)

/-- Run an instruction that may wait at dispatch with `w`. -/
def runWait (s : State) (t : Nat) (w : Wait) (f : State → Cmd → Except Nat State) : Out :=
  .next (match getCmd s t with
    | none => s
    | some c => if dispatches s t c || triesAgain s t c w then settled s t c (f s c) else s)

/-- The program counter after instruction pc: at the last instruction of a loop body, the next iteration or the end of the
loop (R182). -/
def stepLoops : List LoopSt → Nat → Nat × List LoopSt
  | [], pc => (pc + 1, [])
  | l :: r, pc =>
    if pc = l.last then (if 1 < l.left then (l.first, { l with left := l.left - 1 } :: r) else stepLoops r pc)
    else (pc + 1, l :: r)

/-- Loops whose body holds a target: a branch leaves the others (R182). -/
def keepLoops (ls : List LoopSt) (pc : Nat) : List LoopSt :=
  ls.dropWhile (fun l => !(decide (l.first ≤ pc) && decide (pc ≤ l.last)))

/-- Is an index an instruction of the command's stage? -/
def inStage (c : Cmd) (i : Nat) : Bool := decide (c.entry ≤ i) && decide (i < c.entry + c.ninstr)

/-- Go on at an index; the end of the stage's instructions without a COMMIT aborts with cause 0x15, at the index of the instruction that
ran to it (DESIGN CHOICE, notes/assumptions/88.md, R182). -/
def goTo (s : State) (t pc : Nat) (ls : List LoopSt) : State :=
  match getCmd s t with
  | none => s
  | some c =>
    let c1 := { c with pc := pc, loops := ls, wait := none }
    if inStage c pc then setCmd s t (fun _ => c1) else abortCmd s t c 0x15

/-- Go on after an instruction that does not branch. -/
def advance (s : State) (t : Nat) : State :=
  match getCmd s t with
  | none => s
  | some c => goTo s t (stepLoops c.loops c.pc).1 (stepLoops c.loops c.pc).2

/-- The command as an instruction finds it: its start block is over and it waits for nothing (R188). -/
def dispatched (c : Cmd) : Cmd := { c with phase := .execute, wait := none, issued := c.issued + 1 }

/-- An instruction that is no wait: it ends the start block (R188), has its effect, and the program goes on. -/
def runInstr (s : State) (t : Nat) (f : State → Cmd → Except Nat State) : Out :=
  runTile s t (fun s c =>
    match f (setCmd s t (fun _ => dispatched c)) (dispatched c) with
    | .ok s1 => .ok (advance s1 t)
    | .error k => .error k)

/-! ## Queues (R178, R209) -/

/-- An instruction that cannot start joins the queue of its class, and the program goes on; a full queue holds dispatch. -/
def enqueue (s : State) (t : Nat) (c : Cmd) (i : Instr) (started : Bool) : State :=
  if queueFree c i then
    advance (setCmd s t (fun _ => { dispatched c with queue := c.queue ++ [{ instr := i, pc := c.pc, started := started }] })) t
  else setCmd s t (fun _ => { c with phase := .execute, wait := some .queue })

/-- An instruction of a queue: it starts when none before it blocks it and its effect is not held by a range, else it waits. -/
def runQueued (s : State) (t : Nat) (i : Instr) (free : Bool) (f : State → Cmd → Except Nat State) : Out :=
  runWait s t .queue (fun s c =>
    if blocked c i || !free then .ok (enqueue s t c i false)
    else match f (setCmd s t (fun _ => dispatched c)) (dispatched c) with
      | .ok s1 => .ok (advance s1 t)
      | .error k => if k = heldCode then .ok (enqueue s t c i false) else .error k)

/-- May an instruction begin on its engines: a scoreboard entry is free (R209), the throttle level of the die lets passes begin (R620), and
its engines are clocked, of ATTN both (R180, R639)? -/
def mayBegin (s : State) (t : Nat) (i : Instr) : Bool :=
  boardFree s t && decide (effLevel s (t / 48) < 8) && (match classOf i with
    | some .matrix => clocked s t 1
    | some .vector => clocked s t 2
    | some .attn => clocked s t 1 && clocked s t 2
    | _ => true)

/-- An instruction of the matrix engine, the vector engine, the SCAN unit or both (R179): it waits while it may not begin, and an uncorrectable parity error on state of the engine that it reads (`par`) aborts the task with cause 0x71 (R645). Of an
instruction that fails in several ways, parity is the last (notes/assumptions/74.md). -/
def runEng (s : State) (t : Nat) (i : Instr) (par : Bool) (f : State → Cmd → Except Nat State) : Out :=
  runQueued s t i (mayBegin s t i) (fun s c => match f s c with
    | .ok s1 => if par then .error 0x71 else .ok s1
    | .error k => .error k)

/-- An instruction that waits at dispatch until every engine instruction before it has completed (R136, R183). -/
def runAfter (s : State) (t : Nat) (f : State → Out) : Out :=
  match getCmd s t with
  | none => .next s
  | some c =>
    if dispatches s t c || triesAgain s t c .engines then
      if enginesDone c then f (if retries c .engines then setCmd s t (fun c => { c with wait := none }) else s)
      else .next (setCmd s t (fun _ => { c with phase := .execute, wait := some .engines }))
    else .next s

/-- What vector-type instructions know of their command. -/
def vctx (s : State) (c : Cmd) : VCtx :=
  { rows := (getTask s c.task).elim [] (·.rows), seed := (getJob s c.job).elim 0 (·.hdr.seed),
    sched := (getTask s c.task).elim 0 (·.sched) }

/-- The tile that a TILE field names: 0x7F is the issuing tile, another lies in the job's share (R121, R132). A tile outside the
partition is an isolation violation (R26); 96 to 126 name no tile. -/
def tileField (s : State) (t : Nat) (c : Cmd) (f : BitVec 7) : Except Nat Nat :=
  if f = 0x7F then .ok t
  else if ((getJob s c.job).elim [] (·.share)).elem f.toNat then .ok f.toNat
  else if decide (f.toNat < 96) && !bitAt (getPart s c.part).slices (f.toNat / 8) then
    .error (abortCode 0x1F (calAddr f.toNat 0))
  else .error 0x10

/-- Replace the engine state of a tile. -/
def putEng (s : State) (t : Nat) (g : Engine) : State := setTile s t (fun x => { x with eng := g })

/-- Where a store of the command puts a byte: a COPY window's home in its shadow (R191). -/
def putAddr (c : Cmd) (a : Nat) : Nat := (copyWin c a).elim a (fun x => x.shadow + (a - x.home))

/-- The command after it has written bytes of WORK: those at `nar` belong to narrowed values, the others to none (R284). -/
def noteStore (c : Cmd) (nar ws : List Nat) : Cmd :=
  let as := ws.map (putAddr c)
  { c with narrowed := (nar.map (putAddr c)).foldl setIns (c.narrowed.filter (fun a => !as.elem a)) }

/-- Store bytes of an instruction in Caldera, then replace the engine state; `nar` are the addresses that get bytes of narrowed values. -/
def storeAs (s : State) (t : Nat) (c : Cmd) (nar : List Nat) (ws : List (Nat × Byte)) (g : Engine) : Except Nat State :=
  match cmdWrites s t c false ws with
  | .ok (s1, c1) => .ok (putEng (setCmd s1 t (fun _ => noteStore c1 nar (ws.map Prod.fst))) t g)
  | .error k => .error k

/-- A store of results of another kind than register values: 32-bit words, and outputs of the ATTN instructions. -/
def storeEng (s : State) (t : Nat) (c : Cmd) (ws : List (Nat × Byte)) (g : Engine) : Except Nat State := storeAs s t c [] ws g

/-- Does an element of w bits at bit b of a tile's Caldera hold a narrowed value of the command (R284)? -/
def readsNarrow (c : Cmd) (tile : Nat) (b : Int) (w : Nat) : Bool :=
  !c.narrowed.isEmpty && (addrs (calAddr tile (b / 8).toNat) ((w + 7) / 8)).any (fun a => c.narrowed.elem (readAddr c a))

/-- Core cycles in which a vector instruction of N elements issues passes: one for every 512 elements, and one with N = 0 (R138). -/
def passes (n : Nat) : Nat := max 1 (cdiv n 512)

/-- Vector counters: core cycles with a pass issued, lanes that raised RANGE, rows that raised EMPTY (R139). -/
def vecCount (s : State) (t busy range empty : Nat) : State :=
  setTile s t (fun x => { x with vecCnt := cntAt (cntAt (cntAt x.vecCnt 0 busy) 4 range) 5 empty })

/-- Run a register instruction of the vector engine that issues for `busy` core cycles: `ok` is what R132 asks of its fields. -/
def runVecFor (s : State) (t : Nat) (i : Instr) (a : VArgs) (busy : Nat) (ok : Bool) (f : VCtx → Engine → VOut) : Out :=
  runEng s t i a.par (fun s c =>
    let g := (getTile s t).eng
    if ok && rowsOk (vctx s c) g.geom a.n.toNat a.rmode.toNat then
      let o := f (vctx s c) g
      .ok (vecCount (putEng s t o.eng) t busy o.range o.empty)
    else .error 0x10)

/-- One that issues a pass for every 512 elements. -/
def runVec (s : State) (t : Nat) (i : Instr) (a : VArgs) (ok : Bool) (f : VCtx → Engine → VOut) : Out :=
  runVecFor s t i a (passes a.n.toNat) ok f

/-- One that takes a single core cycle: a mask operation, MPOP (R138). -/
def runMask (s : State) (t : Nat) (i : Instr) (a : VArgs) (ok : Bool) (f : VCtx → Engine → VOut) : Out :=
  runVecFor s t i a 1 ok f

/-- Fields of layout V that an opcode uses. -/
structure VUse where
  va : Bool := false
  vb : Bool := false
  vc : Bool := false
  sub : Bool := false
  ms : Bool := false
  rnd : Bool := false
  sat : Bool := false
  fmt : Bool := false
  imm : Bool := false
  deriving DecidableEq, Repr

/-- R132 for layout V: N in range, every unused field 0 (MSK, MEN and MZ belong to every opcode; RMODE and SITE go
together). -/
def vFields (a : VArgs) (u : VUse) : Bool :=
  decide (a.n.toNat ≤ 4096) && a.rsv = 0 && (u.va || a.va = 0) && (u.vb || a.vb = 0) && (u.vc || a.vc = 0)
    && (u.sub || a.sub = 0) && (u.ms || a.ms = 0) && (u.rnd || (a.rmode = 0 && a.site = 0)) && (u.sat || a.sat = false)
    && (u.fmt || a.fmt = 0) && (u.imm || a.imm = 0)

/-- An outcome without RANGE or EMPTY. -/
def plain (g : Engine) : VOut := { eng := g, range := 0, empty := 0 }

end Sys2Proof.Machine
end

