-- ==== Sys2Proof/Machine/CheckOps.lean ====
section
/-! DEFINITION. What a failed row of the checksum column does to its command, and the tile of a second run (R105, R657,
R659, R669). -/

namespace Sys2Proof.Machine

/-- The lowest-numbered idle tile of a job's share, on any cluster, that a test admits, that holds no command of a task and is none of
some tiles (R105, R446, R657). -/
def spareTile (s : State) (j : Job) (k : Nat) (admits : Nat → Bool) (not : List Nat) : Option Nat :=
  j.share.find? (fun t => tileIdle s t && admits t && !not.elem t
    && !(taskTiles s k).elem t && !((getTask s k).elim [] (·.finals)).any (fun f => f.1 = t))

/-- The tiles of a mask. -/
def maskTiles (m : Nat) : List Nat := (List.range 96).filter (bitAt m)

/-- Offset of device time in a partition's period, in ns. -/
def periodOff (s : State) (p : Nat) (tab : CycleTab) : Nat :=
  (now s - (getPart s p).periodStart) % (1000 * tab.period)

/-- The end of a window on a tile, in ns from the start of the period: earlier by what its job owes there (R442, R445). -/
def winEnd (s : State) (p : Nat) (w : CycleWin) (tile : Nat) : Nat :=
  1000 * (w.start + w.len)
    - (((getPart s p).owed.find? (fun o => o.tile = tile && o.job = w.job && decide (now s < o.till))).elim 0 (·.ns))

/-- The window of a partition's table that is open on a tile now (R436, R437). -/
def windowAt (s : State) (p : Nat) (tab : CycleTab) (tile : Nat) : Option CycleWin :=
  let o := periodOff s p tab
  tab.wins.find? (fun w => decide (1000 * w.start ≤ o) && decide (o < winEnd s p w tile) && bitAt w.mask tile)

/-- May a partition's job run commands on a tile now: a window of the job holds the tile, or there is no cycle table
(R441)? -/
def tileOpen (s : State) (p j tile : Nat) : Bool :=
  match (getPart s p).table with
  | none => true
  | some tab => match windowAt s p tab tile with
    | some w => w.job = j
    | none => false

/-- Is a tile open to another run of a task's command: in a partition with a cycle table it lies in the mask of the window in which the
task runs, which is open on its own tiles (R446)? -/
def runOpen (s : State) (p : Nat) (x : Task) (t : Nat) : Bool :=
  match (getPart s p).table with
  | none => true
  | some tab => (x.pos.head?).any (fun q => (windowAt s p tab q.tile).any (fun w =>
      w.job = x.job && bitAt w.mask t && windowAt s p tab t = some w))

/-- The tile for another run of a command (R105, R446). -/
def runTileFor (s : State) (k : Nat) (not : List Nat) : Option Nat :=
  match getTask s k with
  | none => none
  | some x => match getJob s x.job with
    | none => none
    | some j => spareTile s j k (runOpen s j.part x) not

/-- DETAIL of CHECK_MISMATCH (R666); the code of an outcome that the manual names `pending` is a free value. -/
def mismatchDetail (instr row first second third : Nat) (outcome : Byte) (failed : Nat) : List Byte :=
  leBytes 2 instr ++ leBytes 2 row ++ leBytes 1 first ++ leBytes 1 second ++ leBytes 1 third ++ [outcome] ++ leBytes 4 failed

/-- CHECK_MISMATCH of a tile's engine, posted to both queues and counted in the Engine class (R105, R659, R669). -/
def raiseMismatch (s : State) (t p j k stream : Nat) (detail : List Byte) : State :=
  raiseErr s [(ErrClass.engine, t)] true (some p)
    { mkEvent 0x02 p 0x01 t with job := j, task := k, stream := stream, detail := detail }

/-- TLE_MXE_CHKSTAT after a failed row: the first mismatch stays (R105, R110). -/
def chkstatFail (x : ChkStat) (instr row : Nat) : ChkStat :=
  if x.mismatch then x else { x with mismatch := true, instr := instr, row := row }

/-- The stream of activation row r: that of the r-th work-list row of the tile that the command stands for, all ones beyond them; the
manual does not say which row of the work list an activation row belongs to (DESIGN CHOICE, notes/assumptions/73.md). -/
def rowStream (s : State) (c : Cmd) (row : Nat) : Nat := ((ownRows s c)[row]?).elim 0xFFFFFFFF (·.stream)

/-- A command stops at a failed row: its scratch is discarded. A first run is due to run again on another tile; a re-run that
fails too aborts the task with a cause that the manual does not give; a checking run starts over on another tile. -/
def mismatchStop (s : State) (t : Nat) (c : Cmd) (row : Nat) : State :=
  let (n, s0) := takeFree s
  let s1 := setTile s0 t (fun x => { x with chkstat := chkstatFail x.chkstat c.pc row })
  let second := (runTileFor s1 c.task [t]).getD 0xFF
  let ev (a b d : Nat) := mismatchDetail c.pc row a b d (Config.freeByte n) 0
  let st := rowStream s c row
  match c.run with
  | .first =>
    let s2 := setPos (dropCmd s1 t) c.task c.ident (fun p => { p with run := .rerun t c.pc row })
    settle (raiseMismatch s2 t c.part c.job c.task st (ev t second 0xFF))
  | .rerun f _ _ =>
    abortTask (raiseMismatch s1 t c.part c.job c.task st (ev f t 0xFF)) c.task
      { cause := Config.freeNat n % 256, tile := t, pc := c.pc, halt := 0, addr := 0 }
  | .check f =>
    let s2 := dropCmd s1 t
    settle (raiseMismatch { s2 with checks := s2.checks.map (fun q =>
      if q.checkTile = some t then { q with checkTile := none, result2 := none } else q) } t c.part c.job c.task st
      (ev f t 0xFF))
  | .third f k =>
    let s2 := dropCmd s1 t
    settle (raiseMismatch { s2 with checks := s2.checks.map (fun q =>
      if q.thirdTile = some t then { q with thirdTile := none } else q) } t c.part c.job c.task st (ev f k t))

end Sys2Proof.Machine
end

