-- ==== Sys2Proof/Machine/Attn.lean ====
section
/-! DEFINITION. The ATTN instructions and Fumarole (R346 to R370, R656, R660). -/

namespace Sys2Proof.Machine

/-- An ATTN instruction of the tile: refused in reduced service (R358), its operands read with cause 0x34, its stores made
under R190. -/
def runAttn (s : State) (t : Nat) (i : Instr) (par rsv : Bool) (f : State → Cmd → Except Nat State) : Out :=
  runEng s t i par (fun s c => do
    check (getGey s (t / 8)).full 0x30
    check rsv 0x10
    f s c)

/-- The base of the task's bias copy in 64 B units (R343, R344). -/
def biasBase (s : State) (t : Nat) (c : Cmd) : Nat :=
  if (getTask s c.task).elim false (·.biasCopy) then (getTile s t).bias1 else (getTile s t).bias0

/-- The reader of an ATTN operand. -/
def attnReader (s : State) (t : Nat) (c : Cmd) : Reader := engRead s t c t 0x34

/-- Counters of TLE_ATT_CNT: blocks, rows rescaled, slots masked (R371). -/
def attnCount (s : State) (t blocks rescaled masked : Nat) : State :=
  setTile s t (fun x => { x with attCnt := cntAt (cntAt (cntAt x.attCnt 0 blocks) 1 rescaled) 2 masked })

/-- The stores of an ATTN instruction, at offsets of the tile's Caldera, and its counters. -/
def putAttn (s : State) (t : Nat) (c : Cmd) (o : AttnOut) (blocks : Nat) : Except Nat State := do
  let s1 ← storeEng s t c (o.stores.map (fun w => (calAddr t w.1, w.2))) o.eng
  return attnCount s1 t blocks o.rescaled o.masked

/-- ATTN_INIT: open a forward context (R348, R349). -/
def execAttnInit (t : Nat) (a : AttnInitArgs) (s : State) : Out :=
  runAttn s t (.attnInit t a) a.par (a.rsv = 0) (fun s c => do
    let g ← attnInitOp (attnReader s t c) (getTile s t).nbh a (getTile s t).eng
    return putEng s t g)

/-- Does a command's check pass its contexts to Fumarole (R660)? -/
def passesFum (s : State) (t : Nat) (c : Cmd) : Bool :=
  match c.run with
  | .check _ => s.checks.any (fun q => q.fum && q.checkTile = some t)
  | _ => false

/-- Keep a key block for the comparison with Fumarole. -/
def keepBlock (g : Engine) (ctx : Bool) (b : List Byte) : Engine :=
  setCtx g ctx ((ctxOf g ctx).map (fun x => { x with blocks := x.blocks ++ [b] }))

/-- ATTN_STEP: fold a key block into a forward context (R350 to R353). -/
def execAttnStep (t : Nat) (a : AttnStepArgs) (s : State) : Out :=
  runAttn s t (.attnStep t a) a.par (a.rsv = 0) (fun s c => do
    let g := (getTile s t).eng
    let o ← attnStepOp (attnReader s t c) (biasBase s t c) a g
    let b ← attnReader s t c (64 * a.kbase.toNat) (((ctxOf g a.ctx).map (fun x => keyBlockLen x.dh x.kvfmt)).getD 0)
    putAttn s t c (if passesFum s t c then { o with eng := keepBlock o.eng a.ctx b } else o) 1)

/-- ATTN_MERGE: fold a saved partial into a forward context (R356). -/
def execAttnMerge (t : Nat) (a : AttnMergeArgs) (s : State) : Out :=
  runAttn s t (.attnMerge t a) a.par (a.rsv = 0) (fun s c => do
    let o ← attnMergeOp (attnReader s t c) a (getTile s t).eng
    putAttn s t c { o with eng := setCtx o.eng a.ctx ((ctxOf o.eng a.ctx).map (fun x => { x with merged := true })) } 0)

/-- ATTN_BINIT: open a backward context (R369). -/
def execAttnBinit (t : Nat) (a : AttnBinitArgs) (s : State) : Out :=
  runAttn s t (.attnBinit t a) a.par (a.rsv = 0) (fun s c => do
    let g ← attnBinitOp (attnReader s t c) (getTile s t).nbh a (getTile s t).eng
    return putEng s t g)

/-- ATTN_BWD: apply a key block to a backward context (R370). -/
def execAttnBwd (t : Nat) (a : AttnBwdArgs) (s : State) : Out :=
  runAttn s t (.attnBwd t a) a.par (a.rsv = 0) (fun s c => do
    let o ← attnBwdOp (attnReader s t c) (biasBase s t c) a (getTile s t).eng
    putAttn s t c o 1)

/-! ## Fumarole's inputs (R364, R365) -/

/-- A failed read of Fumarole: an uncorrectable word gives cause 0x35 (R358). -/
def fumCause (k : Nat) : Nat :=
  if k % 256 = 0x70 || k % 256 = 0x20 || k % 256 = 0x21 then abortCode 0x35 (k / 256) else k

def fumReader (s : State) (t : Nat) (c : Cmd) : Reader := fun off n =>
  match attnReader s t c off n with
  | .ok b => .ok b
  | .error k => .error (fumCause k)

/-- The reader of key blocks in a tile of the job's share: committed data in another tile. -/
def fumBlockReader (s : State) (t : Nat) (c : Cmd) (tile : Nat) : Reader := fun off n =>
  if tile = t then fumReader s t c off n
  else if 0x400000 < off + n then .error 0x34
  else match (addrs (calAddr tile off) n).find? (isBad s) with
    | some a => .error (abortCode 0x35 a)
    | none => .ok ((addrs (calAddr tile off) n).map (cmdByte s t c))

/-- A key block in its own format. -/
def fumBlock (rd : Reader) (off dh : Nat) : Except Nat KeyBlock := do
  let h ← attRead rd off 64
  check (fumFmtOk (leAt h 34 1)) 0x33
  readBlock rd off dh (leAt h 34 1)

/-- The key blocks of a request's list. -/
def fumBlocks (s : State) (t : Nat) (c : Cmd) (q : FumCmd) : Except Nat (List KeyBlock) := do
  let l ← attRead (fumReader s t c) q.blist (8 * q.nb)
  (List.range q.nb).mapM (fun i =>
    let a := leAt l (8 * i) 8
    match placeOf a with
    | .caldera tile off =>
      if a % 64 ≠ 0 then .error 0x34
      else if ((getJob s c.job).elim [] (·.share)).elem tile then fumBlock (fumBlockReader s t c tile) off q.dh
      else .error (abortCode 0x35 a)
    | _ => .error (abortCode 0x35 a))

/-- The request at an offset. -/
def fumRequest (s : State) (t : Nat) (c : Cmd) (off : Nat) : Except Nat FumCmd := do
  check (off % 64 = 0) 0x34
  let b ← attRead (fumReader s t c) off 64
  let q ← fumParse b
  check (!q.save || q.saddr % 8 = 0) 0x34
  return q

/-- A row with the biases of its blocks, evaluated. -/
def fumEval (s : State) (t : Nat) (c : Cmd) (q : FumCmd) (bs : List KeyBlock) (row : W32 × List Nat) : Except Nat FumRow := do
  let bb ← bs.mapM (fun b => do
    let x ← rowBias (fumReader s t c) (biasBase s t c) b q.causal row.1 (List.range 128)
    pure (b, x))
  return fumRow q row.1 row.2 bb

/-- Fumarole's work on a request: the stores, at offsets of WORK, and the flags. -/
def fumWork (s : State) (t : Nat) (c : Cmd) (q : FumCmd) : Except Nat (List (Nat × Byte) × Flags) := do
  let rd := fumReader s t c
  let ib ← attRead rd q.qiaddr (4 * q.nq)
  let info := (List.range q.nq).map (fun r => BitVec.ofNat 32 (leAt ib (4 * r) 4))
  check (infoOk (getTile s t).nbh info) 0x32
  let qs ← readRows rd q.qfmt q.dh q.qaddr (cdiv (q.dh * fmtBits q.qfmt) 8) q.nq 0
  let bs ← fumBlocks s t c q
  let rows ← (info.zip qs).mapM (fumEval s t c q bs)
  let (ws, fl) := fumResult q rows
  let at_ := workAddr s t
  check (ws.all (fun w => decide (at_ + w.1 < calAddr t 0x400000))) 0x34
  return (ws.map (fun w => (at_ + w.1, w.2)), fl)

/-- ATTN_FUM: the request joins the die's queue and holds both engines until Fumarole completes it; the planes and banks are cleared
(R180, R347, R365, R366, R656). -/
def execAttnFum (t : Nat) (a : AttnFumArgs) (s : State) : Out :=
  runWait s t .queue (fun s c => do
    if blocked c (.attnFum t a) || !mayBegin s t (.attnFum t a) then return enqueue s t c (.attnFum t a) false
    check (a.rsv = 0) 0x10
    check (getDie s (t / 48)).fumOk 0x72
    match fumRequest s t c a.off.toNat with
    | .error k => if k = heldCode then return enqueue s t c (.attnFum t a) false else throw k
    | .ok _ =>
      check (!a.par) 0x71
      let s1 := setDie s (t / 48) (fun d => { d with fumQ := d.fumQ ++ [{ tile := t, off := a.off.toNat }] })
      return enqueue (setEng s1 t clearMx) t c (.attnFum t a) true)

/-- The core cycles of a request (R366): bytes read and the two products. -/
def fumCycles (q : FumCmd) (bytes : Nat) : Nat :=
  1024 + max (cdiv bytes 512) (2 * cdiv (q.nq * 128 * q.nb * q.dh) 8192 + cdiv (q.nq * 128 * q.nb) 256)

/-- The bytes that a request reads: its query rows, and each key block in its own format (R366). -/
def fumBytes (q : FumCmd) (bs : List KeyBlock) : Nat :=
  q.nq * q.dh * cdiv (fmtBits q.qfmt) 8 + (bs.map (fun b => keyBlockLen q.dh b.fmt)).sum

/-- The core cycles from issue to completion: the request's own, and those it waited, which are a free value. -/
def fumWaitCycles (s : State) (q : FumCmd) (bs : List KeyBlock) : Nat × State :=
  let (n, s1) := takeFree s
  (fumCycles q (fumBytes q bs) + Config.freeNat n, s1)

/-! ## ATTN_FIN and its comparison with Fumarole (R355, R368, R660) -/

/-- 2^k as a value. -/
def pow2V (k : Int) : FVal := .fin false 1 k

/-- TOL of R368. -/
def tolOf (pfmt : Nat) : Int := if pfmt = 1 then -5 else -2

/-- L = m + ln l. -/
def logSum (m l : W32) : FVal := dec32 (fadd m (funary .log l).1).1

/-- Is |a − b| at most a bound? -/
def closeTo (a b bound : FVal) : Bool := leMag (addX a b.neg).1 bound

/-- The largest magnitude of a list of values. -/
def maxMag (vs : List FVal) : FVal := vs.foldl (fun m v => if fltX m v.abs then v.abs else m) (.fin false 0 0)

/-- One row of the comparison (R368): `out`, `m`, `l` of the ATTN context, `f` of Fumarole, `vs` the values of the row's
valid slots. -/
def fumRowAgrees (pfmt : Nat) (out : List W32) (m l : W32) (f : FumRow) (vs : List FVal) : Bool :=
  if (m = negInf32) ≠ (f.m = negInf32) then false
  else if m = negInf32 then true
  else if !((m :: l :: f.m :: f.l :: (out ++ f.out)).all finite32) then true
  else (out.zip f.out).all (fun e => closeTo (dec32 e.1) (dec32 e.2) ((maxMag vs).scale (tolOf pfmt)))
    && closeTo (logSum m l) (logSum f.m f.l) (pow2V (tolOf pfmt))

/-- The values of a row's valid slots. -/
def validVals (bs : List KeyBlock) (causal : Bool) (info : W32) : List FVal :=
  bs.flatMap (fun b => ((List.range 128).filter (slotValid b causal info)).flatMap (fun j =>
    b.v.map (fun r => elemVal b.fmt (r.getD j 0))))

/-- Do a context's rows pass the comparison? What Fumarole cannot take passes. -/
def fumAgrees (s : State) (t : Nat) (c : Cmd) (x : AttnCtx) (before after : Engine) : Bool :=
  if x.merged || !fumFmtOk x.qfmt || !fumFmtOk x.kvfmt || decide (64 < x.blocks.length) || x.blocks.isEmpty then true
  else
    let q : FumCmd :=
      { nq := x.qrows, nb := x.blocks.length, dh := x.dh, causal := x.causal, norm := true, save := false, qfmt := x.qfmt,
        scale := x.scale, qaddr := 0, qiaddr := 0, blist := 0, oaddr := 0, saddr := 0 }
    match x.blocks.mapM (fun b => readBlock (fun off n => .ok ((b.drop off).take n)) 0 x.dh x.kvfmt) with
    | .error _ => true
    | .ok bs => ((List.range x.qrows).zip (x.info.zip x.q)).all (fun r =>
        let vs := validVals bs x.causal r.2.1
        if infoOff r.2.1 || vs.isEmpty then true
        else match fumEval s t c q bs r.2 with
          | .error _ => true
          | .ok f => fumRowAgrees x.pfmt ((List.range x.dh).map (outGet after x.vo x.dh r.1)) (vGet before x.vs r.1)
              (vGet before x.vs (128 + r.1)) f vs)

/-- A disagreement with Fumarole: the outcome becomes MISMATCH, and CHECK_MISMATCH names the die's Fumarole (R660). -/
def fumMismatch (s : State) (t : Nat) (c : Cmd) : State :=
  let (n, s0) := takeFree s
  let f := match c.run with | .check f => f | _ => 0xFF
  postBoth { s0 with checks := s0.checks.map (fun q => if q.checkTile = some t then { q with mismatch := true } else q) }
    c.part { mkEvent 0x02 c.part 0x09 (t / 48) with
      job := c.job, task := c.task, detail := mismatchDetail c.pc 0 f t 0xFF (Config.freeByte n) 0 }

/-- ATTN_FIN: normalize a forward context, write it out and close it (R352, R355). -/
def execAttnFin (t : Nat) (a : AttnFinArgs) (s : State) : Out :=
  runAttn s t (.attnFin t a) a.par (a.rsv = 0) (fun s c => do
    let g := (getTile s t).eng
    let o ← attnFinOp (vctx s c) a g
    let s1 ← putAttn s t c o 0
    match ctxOf g a.ctx with
    | some x => if a.norm && passesFum s t c && !fumAgrees s t c x g o.eng then return fumMismatch s1 t c else return s1
    | none => return s1)

end Sys2Proof.Machine
end

