-- ==== Sys2Proof/Machine/Matrix.lean ====
section
/-! DEFINITION. The MATRIX instructions (R77 to R105). -/

namespace Sys2Proof.Machine

/-- A cluster in reduced service multiplies in BF16 only (R632). -/
def bf16Only (s : State) (t fmt : Nat) : Bool := (getGey s (t / 8)).full || fmt = 1

/-- MXE_WLOAD: a weight tile into a plane (R80, R81, R88). -/
def execMxeWload (t : Nat) (a : WloadArgs) (s : State) : Out :=
  runEng s t (.mxeWload t a) a.par (fun s c => do
    let g := (getTile s t).eng
    check (bf16Only s t a.wfmt.toNat) 0x60
    let p ← loadPlane (engRead s t c t 0x10) c.refQ a
    return putEng s t (if a.plane then { g with plane1 := some p } else { g with plane0 := some p }))

/-- Cycles of the checksum column for the present rows (R104). -/
def chkCycles (c : Cmd) (rows : Nat) : Nat := if c.chkEn then cdiv rows 128 else 0

/-- The matrix counters: rows in the array, checksum cycles, absent rows (R98, R104, R106, R107). -/
def mxeCount (s : State) (t : Nat) (c : Cmd) (o : MmaOut) : State :=
  setTile s t (fun x => { x with
    mxeCnt := cntAt (cntAt (cntAt x.mxeCnt 0 o.present) 6 (chkCycles c o.present)) 7 o.absent,
    chkstat := { x.chkstat with skipped := x.chkstat.skipped || o.skipped } })

/-- MXE_MMA: the rows of a plane into a bank, with the check of R102 (R82 to R84, R90 to R96, R100 to R105). One that aborts part-way
(0x70, 0x71, a decode fault) adds nothing to the counters: DESIGN CHOICE, notes/assumptions/83.md (R112). -/
def execMxeMma (t : Nat) (a : MmaArgs) (s : State) : Out :=
  runEng s t (.mxeMma t a) a.par (fun s c => do
    let g := (getTile s t).eng
    check (bf16Only s t a.afmt.toNat) 0x60
    let o ← mmaOp (engRead s t c t 0x10) c.refS a (if c.chkEn then some c.chkSlack else none) g
    let g1 := addFlags (if a.bank then { g with bank1 := o.bank } else { g with bank0 := o.bank }) o.flags
    let s1 := mxeCount (putEng s t g1) t c o
    match o.failRow with
    | none => return s1
    | some r => return mismatchStop s1 t c r)

/-- The bank after a drain. -/
def putBank (g : Engine) (bank : Bool) (b : Bank) : Engine := if bank then { g with bank1 := b } else { g with bank0 := b }

/-- MXE_DRAIN: bank entries bit for bit to a vector register or Caldera (R85, R86). -/
def execMxeDrain (t : Nat) (a : DrainArgs) (s : State) : Out :=
  runEng s t (.mxeDrain t a) a.par (fun s c => do
    let g := (getTile s t).eng
    let b := if a.bank then g.bank1 else g.bank0
    check (drainOk a b) 0x10
    let ws := drainWords a b
    let g1 := putBank g a.bank (drainBank a b)
    if a.dest then
      let st := drainStores a ws
      check (st.all (fun e => decide (e.1 + 4 ≤ 0x400000))) 0x10
      storeEng s t c (st.flatMap (fun e => asWrites (calAddr t e.1) (leBytes 4 e.2.toNat))) g1
    else return putEng s t (vPutAll g1 a.vreg.toNat ((List.range ws.length).zip ws)))

end Sys2Proof.Machine
end

