-- ==== Sys2Proof/Machine/ScanOps.lean ====
section
/-! DEFINITION. The SCAN unit as functions of the engine (spec/08_recurrence.md): the linear recurrence, reset masks, the
drift counts of the state store. -/

namespace Sys2Proof.Machine

/-- What keeps a SCAN legal (R270, R271, R274). -/
def scanOk (a : ScanArgs) (geo : Geom) : Bool :=
  let n := a.n.toNat
  let w := a.w.toNat
  let row := geoRow geo n
  a.rsv = 0 && decide (n ≤ 4096) && decide (1 ≤ w) && decide (w ≤ 4096) && row % w = 0 && decide (row / w ≤ 256)
    && (row = 0 || n % row = 0) && decide (a.amode.toNat < 2)

/-- The lane (q, w) of a SCAN over its positions: element indices and results, with flags (R272). -/
def scanLane (a : ScanArgs) (g : Engine) (row q w : Nat) : Nat → Nat → W32 → List (Nat × W32) × Flags
  | 0, _, _ => ([], 0)
  | k + 1, t, h =>
    let ww := a.w.toNat
    let e := q * row + t * ww + w
    let x := if a.amode = 0 then vGet g a.va.toNat e else vGet g a.va.toNat w
    let b := vGet g a.vb.toNat e
    let (h', f) := if a.ren && mGet g a.rmsk.toNat (q * (row / ww) + t) then (b, 0) else ffma x h b
    let (r, fr) := scanLane a g row q w k (t + 1) h'
    ((e, h') :: r, f ||| fr)

/-- The elements of lane (q, w) that a carry reaches: those before its first reset (R272). -/
def carried (a : ScanArgs) (g : Engine) (row q w : Nat) : List Nat :=
  ((List.range (row / a.w.toNat)).takeWhile (fun t => !(a.ren && mGet g a.rmsk.toNat (q * (row / a.w.toNat) + t)))).map
    (fun t => q * row + t * a.w.toNat + w)

/-- The elements of a SCAN that a narrowed carry reaches (R284). -/
def scanNarrow (a : ScanArgs) (g : Engine) (row : Nat) : List Nat :=
  ((List.range (a.n.toNat / row)).map (fun q => ((List.range a.w.toNat).filter (fun w =>
    isNarrow g a.vc.toNat (q * a.w.toNat + w))).flatMap (carried a g row q))).flatten

/-- SCAN (R272): every row, every lane. -/
def scanOp (a : ScanArgs) (g : Engine) : Engine :=
  let n := a.n.toNat
  let row := geoRow g.geom n
  let ww := a.w.toNat
  if n = 0 then g
  else
    let rs := ((List.range (n / row)).map (fun q => (List.range ww).map (fun w =>
      scanLane a g row q w (row / ww) 0 (vGet g a.vc.toNat (q * ww + w))))).flatten
    markNarrow (addFlags (vPutAll g a.vd.toNat (rs.map Prod.fst).flatten) (rs.foldl (fun acc r => acc ||| r.2) 0))
      a.vd.toNat (scanNarrow a g row)

/-- What keeps an SRMASK's fields legal (R281). -/
def srmaskFieldsOk (a : SrmaskArgs) : Bool :=
  let m := a.mode.toNat
  a.rsv = 0 && decide (m < 3) && (if m = 0 then decide (1 ≤ a.p.toNat) && decide (a.p.toNat ≤ 256) else a.p = 0)
    && decide (1 ≤ a.nrows.toNat) && decide (a.nrows.toNat ≤ 4096)

/-- The reset positions of a row: RST0 at position 0, and the mark's position when the mark lies in the row. -/
def rowResets (sh : Nat) (r : Row) : List Nat :=
  (if r.rst0 then [0] else []) ++ (match r.rst with
    | some f => if f < r.len then [f / 2 ^ sh] else []
    | none => [])

/-- Bits that SRMASK sets for packed rows: `pos` positions before this row. -/
def packedBits (mode sh : Nat) : List Row → Nat → List Nat
  | [], _ => []
  | r :: rs, pos =>
    let k := cdiv r.len (2 ^ sh)
    (if k = 0 then [] else if mode = 1 then (rowResets sh r).map (pos + ·) else [pos]) ++ packedBits mode sh rs (pos + k)

/-- The bits that SRMASK sets (R281). -/
def srmaskBits (a : SrmaskArgs) (rows : List Row) : List Nat :=
  let sh := a.sh.toNat
  if a.mode = 0 then
    (((List.range rows.length).zip rows).map (fun e =>
      ((rowResets sh e.2).filter (· < a.p.toNat)).map (e.1 * a.p.toNat + ·))).flatten
  else packedBits a.mode.toNat sh rows 0

/-- SRMASK writes its mask, clearing every bit it does not set. -/
def srmaskOp (a : SrmaskArgs) (bits : List Nat) (g : Engine) : Engine :=
  mPutAll g a.md.toNat ((List.range 4096).map (fun e => (e, bits.elem e)))

end Sys2Proof.Machine
end

