-- ==== Sys2Proof/Machine/Scan.lean ====
section
/-! DEFINITION. SCAN and SRMASK (R269 to R281). -/

namespace Sys2Proof.Machine

/-- SCAN: the linear recurrence over the positions of each row (R271, R272, R274). -/
def execScan (t : Nat) (a : ScanArgs) (s : State) : Out :=
  runEng s t (.scan t a) a.par (fun s _ =>
    let g := (getTile s t).eng
    if scanOk a g.geom then .ok (vecCount (putEng s t (scanOp a g)) t (passes a.n.toNat) 0 0) else .error 0x10)

/-- SRMASK: the reset bits of the rows from ROW0 on (R281). -/
def execSrmask (t : Nat) (a : SrmaskArgs) (s : State) : Out :=
  runEng s t (.srmask t a) a.par (fun s c =>
    let g := (getTile s t).eng
    let rows := (vctx s c).rows
    let bits := srmaskBits a ((rows.drop g.geom.row0).take a.nrows.toNat)
    if srmaskFieldsOk a && decide (g.geom.row0 + a.nrows.toNat ≤ rows.length) && bits.all (· < 4096) then
      .ok (vecCount (putEng s t (srmaskOp a bits g)) t 1 0 0)
    else .error 0x10)

end Sys2Proof.Machine
end

