-- ==== Sys2Proof/Machine/VecMem.lean ====
section
/-! DEFINITION. The vector engine's loads and stores, and SST (R121 to R123, R131 to R134, R282, R283). -/

namespace Sys2Proof.Machine

/-- The element of w bits at a bit offset of Caldera. -/
def readElem (rd : Reader) (b : Int) (w : Nat) : Except Nat Nat :=
  if b < 0 then .error 0x10
  else
    let o := b.toNat / 8
    match rd o ((b.toNat + w + 7) / 8 - o) with
    | .ok bs => .ok (bitsAt (leNat bs) (b.toNat % 8) w)
    | .error k => .error k

/-- Element e of a load: the register word and its flags. -/
def loadElem (rd : Reader) (a : MArgs) (e : Nat) : Except Nat (W32 × Flags) := do
  let fmt := a.fmt.toNat
  let code ← readElem rd (elemBit a.addr.toNat a.stride.toInt (fmtBits fmt) a.n.toNat a.run.toNat e) (fmtBits fmt)
  if fmtIsMx fmt then
    let sb ← rd (scaleOff a.saddr.toNat a.n.toNat a.run.toNat e) 1
    match fmtFloat fmt with
    | some f => return mxTo32 f (leNat sb) code
    | none => return (0, 0)
  else return (widen fmt code, 0)

/-- What R132 asks of a memory instruction of layout M. SADDR belongs to the MX formats: with another format it is ignored, a DESIGN
CHOICE (notes/assumptions/73.md). -/
def mFields (a : MArgs) : Bool :=
  decide (a.n.toNat ≤ 4096) && a.rsv = 0 && fmtVector a.fmt.toNat && decide (a.run.toNat ≤ 4096)
    && memAligned a.fmt.toNat a.addr.toNat a.stride.toInt a.n.toNat a.run.toNat

/-- The elements of an instruction that are active. -/
def activeElems (g : Engine) (n : Nat) (men : Bool) (msk : Nat) : List Nat := (lanes n).filter (vActive g men msk)

/-- Write the results of a load: words by element, inactive ones under MZ (R117). -/
def putLoad (g : Engine) (n : Nat) (men : Bool) (msk : Nat) (mz : Bool) (vd : Nat) (rs : List (Nat × W32 × Flags)) : Engine :=
  let kept := if mz then ((lanes n).filter (fun e => !vActive g men msk e)).map (fun e => (e, (0 : W32))) else []
  addFlags (vPutAll g vd (kept ++ rs.map (fun r => (r.1, r.2.1)))) (rs.foldl (fun f r => f ||| r.2.2) 0)

/-- VLD: strided load with widening (R131). -/
def execVld (t : Nat) (a : MArgs) (s : State) : Out :=
  runEng s t (.vld t a) a.par (fun s c => do
    let g := (getTile s t).eng
    check (mFields a && a.rmode = 0 && a.sat = false && a.site = 0) 0x10
    let tile ← tileField s t c a.tile
    let rs ← (activeElems g a.n.toNat a.men a.msk.toNat).mapM (fun e => do
      let r ← loadElem (engRead s t c tile 0x10) a e
      return (e, r))
    let nar := (activeElems g a.n.toNat a.men a.msk.toNat).filter (fun e => readsNarrow c tile
      (elemBit a.addr.toNat a.stride.toInt (fmtBits a.fmt.toNat) a.n.toNat a.run.toNat e) (fmtBits a.fmt.toNat))
    let g1 := markNarrow (putLoad g a.n.toNat a.men a.msk.toNat a.mz a.vr.toNat rs) a.vr.toNat nar
    return vecCount (putEng s t g1) t (passes a.n.toNat) 0 0)

/-- The address of a byte offset of a tile's Caldera, or cause 0x10 outside it. -/
def storeAt (tile : Nat) (o : Int) (n : Nat) : Except Nat Nat :=
  if o < 0 ∨ (0x400000 : Int) < o + n then .error 0x10 else .ok (calAddr tile o.toNat)

/-- The writes of one element of a format that is not MX; an INT4 element keeps the other half of its byte, as written so
far. -/
def elemWrites (old : Nat → Byte) (tile : Nat) (b : Int) (w code : Nat) (acc : List (Nat × Byte)) :
    Except Nat (List (Nat × Byte)) := do
  let a ← storeAt tile (b / 8) ((w + 7) / 8)
  if w = 4 then
    let o := ((acc.find? (fun x => x.1 = a)).map Prod.snd).getD (old a)
    let v := if b % 8 = 0 then o.toNat / 16 * 16 + code else o.toNat % 16 + 16 * code
    return (a, BitVec.ofNat 8 v) :: acc.filter (fun x => x.1 ≠ a)
  else return (asWrites a (leBytes (w / 8) code)).reverse ++ acc

/-- The writes of a store's elements in order: where STRIDE lays two active elements on one byte, the later element's stays (DESIGN
CHOICE, notes/assumptions/84.md, R131). -/
def storeElems (old : Nat → Byte) (tile : Nat) (a : MArgs) (codes : List (Nat × Nat)) : Except Nat (List (Nat × Byte)) := do
  let w := fmtBits a.fmt.toNat
  let ws ← codes.foldlM (fun acc ec =>
    elemWrites old tile (elemBit a.addr.toNat a.stride.toInt w a.n.toNat a.run.toNat ec.1) w ec.2 acc) []
  return ws.reverse

/-- The writes and flags of one MX block of 32 elements from element e (R45, R131). -/
def blockWrites (x : VCtx) (g : Engine) (a : MArgs) (tile : Nat) (e : Nat) : Except Nat (List (Nat × Byte) × Flags) := do
  let es := addrs e 32
  let modes := es.map (elemMode x g.geom a.n.toNat a.rmode.toNat a.site.toNat)
  let (sc, codes, fl) := mxEncode a.fmt.toNat (es.map (fun k => dec32 (vGet g a.vr.toNat k))) modes
  let w := fmtBits a.fmt.toNat
  let p ← storeAt tile (elemBit a.addr.toNat a.stride.toInt w a.n.toNat a.run.toNat e / 8) (4 * w)
  let q ← storeAt tile (scaleOff a.saddr.toNat a.n.toNat a.run.toNat e) 1
  return (asWrites p (packBits w codes) ++ [(q, BitVec.ofNat 8 sc)], fl)

/-- Does every block of k elements lie in one row (R132)? -/
def blocksInRows (geo : Geom) (n k : Nat) : Bool := n % k = 0 && (decide (n ≤ geoRow geo n) || geoRow geo n % k = 0)

/-- The addresses that a store fills with narrowed values: those of the elements that hold one. -/
def heldNarrow (s : State) (t : Nat) (c : Cmd) (g : Engine) (tile : Nat) (a : MArgs) (es : List Nat) : Except Nat (List Nat) := do
  let ws ← storeElems (cmdByte s t c) tile a ((es.filter (isNarrow g a.vr.toNat)).map (fun e => (e, 0)))
  return ws.map Prod.fst

/-- Those of a VST: a format of 32 bits copies the patterns, every other one narrows each element (R131, R284). -/
def narrowStore (s : State) (t : Nat) (c : Cmd) (g : Engine) (tile : Nat) (a : MArgs) (ws : List (Nat × Byte)) : Except Nat (List Nat) :=
  if fmtBits a.fmt.toNat = 32 then heldNarrow s t c g tile a (activeElems g a.n.toNat a.men a.msk.toNat) else .ok (ws.map Prod.fst)

/-- VST: strided store with narrowing (R131, R132). -/
def execVst (t : Nat) (a : MArgs) (s : State) : Out :=
  runEng s t (.vst t a) a.par (fun s c => do
    let g := (getTile s t).eng
    let x := vctx s c
    let mx := fmtIsMx a.fmt.toNat
    check (mFields a && a.mz = false && rowsOk x g.geom a.n.toNat a.rmode.toNat
      && (!mx || (!a.men && blocksInRows g.geom a.n.toNat 32))) 0x10
    let tile ← tileField s t c a.tile
    let (ws, fl) ← if mx then
        (List.range (a.n.toNat / 32)).foldlM (fun (acc : List (Nat × Byte) × Flags) (k : Nat) => do
          let (w, f) ← blockWrites x g a tile (32 * k)
          pure (acc.1 ++ w, acc.2 ||| f)) ([], 0)
      else do
        let es := activeElems g a.n.toNat a.men a.msk.toNat
        let cs := es.map (fun e => (e, narrowTo a.fmt.toNat
          (elemMode x g.geom a.n.toNat a.rmode.toNat a.site.toNat e) a.sat (vGet g a.vr.toNat e)))
        let ws ← storeElems (cmdByte s t c) tile a (cs.map (fun p => (p.1, p.2.1)))
        pure (ws, cs.foldl (fun f p => f ||| p.2.2) 0)
    let s1 ← storeAs s t c (← narrowStore s t c g tile a ws) ws (addFlags g fl)
    return vecCount s1 t (passes a.n.toNat) 0 0)

/-- Formats of VGATH (R122). -/
def gathFmt (f : Nat) : Bool := [0, 1, 2, 3, 4, 0xA, 0xC].elem f

/-- VGATH: indexed load (R133). With LIM = 0, which 'must not be 0' and has no consequence of its own, every index lies outside the
limit: an active element gives +0 and RANGE, a DESIGN CHOICE (notes/assumptions/73.md). -/
def execVgath (t : Nat) (a : GArgs) (s : State) : Out :=
  runEng s t (.vgath t a) a.par (fun s c => do
    let g := (getTile s t).eng
    check (decide (a.n.toNat ≤ 4096) && a.rsv = 0 && gathFmt a.fmt.toNat) 0x10
    let tile ← tileField s t c a.tile
    let w := fmtBits a.fmt.toNat
    let rs ← (activeElems g a.n.toNat a.men a.msk.toNat).mapM (fun e => do
      let i := (vGet g a.vb.toNat e).toInt
      if i < 0 ∨ (a.lim.toNat : Int) ≤ i then pure (e, ((0 : W32), flRange))
      else do
        let code ← readElem (engRead s t c tile 0x10) ((a.addr.toNat : Int) * 8 + i * (w : Nat)) w
        pure (e, (widen a.fmt.toNat code, (0 : Flags))))
    let n := (rs.filter (fun r => r.2.2 ≠ 0)).length
    let nar := ((activeElems g a.n.toNat a.men a.msk.toNat).filter (fun e =>
      let i := (vGet g a.vb.toNat e).toInt
      decide (0 ≤ i) && decide (i < (a.lim.toNat : Int)) && readsNarrow c tile ((a.addr.toNat : Int) * 8 + i * (w : Nat)) w))
    let g1 := markNarrow (putLoad g a.n.toNat a.men a.msk.toNat a.mz a.vd.toNat rs) a.vd.toNat nar
    return vecCount (putEng s t g1) t (passes a.n.toNat) n 0)

/-- What R132 asks of VLDS and VSTS. DADDR and BADDR are multiples of 4 (R159); one that is not is refused as a field out of range is
(DESIGN CHOICE, notes/assumptions/85.md). -/
def sFields (a : SArgs) (geo : Geom) : Bool :=
  decide (a.n.toNat ≤ 4096) && a.rsv = 0 && fmtAct a.fmt.toNat && blocksInRows geo a.n.toNat 128
    && a.daddr.toNat % 4 = 0 && a.baddr.toNat % 4 = 0

/-- VLDS: load of Sloe blocks through their directory (R134, R159). A block that VSTS wrote holds narrowed values with its entry. -/
def execVlds (t : Nat) (a : SArgs) (s : State) : Out :=
  runEng s t (.vlds t a) a.par (fun s c => do
    let g := (getTile s t).eng
    check (sFields a g.geom && a.rmode = 0 && a.sat = false && a.baddr = 0 && a.site = 0) 0x10
    let tile ← tileField s t c a.tile
    let bs ← (List.range (a.n.toNat / 128)).mapM (fun b =>
      sloeAt (engRead s t c tile 0x10) c.refS a.fmt.toNat (a.daddr.toNat + 4 * b))
    let ws := bs.flatten.map (widen a.fmt.toNat)
    let nar := (lanes ws.length).filter (fun e => readsNarrow c tile (((a.daddr.toNat + 4 * (e / 128) : Nat) : Int) * 8) 32)
    let g1 := markNarrow (vPutAll g a.vr.toNat ((lanes ws.length).zip ws)) a.vr.toNat nar
    return vecCount (putEng s t g1) t (passes a.n.toNat) 0 0)

/-- The writes of VSTS from block b on: each block directly after the previous one, its directory entry at DADDR + 4b. -/
def sloeWrites (tile fmt daddr : Nat) (ref : RefSet) : List (List Nat) → Nat → Nat → Except Nat (List (Nat × Byte))
  | [], _, _ => .ok []
  | es :: rest, b, o => do
    let blk := sloeEncode ref fmt es
    let p ← storeAt tile o blk.length
    let q ← storeAt tile (daddr + 4 * b : Nat) 4
    let r ← sloeWrites tile fmt daddr ref rest (b + 1) (o + blk.length)
    return asWrites p blk ++ asWrites q (leBytes 4 (o / 4 + 2 ^ 20 * (blk.length / 4))) ++ r

/-- The elements of a list in blocks of 128. -/
def blocks128 (l : List Nat) : List (List Nat) := (List.range (l.length / 128)).map (fun b => (l.drop (128 * b)).take 128)

/-- VSTS: narrow, encode as Sloe blocks, write their directory (R134, R159, R161). -/
def execVsts (t : Nat) (a : SArgs) (s : State) : Out :=
  runEng s t (.vsts t a) a.par (fun s c => do
    let g := (getTile s t).eng
    let x := vctx s c
    check (sFields a g.geom && rowsOk x g.geom a.n.toNat a.rmode.toNat) 0x10
    let tile ← tileField s t c a.tile
    let cs := (lanes a.n.toNat).map (fun e => narrowTo a.fmt.toNat
      (elemMode x g.geom a.n.toNat a.rmode.toNat a.site.toNat e) a.sat (vGet g a.vr.toNat e))
    let ws ← sloeWrites tile a.fmt.toNat a.daddr.toNat c.refS (blocks128 (cs.map Prod.fst)) 0 a.baddr.toNat
    let s1 ← storeAs s t c (ws.map Prod.fst) ws (addFlags g (cs.foldl (fun f p => f ||| p.2) 0))
    return vecCount s1 t (passes a.n.toNat) 0 0)

/-- What R282 asks of SST beyond layout M. -/
def sstFields (a : MArgs) (geo : Geom) : Bool :=
  mFields a && fmtAct a.fmt.toNat && a.rmode = 0 && a.sat = false && a.tile = 0x7F && a.men = false && a.mz = false
    && a.msk = 0 && a.saddr = 0 && !geo.nostrm

/-- Drift counts by batch row: elements clamped, elements stored as NaN (R283). -/
def driftOf (geo : Geom) (n : Nat) (es : List (Nat × Bool × Bool)) : List (Nat × Nat × Nat) :=
  ((lanes (geoRows geo n)).map (fun q =>
    let row := es.filter (fun e => e.1 / geoRow geo n = q)
    (geo.row0 + q, (row.filter (fun e => e.2.1)).length, (row.filter (fun e => e.2.2)).length))).filter
      (fun d => d.2.1 ≠ 0 || d.2.2 ≠ 0)

/-- Is the code of an activation format a NaN? -/
def codeNan (fmt code : Nat) : Bool :=
  match fmtFloat fmt with
  | some f => (fdecode f code).isNan
  | none => false

/-- SST: store of state under RMODE STREAM and SAT, with the drift counts (R282, R283). -/
def execSst (t : Nat) (a : MArgs) (s : State) : Out :=
  runEng s t (.sst t a) a.par (fun s c => do
    let g := (getTile s t).eng
    let x := vctx s c
    check (sstFields a g.geom && rowsOk x g.geom a.n.toNat 3) 0x10
    let cs := (lanes a.n.toNat).map (fun e => (e, narrowTo a.fmt.toNat
      (elemMode x g.geom a.n.toNat 3 a.site.toNat e) true (vGet g a.vr.toNat e)))
    let ws ← storeElems (cmdByte s t c) t a (cs.map (fun p => (p.1, p.2.1)))
    let s1 ← storeAs s t c (← heldNarrow s t c g t a (lanes a.n.toNat)) ws (addFlags g (cs.foldl (fun f p => f ||| p.2.2) 0))
    let ds := driftOf g.geom a.n.toNat (cs.map (fun p =>
      (p.1, decide (p.2.2 &&& flSaturate ≠ 0), codeNan a.fmt.toNat p.2.1)))
    return vecCount (setCmd s1 t (fun c => { c with drift := c.drift ++ ds })) t (passes a.n.toNat) 0 0)

end Sys2Proof.Machine
end

