-- ==== Sys2Proof/Machine/Vector.lean ====
section
/-! DEFINITION. The VECTOR instructions on registers and masks (R116 to R130, R136), one meaning for each. -/

namespace Sys2Proof.Machine

/-- The element-wise rounding mode of an instruction of layout V. -/
def vMode (x : VCtx) (a : VArgs) (g : Engine) (e : Nat) : RMode :=
  elemMode x g.geom a.n.toNat a.rmode.toNat a.site.toNat e

/-- VADD: vd = va + vb. -/
def execVadd (t : Nat) (a : VArgs) (s : State) : Out :=
  runVec s t (.vadd t a) a (vFields a { va := true, vb := true }) (fun _ g => plain (vBin a g fadd))

/-- VSUB: vd = va − vb. -/
def execVsub (t : Nat) (a : VArgs) (s : State) : Out :=
  runVec s t (.vsub t a) a (vFields a { va := true, vb := true }) (fun _ g => plain (vBin a g fsub))

/-- VMUL: vd = va × vb. -/
def execVmul (t : Nat) (a : VArgs) (s : State) : Out :=
  runVec s t (.vmul t a) a (vFields a { va := true, vb := true }) (fun _ g => plain (vBin a g fmul))

/-- VFMA: vd = va × vb + vc with one rounding. -/
def execVfma (t : Nat) (a : VArgs) (s : State) : Out :=
  runVec s t (.vfma t a) a (vFields a { va := true, vb := true, vc := true }) (fun _ g => plain (vTri a g ffma))

/-- VDIV: vd = va ÷ vb (R130). -/
def execVdiv (t : Nat) (a : VArgs) (s : State) : Out :=
  runVec s t (.vdiv t a) a (vFields a { va := true, vb := true }) (fun _ g => plain (vBin a g fdiv))

/-- VMIN under R40 and R41. -/
def execVmin (t : Nat) (a : VArgs) (s : State) : Out :=
  runVec s t (.vmin t a) a (vFields a { va := true, vb := true }) (fun _ g => plain (vBin a g fmin))

/-- VMAX under R40 and R41. -/
def execVmax (t : Nat) (a : VArgs) (s : State) : Out :=
  runVec s t (.vmax t a) a (vFields a { va := true, vb := true }) (fun _ g => plain (vBin a g fmax))

/-- VRCP (R59, R130). -/
def execVrcp (t : Nat) (a : VArgs) (s : State) : Out :=
  runVec s t (.vrcp t a) a (vFields a { va := true }) (fun _ g => plain (vUn a g (funary .rcp)))

/-- VRSQRT (R59, R130). -/
def execVrsqrt (t : Nat) (a : VArgs) (s : State) : Out :=
  runVec s t (.vrsqrt t a) a (vFields a { va := true }) (fun _ g => plain (vUn a g (funary .rsqrt)))

/-- VEXP (R59, R130). -/
def execVexp (t : Nat) (a : VArgs) (s : State) : Out :=
  runVec s t (.vexp t a) a (vFields a { va := true }) (fun _ g => plain (vUn a g (funary .exp)))

/-- VEXP2 (R59, R130). -/
def execVexp2 (t : Nat) (a : VArgs) (s : State) : Out :=
  runVec s t (.vexp2 t a) a (vFields a { va := true }) (fun _ g => plain (vUn a g (funary .exp2)))

/-- VLOG (R59, R130). -/
def execVlog (t : Nat) (a : VArgs) (s : State) : Out :=
  runVec s t (.vlog t a) a (vFields a { va := true }) (fun _ g => plain (vUn a g (funary .log)))

/-- VTANH (R59, R130). -/
def execVtanh (t : Nat) (a : VArgs) (s : State) : Out :=
  runVec s t (.vtanh t a) a (vFields a { va := true }) (fun _ g => plain (vUn a g (funary .tanh)))

/-- VSIGM (R59, R130). -/
def execVsigm (t : Nat) (a : VArgs) (s : State) : Out :=
  runVec s t (.vsigm t a) a (vFields a { va := true }) (fun _ g => plain (vUn a g (funary .sigm)))

/-- VGELU (R59, R130). -/
def execVgelu (t : Nat) (a : VArgs) (s : State) : Out :=
  runVec s t (.vgelu t a) a (vFields a { va := true }) (fun _ g => plain (vUn a g (funary .gelu)))

/-- VSILU (R59, R130). -/
def execVsilu (t : Nat) (a : VArgs) (s : State) : Out :=
  runVec s t (.vsilu t a) a (vFields a { va := true }) (fun _ g => plain (vUn a g (funary .silu)))

/-- VABS: the absolute value; a NaN gives the canonical NaN. -/
def execVabs (t : Nat) (a : VArgs) (s : State) : Out :=
  runVec s t (.vabs t a) a (vFields a { va := true }) (fun _ g => plain (vUn a g fabs))

/-- VNEG: the negation; a NaN gives the canonical NaN. -/
def execVneg (t : Nat) (a : VArgs) (s : State) : Out :=
  runVec s t (.vneg t a) a (vFields a { va := true }) (fun _ g => plain (vUn a g fneg))

/-- VCMP: mask bit e = (va SUB vb). -/
def execVcmp (t : Nat) (a : VArgs) (s : State) : Out :=
  runVec s t (.vcmp t a) a (vFields a { va := true, vb := true, sub := true } && decide (a.sub.toNat ≤ 5) && decide (a.vd.toNat < 8)) (fun _ g => plain (mLane a g (fun e => fcmp a.sub.toNat (vGet g a.va.toNat e) (vGet g a.vb.toNat e))))

/-- VSEL: vd = MS bit e ? va : vb. -/
def execVsel (t : Nat) (a : VArgs) (s : State) : Out :=
  runVec s t (.vsel t a) a (vFields a { va := true, vb := true, ms := true }) (fun _ g =>
    plain (vNarrow a g (vLane a g (fun e => (if mGet g a.ms.toNat e then vGet g a.va.toNat e else vGet g a.vb.toNat e, 0)))
      (fun e => if mGet g a.ms.toNat e then isNarrow g a.va.toNat e else isNarrow g a.vb.toNat e)))

/-- VCVT_F2I under R58, RMODE and SITE. -/
def execVcvtF2i (t : Nat) (a : VArgs) (s : State) : Out :=
  runVec s t (.vcvtF2i t a) a (vFields a { va := true, rnd := true }) (fun x g => 
    plain (vLane a g (fun e => f2i (vMode x a g e) (dec32 (vGet g a.va.toNat e)))))

/-- VCVT_I2F, RNE. -/
def execVcvtI2f (t : Nat) (a : VArgs) (s : State) : Out :=
  runVec s t (.vcvtI2f t a) a (vFields a { va := true }) (fun _ g => plain (vUn a g i2f))

/-- VQNT: rounded to FMT under R56 and R57, returned in FP32. -/
def execVqnt (t : Nat) (a : VArgs) (s : State) : Out :=
  runVec s t (.vqnt t a) a (vFields a { va := true, rnd := true, sat := true, fmt := true } && fmtAct a.fmt.toNat) (fun x g =>
    plain (vNarrow a g (vLane a g (fun e => quantWord a.fmt.toNat (vMode x a g e) a.sat (vGet g a.va.toNat e))) (fun _ => true)))

/-- VIADD, saturating. -/
def execViadd (t : Nat) (a : VArgs) (s : State) : Out :=
  runVec s t (.viadd t a) a (vFields a { va := true, vb := true }) (fun _ g => plain (vBin a g iadd))

/-- VISUB, saturating. -/
def execVisub (t : Nat) (a : VArgs) (s : State) : Out :=
  runVec s t (.visub t a) a (vFields a { va := true, vb := true }) (fun _ g => plain (vBin a g isub))

/-- VIMUL: the exact product clamped. -/
def execVimul (t : Nat) (a : VArgs) (s : State) : Out :=
  runVec s t (.vimul t a) a (vFields a { va := true, vb := true }) (fun _ g => plain (vBin a g imul))

/-- VIOTA: IMM + e (SUB = 0) or IMM + p (SUB = 1), saturating. -/
def execViota (t : Nat) (a : VArgs) (s : State) : Out :=
  runVec s t (.viota t a) a (vFields a { sub := true, imm := true } && decide (a.sub.toNat < 2)) (fun _ g => plain (vLane a g (iotaWord a g.geom)))

/-- VRED (R125 to R127). -/
def execVred (t : Nat) (a : VArgs) (s : State) : Out :=
  runVec s t (.vred t a) a (vFields a { va := true, sub := true } && decide (a.sub.toNat ≠ 7)) (fun _ g => redOp a g)

/-- VSCAN (R128). -/
def execVscan (t : Nat) (a : VArgs) (s : State) : Out :=
  runVec s t (.vscan t a) a (vFields a { va := true, sub := true } && [0, 2, 3].elem a.sub.toNat) (fun _ g => plain (prefixOp a g))

/-- VPERM (R129): vd[e] = va[vb[e]]. -/
def execVperm (t : Nat) (a : VArgs) (s : State) : Out :=
  runVec s t (.vperm t a) a (vFields a { va := true, vb := true }) (fun _ g => 
    let pick := fun (e : Nat) => pickLane g a.va.toNat a.n.toNat (vGet g a.vb.toNat e).toInt
    { eng := vLane a g pick, range := countLanes g a (fun e => (pick e).2 ≠ 0), empty := 0 })

/-- VBCI: vd = IMM. -/
def execVbci (t : Nat) (a : VArgs) (s : State) : Out :=
  runVec s t (.vbci t a) a (vFields a { imm := true }) (fun _ g => plain (vLane a g (fun _ => (a.imm, 0))))

/-- VBCE (R129): vd = va[IMM[11:0]]. The other bits of IMM, like IMM[31:1] of MFILL, are no reserved field and are ignored: a DESIGN
CHOICE (notes/assumptions/73.md). -/
def execVbce (t : Nat) (a : VArgs) (s : State) : Out :=
  runVec s t (.vbce t a) a (vFields a { va := true, imm := true }) (fun _ g => 
    let w := pickLane g a.va.toNat a.n.toNat (a.imm.toNat % 4096 : Nat)
    { eng := vLane a g (fun _ => w), range := countLanes g a (fun _ => w.2 ≠ 0), empty := 0 })

/-- VMOV: vd = va, the pattern unchanged. -/
def execVmov (t : Nat) (a : VArgs) (s : State) : Out :=
  runVec s t (.vmov t a) a (vFields a { va := true }) (fun _ g =>
    plain (vNarrow a g (vUn a g (fun w => (w, 0))) (isNarrow g a.va.toNat)))

/-- MAND on masks. -/
def execMand (t : Nat) (a : VArgs) (s : State) : Out :=
  runMask s t (.mand t a) a (vFields a { va := true, vb := true } && decide (a.vd.toNat < 8) && decide (a.va.toNat < 8) && decide (a.vb.toNat < 8)) (fun _ g => plain (mBin a g (· && ·)))

/-- MOR on masks. -/
def execMor (t : Nat) (a : VArgs) (s : State) : Out :=
  runMask s t (.mor t a) a (vFields a { va := true, vb := true } && decide (a.vd.toNat < 8) && decide (a.va.toNat < 8) && decide (a.vb.toNat < 8)) (fun _ g => plain (mBin a g (· || ·)))

/-- MXOR on masks. -/
def execMxor (t : Nat) (a : VArgs) (s : State) : Out :=
  runMask s t (.mxor t a) a (vFields a { va := true, vb := true } && decide (a.vd.toNat < 8) && decide (a.va.toNat < 8) && decide (a.vb.toNat < 8)) (fun _ g => plain (mBin a g xor))

/-- MNOT on masks. -/
def execMnot (t : Nat) (a : VArgs) (s : State) : Out :=
  runMask s t (.mnot t a) a (vFields a { va := true } && decide (a.vd.toNat < 8) && decide (a.va.toNat < 8)) (fun _ g => plain (mLane a g (fun e => !mGet g a.va.toNat e)))

/-- MFILL: mask bits = IMM[0]. -/
def execMfill (t : Nat) (a : VArgs) (s : State) : Out :=
  runMask s t (.mfill t a) a (vFields a { imm := true } && decide (a.vd.toNat < 8)) (fun _ g => plain (mLane a g (fun _ => a.imm.getLsbD 0)))

/-- MPOP: the number of active elements whose mask bit is 1, in element 0. -/
def execMpop (t : Nat) (a : VArgs) (s : State) : Out :=
  runMask s t (.mpop t a) a (vFields a { va := true } && decide (a.va.toNat < 8)) (fun _ g => plain (popOp a g))

/-- VGEOM writes the row geometry (R118). -/
def execVgeom (t : Nat) (a : VGeomArgs) (s : State) : Out :=
  runEng s t (.vgeom t a) a.par (fun s _ =>
    if a.rsv = 0 && decide (a.rowlen.toNat ≤ 4096) then
      .ok (vecCount (setEng s t (fun g => { g with geom :=
        { rowlen := a.rowlen.toNat, row0 := a.row0.toNat, elem0 := a.elem0.toNat, nostrm := a.nostrm } })) t 1 0 0)
    else .error 0x10)

/-- VFCLR clears the VFLAGS bits set in FMASK, once every engine instruction before it has completed (R136). -/
def execVfclr (t : Nat) (a : VFclrArgs) (s : State) : Out :=
  runAfter s t (fun s => runEng s t (.vfclr t a) a.par (fun s _ =>
    if a.rsv = 0 then .ok (vecCount (setEng s t (fun g => { g with flags := g.flags &&& ~~~a.fmask })) t 1 0 0)
    else .error 0x10))

end Sys2Proof.Machine
end

