-- ==== Sys2Proof/Machine/GeyOps.lean ====
section
/-! DEFINITION. Geyser: descriptors, credits, deadlines, the placement map, and the landing of slabs (R224 to R252,
R691). -/

namespace Sys2Proof.Machine

/-! ## Descriptors (R225, R691) -/

/-- The ESIZE of an ENC. -/
def Desc.esize (d : Desc) : Nat := d.codec / 4 % 4

/-- The alignments of R691. -/
def Desc.aligned (d : Desc) (dst : Nat) : Bool :=
  let sa := if d.dec then 4096 else if d.enc || !d.isCopy then 64 else 1
  let da := if d.enc then 4096 else if d.dec || !d.isCopy then 64 else 1
  d.src % sa = 0 && dst % da = 0

/-- LEN is in range; `half` is the half length with TOPAIR. -/
def Desc.lenOk (d : Desc) (half : Option Nat) : Bool :=
  decide (1 ≤ d.len) && (if d.isCopy then decide (d.len ≤ 0x1000000) else d.len % 64 = 0 && decide (d.len ≤ 0x100000))
    && (!(d.enc || d.dec) || d.len % 4096 = 0)
    && (match half with | some h => decide (d.dst % 2 ^ 22 + d.dstLen ≤ h) | none => true)

/-- Do the shards of a ROTATE of g tiles from an address lie on tiles of the job's share: in their Caldera, or in copies of one resident
section that JOB_LOAD laid out below it at the same distance (R231, R243)? -/
def groupHeld (j : Job) (src g : Nat) : Bool :=
  match placeOf src with
  | .caldera t _ => (addrs t g).all j.share.elem
  | _ => j.placed.any (fun p => p.resident && decide (p.addr ≤ src) && decide (src < p.addr + p.len)
      && (List.range g).all (fun i => j.share.elem (p.tile + i)
        && j.placed.any (fun q => q.sect = p.sect && q.tile = p.tile + i && q.addr = p.addr + i * 0x400000)))

/-- The fields of a descriptor obey R225 and R691 (cause 0x23); `held` says that the tiles of a group are of the job's share. -/
def Desc.ok (d : Desc) (held : Nat → Nat → Bool) (half : Option Nat) : Bool :=
  let tp := half.isSome
  !d.rsv && decide (1 ≤ d.kind) && decide (d.kind ≤ 3) && decide (d.codec < 16) && d.codec % 4 ≠ 3
    && (!d.enc || d.esize ≠ 3) && decide (d.depth ≤ 8) && (!d.isCopy || d.depth = 0) && (d.isCopy || tp)
    && d.lenOk half && (!tp || decide (d.dst < 2 ^ 22))
    && (if d.isCopy then d.count = 0 else decide (1 ≤ d.count) && decide (d.count ≤ 2 ^ 24))
    && (if d.kind = 2 then d.sstride % 64 = 0 else d.sstride = 0)
    && ((d.isCopy && !tp) || d.dline = 0)
    && (if d.isRotate then decide (2 ≤ d.group) && decide (d.group ≤ 96) && decide (d.gidx < d.group)
          && held d.src d.group
        else d.group = 0 && d.gidx = 0)
    && d.aligned d.dst

/-- Credits of an XREQ (R245). -/
def Desc.credits (d : Desc) (depth : Nat) : Nat :=
  min (if d.isCopy then cdiv d.len 4096 else depth * cdiv d.len 4096) 16

/-! ## Deadlines (R232, R233) -/

/-- ns of n bytes at a rate in bytes per µs; 0 without a rate. -/
def rateNs (n rate : Nat) : Nat := if rate = 0 then 0 else 1000 * n / rate

/-- k slab periods in ns: the mean of the pair's last four intervals, or LEN ÷ RATE0 before two SWAPs. -/
def periods (d : Desc) (swaps : List Nat) (k : Int) : Int :=
  let n := min (swaps.length - 1) 4
  if n = 0 then (if d.rate0 = 0 then 0 else k * (1000 * d.len : Nat) / (d.rate0 : Int))
  else k * ((swaps.headD 0 - swaps.getD n 0 : Nat) : Int) / (n : Int)

/-- The index of the slab in COMPUTE: the SWAPs since the XREQ, less one. -/
def slabCur (x : Xfer) (p : Pair) : Int := ((p.swaps.length - x.first : Nat) : Int) - 1

/-- The deadline of a transfer's slab in ns of device time. -/
def slabDeadline (x : Xfer) (c : Cmd) (j : Nat) : Int :=
  if !x.topair then (x.queuedAt + x.desc.dline : Nat)
  else match c.pairs[x.pair]? with
    | none => x.queuedAt
    | some p =>
      let ts : Nat := p.swaps.headD c.startTime
      if x.desc.isCopy then (ts + rateNs x.desc.len x.desc.rate0 : Nat)
      else (ts : Int) + periods x.desc p.swaps ((j : Int) - slabCur x p)

/-! ## What the engine reads (R174, R226, R250) -/

/-- A byte as an XREQ of a command reads it: the command's own, or what lies there through the map. -/
def geyByte (s : State) (t : Nat) (c : Cmd) (a : Nat) : Byte := (ownByte s t c a).getD (baseByte s (t / 8) c.part a)

/-- The code of the fault that a command's read of n bytes meets. Bytes of its own are in its WORK or kept with it. -/
def readFault (s : State) (t : Nat) (c : Cmd) (a n : Nat) : Option Nat :=
  (addrs a n).findSome? (fun x =>
    if (ownByte s t c x).isSome then cmdBad s t c x 1
    else (byteFault s (t / 8) c.part x).map (fun e =>
      if e.1 = 0 then abortCode (badCause t e.2) e.2 else abortCode e.1 e.2))

/-! ## Sources and destinations (R226) -/

/-- May a command's XREQ read n bytes at an address: the cause when it may not. -/
def srcCause (s : State) (t : Nat) (c : Cmd) (a : Int) (n : Nat) : Option Nat :=
  if a < 0 then some (abortCode 0x1F 0)
  else
    let a := a.toNat
    if !partOwns s c.part a n then some (abortCode 0x1F a)
    else match placeOf a with
      | .caldera x _ =>
        let last := match placeOf (a + n - 1) with | .caldera y _ => y | _ => x
        if (x = t && last = t && inWork s t a && inWork s t (a + n - 1))
            || (addrs x (last + 1 - x)).all (fun y => ((getJob s c.job).elim [] (·.share)).elem y) then none
        else some (abortCode 0x23 a)
      | _ => none

/-- The bytes of a range that an XREQ reads, or the code of its fault. `err` says that a host read failed. -/
def geyRead (s : State) (t : Nat) (c : Cmd) (a : Int) (n : Nat) (err : Bool) : Except Nat (List Byte) :=
  match srcCause s t c a n with
  | some k => .error k
  | none =>
    let a := a.toNat
    if isHost (placedAt s (t / 8) a) && (err || !hostReadOk s (c.part + 1)) then .error (abortCode 0x22 a)
    else match readFault s t c a n with
      | some k => .error k
      | none => .ok ((addrs a n).map (geyByte s t c))

/-- Unit u of a coded region: its header, and as many bytes of its body as the header says (R174, R227). -/
def readUnit (s : State) (t : Nat) (c : Cmd) (d : Desc) (a : Int) (err : Bool) (u : Nat) : Except Nat (List Byte) := do
  let hdr ← geyRead s t c (a + (d.len + 16 * u : Nat)) 16 err
  gcDecode hdr (← geyRead s t c (a + (4096 * u : Nat)) (gcBodyLen hdr) err)

/-- The raw bytes of slab j: read, and decoded with DEC (R174, R227). -/
def slabBytes (s : State) (t : Nat) (c : Cmd) (d : Desc) (j : Nat) (err : Bool) : Except Nat (List Byte) := do
  let a := d.slabSrc j
  if d.dec then
    match srcCause s t c a d.srcLen with
    | some k => throw k
    | none => return (← (List.range (d.len / 4096)).mapM (readUnit s t c d a err)).flatten
  else geyRead s t c a d.srcLen err

/-- The bytes written for a slab, by offset from the destination: raw, or a coded region with ENC (R170, R173). -/
def slabOut (d : Desc) (raw : List Byte) : List (Nat × Byte) :=
  if d.enc then
    (List.range (d.len / 4096)).flatMap (fun u =>
      let (h, body) := gcEncode d.esize ((raw.drop (4096 * u)).take 4096)
      asWrites (4096 * u) body ++ asWrites (d.len + 16 * u) h)
  else asWrites 0 raw

/-- Bytes of a slab that cross its path at the source: headers and bodies of coded units (R253). -/
def readLen (s : State) (t : Nat) (c : Cmd) (d : Desc) (j : Nat) : Nat :=
  if d.dec then ((List.range (d.len / 4096)).map (fun u =>
    16 + gcBodyLen ((addrs ((d.slabSrc j).toNat + d.len + 16 * u) 16).map (geyByte s t c)))).sum
  else pathBytes s (t / 8) c.part (d.slabSrc j).toNat d.len

/-- Bytes of a slab that a codec keeps off that path. -/
def readSaved (s : State) (t : Nat) (c : Cmd) (d : Desc) (j : Nat) : Nat :=
  if d.dec then d.len - readLen s t c d j else pathSaved s (t / 8) c.part (d.slabSrc j).toNat d.len

/-- The first address of the destination, with TOPAIR in the half that has the FILL role now. -/
def destAddr (t : Nat) (c : Cmd) (x : Xfer) : Nat := descDest t c x.toPair x.desc

/-- Can a byte be written where it is now: a write into a coded unit reads the unit first (R174, R175)? -/
def putFault (s : State) (t : Nat) (c : Cmd) (a : Nat) : Option Nat :=
  match placeFind (getGey s (t / 8)) a with
  | some e => if e.coded then readFault s t c a 1 else none
  | none => none

/-- The writes of a slab under R190, each address checked before any byte is written. -/
def geyWrites (s : State) (t : Nat) (c : Cmd) (ws : List (Nat × Byte)) : Except Nat (State × Cmd) := do
  match ws.findSome? (fun w => if inWork s t w.1 || (copyWin c w.1).isSome then none else putFault s t c w.1) with
  | some k => throw k
  | none => cmdWrites s t c true ws

/-! ## Transfers of a tile -/

/-- Replace the transfers of an engine, with the entries, credits and tags they hold (R244, R247, R513). -/
def setXfers (s : State) (cl : Nat) (f : List Xfer → List Xfer) : State := settleTags (setGey s cl (fun g => putXfers g (f g.xfers)))

def setXfer (s : State) (cl id : Nat) (f : Xfer → Xfer) : State :=
  setXfers s cl (fun xs => xs.map (fun x => if x.id = id then f x else x))

def getXfer (s : State) (cl id : Nat) : Option Xfer := (getGey s cl).xfers.find? (fun x => x.id = id)

/-- Does an earlier transfer of the same command write bytes of a range (R228)? -/
def heldBack (s : State) (t : Nat) (c : Cmd) (id a n : Nat) : Bool :=
  (tileXfers s t).any (fun y => decide (y.id < id) && overlap a n (destAddr t c y) y.desc.dstLen)

/-- Does the source of a transfer, in any of its slabs, overlap the destination of an earlier one that is not complete: it waits (R228)? -/
def srcHeld (s : State) (t : Nat) (c : Cmd) (x : Xfer) : Bool :=
  (tileXfers s t).any (fun y => decide (y.id < x.id) && x.desc.reads 0 (destAddr t c y) y.desc.dstLen)

/-- Entries held by the transactions of killed commands, and by those of commands that run (R246, R257). -/
def drainEntries (g : Gey) : Nat := ((g.xfers.filter (·.cancelled)).map xferEntries).sum
def cmdEntries (g : Gey) : Nat := ((g.xfers.filter (fun x => !x.cancelled)).map xferEntries).sum

/-- Entries that the transactions of a tile hold. -/
def tileEntries (g : Gey) (t : Nat) : Nat := ((g.xfers.filter (fun x => x.tile = t)).map xferEntries).sum

/-- The oldest slab of a transfer that has yet to land. -/
def oldest (x : Xfer) : Nat := x.landed + x.store.length

/-- Where slab j of a transfer is read, the next to issue, and the oldest in flight. -/
def slabAt (s : State) (x : Xfer) (j : Nat) : Nat := placedAt s (x.tile / 8) (x.desc.slabSrc j).toNat
def nextSrc (s : State) (x : Xfer) : Nat := slabAt s x x.issued
def landSrc (s : State) (x : Xfer) : Nat := slabAt s x (oldest x)

/-- Is slab j within the prefetch depth (R237)? -/
def inDepth (x : Xfer) (c : Cmd) (j : Nat) : Bool :=
  x.desc.isCopy || (match c.pairs[x.pair]? with
    | some p => decide ((j : Int) ≤ slabCur x p + x.depth)
    | none => false)

/-- The cluster whose Caldera a read of another cluster reaches: a request on its queue 40 (R224). -/
def remoteOf (cl a : Nat) : Option Nat :=
  match placeOf a with
  | .caldera t _ => if t / 8 = cl then none else some (t / 8)
  | _ => none

/-! ## The order of service (R234) -/

/-- A target of a transfer: bytes of HBM channels, a tile's Caldera write port, a cluster engine's exit onto the die network. -/
inductive Target where
  | hbm (addr len : Nat)
  | port (tile : Nat)
  | exit (cluster : Nat)
  deriving DecidableEq, Repr

/-- The 64 B units of a range. -/
def units64 (a n : Nat) : List Nat := addrs (a / 64) (cdiv (a % 64 + n) 64)

/-- Are two targets one? Of the HBM channels the manual gives no address map: which units share a channel is a free value
(notes/assumptions/75.md). -/
def sameTarget : Target → Target → Bool
  | .hbm a n, .hbm b m => (units64 a n).any (fun u => (units64 b m).any (fun v => decide (Config.hbmChannel u = Config.hbmChannel v)))
  | x, y => x = y

/-- The targets that the next slab of a transfer waits at, with the queue it waits in there: where it is read, with the exit of the
engine there when it lies in another cluster, and where it is written. -/
def targetsOf (s : State) (x : Xfer) : List (Target × Nat) :=
  let cl := x.tile / 8
  let src := nextSrc s x
  let rd := match placeOf src with
    | .hbm n _ => (Target.hbm src x.desc.srcLen, x.queue) :: (if n = cl then [] else [(Target.exit n, x.queue)])
    | .caldera t _ => if t / 8 = cl then [] else [(Target.exit (t / 8), 40)]
    | _ => []
  let wr := if x.topair then [(Target.port x.tile, x.queue)]
    else match placeOf (placedAt s cl x.desc.dst) with
      | .hbm n _ => (Target.hbm (placedAt s cl x.desc.dst) x.desc.dstLen, x.queue) :: (if n = cl then [] else [(Target.exit cl, x.queue)])
      | .caldera t _ => [(Target.port t, x.queue)]
      | _ => [(Target.exit cl, x.queue)]
  rd ++ wr

/-- The deadline of a request, slab j of a transfer: a burst has the earliest of its members (R232, R242). -/
def reqDeadline (s : State) (x : Xfer) (j : Nat) : Int :=
  let own (y : Xfer) (k : Nat) : Int := (getCmd s y.tile).elim 0 (fun c => slabDeadline y c k)
  ((getGey s (x.tile / 8)).xfers.filter (fun y => y.member = some x.id)).foldl (fun d y => min d (own y (oldest y))) (own x j)

/-- Is COMMIT traffic waiting at a target: a command in its commit phase has written a home behind it (R224, R234)? -/
def commitWaits (s : State) (g : Target) : Bool :=
  (List.range 96).any (fun u => (getCmd s u).any (fun c => committing c && (copyBytes c).any (fun w =>
    match placeOf w.1, g with
    | .caldera v _, .port t => decide (v = t) && decide (v ≠ u)
    | .caldera v _, .exit e => decide (u / 8 = e) && decide (v / 8 ≠ e)
    | _, _ => false)))

/-- May slab j = issued of a transfer be issued, but for the order of its targets (R228, R237, R244, R245, R513, R599)? -/
def issuable (s : State) (c : Cmd) (x : Xfer) : Bool :=
  let j := x.issued
  let cl := x.tile / 8
  let g := getGey s cl
  let n := xferEntries { x with issued := j + 1 } - xferEntries x
  !x.cancelled && !x.waiting && x.member.isNone && decide (j < x.desc.slabs) && decide (xferEntries x < max x.held 1)
    && decide (tileEntries g x.tile + n ≤ 352) && decide (cmdEntries g + drainEntries g + n ≤ 2816)
    && (!hostSlab s x j || decide (n ≤ (getPart s c.part).tagsFree))
    && (match remoteOf cl (nextSrc s x) with | some h => decide (sysUsed (getGey s h) + n ≤ 256) | none => true)
    && !stackHeld s (nextSrc s x) && (x.topair || !stackHeld s (placedAt s cl x.desc.dst))
    && !srcHeld s x.tile c x && inDepth x c j

/-- Is a request served before another at a target they share: the earlier deadline, then the lower queue, then the older
request? -/
def served (s : State) (y : Xfer) (qy : Nat) (x : Xfer) (qx : Nat) : Bool :=
  let dy := reqDeadline s y y.issued
  let dx := reqDeadline s x x.issued
  if dy ≠ dx then decide (dy < dx)
  else if qy ≠ qx then decide (qy < qx)
  else if y.queuedAt ≠ x.queuedAt then decide (y.queuedAt < x.queuedAt)
  else decide (y.tile / 8 = x.tile / 8) && decide (y.id < x.id)

/-- Does a request of queue 43 have transactions that wait? -/
def swapWaits (r : SysReq) : Bool := r.queue = 43 && decide (r.entries < r.bursts)

/-- The targets in its stack of a request of queue 43: the pages that it moves there (R249). -/
def swapTargets (s : State) (cl : Nat) (r : SysReq) : List Target :=
  (getKv s r.who).elim [] (fun k => (tGet k.wins r.what).elim [] (fun w => w.moving.filterMap (fun x => (tGet k.recs x).bind (fun q =>
    match placeOf (recAddr k q) with
    | .hbm n _ => if n = cl then some (Target.hbm (recAddr k q) (2 ^ q.pk * frameBytes k.hdr)) else none
    | _ => none))))

/-- Does a waiting swap of some engine go before a slab at a target that both wait at: its deadline is the earlier (R234)? -/
def swapAhead (s : State) (ts : List Target) (d : Int) : Bool :=
  s.geys.zipIdx.any (fun e => e.1.sys.any (fun r =>
    swapWaits r && r.deadline.any (fun n => decide ((n : Int) < d)) && (swapTargets s e.2 r).any (fun g => ts.any (sameTarget g))))

/-- Does another request that waits at a target of the transfer's go first (R234)? -/
def outranked (s : State) (x : Xfer) : Bool :=
  let ts := targetsOf s x
  ts.any (fun g => commitWaits s g.1) || swapAhead s (ts.map Prod.fst) (reqDeadline s x x.issued) || s.geys.any (fun g => g.xfers.any (fun y =>
    !(decide (y.tile / 8 = x.tile / 8) && decide (y.id = x.id))
      && (getCmd s y.tile).any (fun d => issuable s d y)
      && ts.any (fun gx => (targetsOf s y).any (fun gy => sameTarget gx.1 gy.1 && served s y gy.2 x gx.2))))

/-- May the next slab of a transfer be issued? -/
def canIssue (s : State) (c : Cmd) (x : Xfer) : Bool := issuable s c x && !outranked s x

/-- Do slabs or earlier swaps go before the waiting transactions of a window's swap, or does the retraining of a stack hold them
(R234, R599)? A slab of the same deadline waits in a lower queue. -/
def swapHeld (s : State) (j w : Nat) : Bool :=
  s.geys.zipIdx.any (fun e => e.1.sys.any (fun r => swapWaits r && r.who = j && r.what = w && (e.1.held ||
    (let ts := swapTargets s e.2 r
     let d : Int := (r.deadline.getD 0 : Nat)
     swapAhead s ts d || s.geys.any (fun g => g.xfers.any (fun y => (getCmd s y.tile).any (fun c => issuable s c y)
       && decide (reqDeadline s y y.issued ≤ d) && (targetsOf s y).any (fun gy => ts.any (sameTarget gy.1))))))))

/-! ## Landing -/

/-- A fault in a read of another cluster's Caldera is queue 40's at the engine there (R251, R258). -/
def remoteFault (s : State) (cl code : Nat) : State :=
  match remoteOf cl (code / 256) with
  | some h => if code % 256 = 0x21 then geyFault s h 0x21 40 0 else s
  | none => s

/-- A fault of a command's transfer: recorded when its cause is Geyser's (R258), and the task aborts with the instruction index of its XREQ
(R202, R250). -/
def xferFault (s : State) (x : Xfer) (c : Cmd) (code : Nat) : State :=
  abortCmd (noteFault (remoteFault s (x.tile / 8) code) (x.tile / 8) (code % 256) x.queue x.task) x.tile { c with pc := x.pc } code

/-- The stream of the task's row with the earliest chunk deadline (R252). -/
def lateStreamOf (s : State) (x : Xfer) : Nat :=
  if x.desc.stream ≠ 0xFFFFFFFF then x.desc.stream
  else match getTask s x.task with
    | none => 0xFFFFFFFF
    | some k => (k.rows.foldl (fun (m : Option (Nat × Nat)) r =>
        let d := ((getStream s r.stream).bind (fun st => (st.chunks[headIx st]?).bind (·.deadline))).getD (2 ^ 64)
        match m with
        | some p => if d < p.1 then some (d, r.stream) else m
        | none => some (d, r.stream)) none).elim 0xFFFFFFFF Prod.snd

/-- Does the command wait for this landing: a SWAP of the pair that it fills or whose COMPUTE half it reads, XWAIT or COMMIT (R208,
R252)? -/
def waitsFor (c : Cmd) (x : Xfer) : Bool :=
  match c.wait with
  | some (.swap p) => (x.topair && x.pair = p)
      || (c.pairs[p]?).any (fun q => x.desc.reads (oldest x) (calAddr x.tile (computeOff q)) q.len)
  | some .xfer | some .commit => true
  | _ => false

/-- A late landing: counted, and DEADLINE_MISS once per queue and command in a partition with a cycle
table when the program waits for it (R252). -/
def noteLate (s : State) (x : Xfer) (c : Cmd) (ns : Nat) : State :=
  let cl := x.tile / 8
  let st := lateStreamOf s x
  let s1 := countLate s cl st ns
  if (getPart s c.part).table.isSome && waitsFor c x && !c.lateQueues.elem x.queue then
    postPart (setCmd s1 x.tile (fun c => { c with lateQueues := x.queue :: c.lateQueues })) c.part
      { mkEvent 0x03 c.part 0x02 cl with
        job := c.job, task := c.task, stream := st, detail := leBytes 8 ns ++ leBytes 1 x.queue }
  else s1

/-- The offsets of the slab's bytes whose source a narrowing other than SST left in WORK; with a code, those of a 4 KiB unit that holds
one (R284). -/
def narrowOffs (c : Cmd) (x : Xfer) : List Nat :=
  if c.narrowed.isEmpty then []
  else
    let hit := (List.range x.desc.len).filter (fun o => c.narrowed.elem (readAddr c ((x.desc.slabSrc x.landed).toNat + o)))
    if x.desc.enc || x.desc.dec then (List.range x.desc.len).filter (fun o => hit.any (fun h => h / 4096 = o / 4096)) else hit

/-- Narrowed values that a slab copies stay such in WORK, and are unpredictable in a state slot (R284). -/
def noteLoose (c1 c : Cmd) (x : Xfer) (out : List (Nat × Byte)) (t : Nat) : Cmd :=
  let at_ := destAddr t c x
  let as := out.map (fun w => at_ + w.1)
  let nar := narrowOffs c x
  let bad := (out.filter (fun w => nar.elem w.1)).map (fun w => at_ + w.1)
  let c2 := noteStore c1 (bad.filter (fun a => !tHas c1.slotWrites a)) as
  { c2 with loose := (bad.filter (tHas c1.slotWrites)).foldl setIns (c1.loose.filter (fun a => !as.elem a)) }

/-- Write a slab's raw bytes at the destination, and complete the transfer with its last slab: its credits return. -/
def deliver (s : State) (x : Xfer) (c : Cmd) (raw : List Byte) : Except Nat State := do
  let t := x.tile
  let out := slabOut x.desc raw
  let (s1, c1) ← geyWrites s t c (out.map (fun w => (destAddr t c x + w.1, w.2)))
  let s2 := geyAdd (geyAdd (setCmd s1 t (fun _ => noteLoose c1 c x out t)) (t / 8) 1 out.length) (t / 8) 5
    (if x.desc.enc then x.desc.len - out.length else 0)
  let done := decide (x.landed + 1 = x.desc.slabs)
  return if done then
      setCmd (setXfers s2 (t / 8) (fun xs => xs.filter (fun y => y.id ≠ x.id))) t
        (fun c => { c with credits := c.credits - x.held })
    else setXfer s2 (t / 8) x.id (fun y => { y with landed := y.landed + 1, member := none })

/-- The oldest slab in flight leaves the engine that it was read at: a late read of another cluster's Caldera counts there too. -/
def leaveRemote (s : State) (x : Xfer) : State :=
  match remoteOf (x.tile / 8) (landSrc s x) with
  | none => s
  | some h =>
    endSys s h 40 (x.tile / 8) x.id (lateStreamOf s x) (reqDeadline s x (oldest x))

/-- One slab lands: into the FILL half when it is the pair's next slab, else into the slab store (R238). -/
def landSlab (s : State) (x : Xfer) (c : Cmd) (err : Bool) : State :=
  let t := x.tile
  let j := oldest x
  match slabBytes s t c x.desc j err with
  | .error k => xferFault s x c k
  | .ok raw =>
    let s1 := geyAdd (geyAdd (leaveRemote s x) (t / 8) 0 (readLen s t c x.desc j)) (t / 8) 5 (readSaved s t c x.desc j)
    let dl := slabDeadline x c j
    let s2 := if dl < (now s : Int) then noteLate s1 x c ((now s : Int) - dl).toNat else s1
    let next := match c.pairs[x.pair]? with | some p => decide ((j : Int) = slabCur x p + 1) | none => true
    if x.desc.isCopy || next then
      match getCmd s2 t with
      | none => s2
      | some c2 => match deliver s2 x c2 raw with
        | .ok s3 => s3
        | .error k => xferFault s2 x c2 k
    else setXfer s2 (t / 8) x.id (fun y => { y with store := y.store ++ [(j, raw)] })

/-- After a SWAP the next slab moves from the store into the new FILL half (R238). -/
def fillFromStore (s : State) (x : Xfer) (c : Cmd) : State :=
  match x.store with
  | [] => s
  | (_, raw) :: rest => match deliver (setXfer s (x.tile / 8) x.id (fun y => { y with store := rest })) { x with store := rest } c raw with
    | .ok s1 => s1
    | .error k => xferFault s x c k

/-! ## Queueing an XREQ -/

/-- Slab store that a tile's unfinished streams take (R239). -/
def storeUse (xs : List Xfer) : Nat := (xs.map (fun x => if x.desc.isCopy then 0 else (x.depth - 1) * x.desc.len)).sum

/-- The place an address belongs to: a stack, a tile's Caldera, or the way to the host. -/
def levelUnit (a : Nat) : Nat :=
  match placeOf a with
  | .hbm n _ => n
  | .caldera t _ => 100 + t
  | _ => 1000

/-- Are the targets of two ranges the same: of HBM the same channels (R234, R242)? -/
def samePlace (a n b m : Nat) : Bool :=
  let chans (x k : Nat) : List Nat := (units64 x k).map Config.hbmChannel
  levelUnit a = levelUnit b && (decide (12 ≤ levelUnit a)
    || ((chans a n).all (chans b m).elem && (chans b m).all (chans a n).elem))

/-- The partition of a task. -/
def taskPart (s : State) (k : Nat) : Option Nat := ((getTask s k).bind (fun x => getJob s x.job)).map (·.part)

/-- The address that a request writes from. -/
def reqDest (s : State) (x : Xfer) : Nat := (getCmd s x.tile).elim x.desc.dst (fun c => destAddr x.tile c x)

/-- May the next slab of a transfer be merged: it is small, has no codec, and lands at an address, where a stream's later slabs wait in the
slab store (R238, R242)? -/
def mergeable (x : Xfer) (c : Cmd) : Bool :=
  decide (x.issued < x.desc.slabs) && decide (x.desc.len ≤ 4096) && x.desc.codec % 4 = 0
    && (x.desc.isCopy || (c.pairs[x.pair]?).any (fun p => decide ((x.issued : Int) = slabCur x p + 1)))

/-- May a request y merge with the one before it: of one partition, between the same two targets, its ranges following the other's
directly, in a burst of at most 64 KiB (R242)? -/
def mergesWith (s : State) (x y : Xfer) (burst : Nat) : Bool :=
  (getCmd s x.tile).any (mergeable x) && (getCmd s y.tile).any (mergeable y)
    && x.desc.slabSrc x.issued + (x.desc.len : Int) = y.desc.slabSrc y.issued && reqDest s x + x.desc.len = reqDest s y
    && decide (burst + y.desc.len ≤ 0x10000) && samePlace (nextSrc s x) x.desc.len (nextSrc s y) y.desc.len
    && samePlace (reqDest s x) x.desc.len (reqDest s y) y.desc.len && taskPart s x.task = taskPart s y.task

/-- Would merging a request let it read or land before an earlier one of its command that R228 puts first? -/
def jumpsOrder (s : State) (y : Xfer) (burst : List Nat) : Bool :=
  (tileXfers s y.tile).any (fun z => decide (z.id < y.id) && !burst.elem z.id && (getCmd s y.tile).any (fun c =>
    overlap (reqDest s y) y.desc.dstLen (destAddr y.tile c z) z.desc.dstLen || y.desc.reads 0 (destAddr y.tile c z) z.desc.dstLen))

/-- The burst that waits for a successor which a request may join. -/
def openBurst (s : State) (y : Xfer) : Option Nat :=
  let xs := (getGey s (y.tile / 8)).xfers.filter (fun x => !x.cancelled)
  (xs.filter (fun x => x.waiting)).findSome? (fun h =>
    let ms := xs.filter (fun x => x.id = h.id || x.member = some h.id)
    match ms.getLast? with
    | some m => if mergesWith s m y ((ms.map (fun x => x.desc.len)).sum) && !jumpsOrder s y (ms.map (·.id)) then some h.id else none
    | none => none)

/-- Does a small request wait for a successor (R242)? One fabric cycle is 5/8 ns. -/
def waitsMerge (s : State) (x : Xfer) (c : Cmd) : Bool :=
  let g := getGey s (x.tile / 8)
  mergeable x c && decide (0 < g.mergeWait)
    && decide ((now s : Int) + (5 * g.mergeWait / 8 : Nat) < slabDeadline x c x.issued)

/-- The next slab of a transfer joins the burst that waits for it, or waits for a successor itself (R242). -/
def seekBurst (s : State) (cl id : Nat) (c : Cmd) : State :=
  match getXfer s cl id with
  | none => s
  | some x =>
    let h := openBurst s x
    geyAdd (setXfer s cl id (fun y => { y with member := h, waiting := h.isNone && waitsMerge s x c })) cl 3 (b2n h.isSome)

/-- The checks of an XREQ when it is queued (R207, R226, R239, R241, R250). A cause of Geyser is recorded in GEY_FAULT. -/
def xreqCause (s : State) (t : Nat) (c : Cmd) (d : Desc) (pair : Option Nat) (depth : Nat) : Option Nat :=
  let half := pair.bind (fun p => (c.pairs[p]?).map (·.len))
  let xs := tileXfers s t
  if !d.ok ((getJob s c.job).elim (fun _ _ => false) groupHeld) half then some 0x23
  else if pair.isNone && c.pairs.any (fun p => overlap d.dst d.dstLen (calAddr t p.base) (2 * p.len)) then some (abortCode 0x12 d.dst)
  else if pair.isSome && xs.any (fun x => x.topair && some x.pair = pair) then some 0x25
  else if !d.isCopy && decide (0x40000 < (depth - 1) * d.len + storeUse xs) then some 0x24
  else srcCause s t c (d.slabSrc 0) d.srcLen

/-! ## Submission of an XREQ (R209, R245) -/

/-- The queue of an XREQ (R224). -/
def queueOf (t : Nat) (pair : Option Nat) : Nat :=
  match pair with
  | some p => 4 * (t % 8) + p
  | none => 32 + t % 8

/-- A transfer as it is queued. -/
def newXfer (s : State) (t : Nat) (c : Cmd) (d : Desc) (pair : Option Nat) (depth : Nat) : Xfer :=
  { id := (getGey s (t / 8)).nextId, tile := t, task := c.task, desc := d, topair := pair.isSome, pair := pair.getD 0,
    depth := depth, queuedAt := now s, pc := c.pc, queue := queueOf t pair, held := d.credits depth, issued := 0,
    landed := 0, store := [], first := (pair.bind (fun p => c.pairs[p]?)).elim 0 (·.swaps.length), waiting := false,
    member := none, cancelled := false }

/-- Queue a transfer: its first slab joins the burst that waits for it, or waits for a successor itself (R242). -/
def queueXfer (s : State) (x : Xfer) (c : Cmd) : State :=
  let cl := x.tile / 8
  seekBurst (setGey (setXfers s cl (fun xs => xs ++ [x])) cl (fun g => { g with nextId := g.nextId + 1 })) cl x.id c

/-- Do the allowance and the scoreboard cover an XREQ (R209, R245)? -/
def xreqFits (s : State) (t : Nat) (c : Cmd) (d : Desc) (pair : Option Nat) (depth : Nat) : Bool :=
  decide (c.credits + d.credits depth ≤ c.allow) && decide (boardUsed s t + boardNeed d pair.isSome ≤ 64)

/-- Does an XREQ wait for an engine instruction before it: one that has yet to write what it reads, its descriptor among it, or to read
or write what it writes (R209)? -/
def xreqHeld (s : State) (t : Nat) (c : Cmd) (a : XferArgs) (d : Desc) : Bool :=
  let pair := xreqPair a
  c.queue.any (fun e =>
    queueWrites s t c e.instr (calAddr t a.daddr.toNat) 64
      || (List.range d.slabs).any (fun j => decide (0 ≤ d.slabSrc j) && queueWrites s t c e.instr (d.slabSrc j).toNat d.srcLen)
      || queueWrites s t c e.instr (descDest t c pair d) d.dstLen || queueReads s t c e.instr (descDest t c pair d) d.dstLen)

/-- Submit an XREQ to Geyser: its checks, its credits, its queue. A cause of Geyser is recorded in GEY_FAULT (R258). -/
def submitXreq (s : State) (t : Nat) (c : Cmd) (d : Desc) (pair : Option Nat) (depth : Nat) : State :=
  match xreqCause s t c d pair depth with
  | some k =>
    abortCmd (noteFault s (t / 8) (k % 256) (queueOf t pair) c.task) t c k
  | none =>
    let s1 := setCmd s t (fun c => { c with credits := c.credits + d.credits depth })
    queueXfer s1 (newXfer s1 t c d pair depth) c

end Sys2Proof.Machine
end

