-- ==== Sys2Proof/Machine/Xfer.lean ====
section
/-! DEFINITION. XREQ and XWAIT (R178, R185, R209, R225, R245). -/

namespace Sys2Proof.Machine

/-- The prefetch depth of an XREQ: its descriptor's, or the job's (R237). -/
def depthOf (s : State) (c : Cmd) (d : Desc) : Nat := if d.depth = 0 then (getJob s c.job).elim 2 (·.depth) else d.depth

/-- XREQ: read the descriptor and queue its transfer, once credits and the scoreboard cover it and no instruction before it holds it;
until then it waits in the XFER queue while dispatch goes on (R178, R209, R225, R245). -/
def execXreq (t : Nat) (a : XferArgs) (s : State) : Out :=
  runWait s t .queue (fun s c => do
    check (a.rsv = 0 && a.daddr.toNat % 64 = 0) 0x10
    check (!a.topair || decide (a.pair.toNat < c.pairs.length)) 0x16
    if blocked c (.xreq t a) || xreqHeld s t c a (queuedDesc s t c a) then return enqueue s t c (.xreq t a) false
    let d := parseDesc (← seqRead s t c a.daddr.toNat 64)
    check (!a.par) 0x71
    if xreqFits s t c d (xreqPair a) (depthOf s c d) then
      return advance (submitXreq (setCmd s t (fun _ => dispatched c)) t c d (xreqPair a) (depthOf s c d)) t
    else return enqueue s t c (.xreq t a) false)

/-- Has every XREQ of the command completed (R185, R193)? -/
def noXfers (s : State) (t : Nat) (c : Cmd) : Bool :=
  (tileXfers s t).isEmpty && c.queue.all (fun e => decide (classOf e.instr ≠ some .xfer))

/-- XWAIT: waits until every XREQ of the command has completed. -/
def execXwait (t : Nat) (a : XferArgs) (s : State) : Out :=
  runWait s t .xfer (fun s c => do
    check (a.rsv = 0) 0x10
    if noXfers s t c then return advance (setCmd s t dispatched) t
    else return setCmd s t (fun c => { c with phase := .execute, wait := some .xfer }))

end Sys2Proof.Machine
end

