-- ==== Sys2Proof/Machine/EngQ.lean ====
section
/-! DEFINITION. The start of instructions that wait in their queues, and the end of a Fumarole request (R178 to R180, R209, R366). -/

namespace Sys2Proof.Machine

/-- An instruction of a queue as its tile dispatches it. -/
def queuedExec (i : Instr) (s : State) : Out :=
  match i with
  | .mxeWload t a => execMxeWload t a s
  | .mxeMma t a => execMxeMma t a s
  | .mxeDrain t a => execMxeDrain t a s
  | .vadd t a => execVadd t a s
  | .vsub t a => execVsub t a s
  | .vmul t a => execVmul t a s
  | .vfma t a => execVfma t a s
  | .vdiv t a => execVdiv t a s
  | .vmin t a => execVmin t a s
  | .vmax t a => execVmax t a s
  | .vrcp t a => execVrcp t a s
  | .vrsqrt t a => execVrsqrt t a s
  | .vexp t a => execVexp t a s
  | .vexp2 t a => execVexp2 t a s
  | .vlog t a => execVlog t a s
  | .vtanh t a => execVtanh t a s
  | .vsigm t a => execVsigm t a s
  | .vgelu t a => execVgelu t a s
  | .vsilu t a => execVsilu t a s
  | .vabs t a => execVabs t a s
  | .vneg t a => execVneg t a s
  | .vcmp t a => execVcmp t a s
  | .vsel t a => execVsel t a s
  | .vcvtF2i t a => execVcvtF2i t a s
  | .vcvtI2f t a => execVcvtI2f t a s
  | .vqnt t a => execVqnt t a s
  | .viadd t a => execViadd t a s
  | .visub t a => execVisub t a s
  | .vimul t a => execVimul t a s
  | .viota t a => execViota t a s
  | .vred t a => execVred t a s
  | .vscan t a => execVscan t a s
  | .vperm t a => execVperm t a s
  | .vbci t a => execVbci t a s
  | .vbce t a => execVbce t a s
  | .vmov t a => execVmov t a s
  | .mand t a => execMand t a s
  | .mor t a => execMor t a s
  | .mxor t a => execMxor t a s
  | .mnot t a => execMnot t a s
  | .mfill t a => execMfill t a s
  | .mpop t a => execMpop t a s
  | .vgeom t a => execVgeom t a s
  | .vfclr t a => execVfclr t a s
  | .vld t a => execVld t a s
  | .vst t a => execVst t a s
  | .vgath t a => execVgath t a s
  | .vlds t a => execVlds t a s
  | .vsts t a => execVsts t a s
  | .sst t a => execSst t a s
  | .scan t a => execScan t a s
  | .srmask t a => execSrmask t a s
  | .attnInit t a => execAttnInit t a s
  | .attnStep t a => execAttnStep t a s
  | .attnMerge t a => execAttnMerge t a s
  | .attnBinit t a => execAttnBinit t a s
  | .attnBwd t a => execAttnBwd t a s
  | .attnFum t a => execAttnFum t a s
  | .attnFin t a => execAttnFin t a s
  | .xreq t a => execXreq t a s
  | _ => .next s

/-- The command as entry k of its queue finds it: only what stands before the entry holds it, and it is at the entry's index. -/
def entryView (c : Cmd) (k : Nat) (e : QEnt) : Cmd :=
  { c with queue := c.queue.take k, pc := e.pc, loops := [{ lc := 0, first := e.pc, last := e.pc, left := 2 }], wait := none }

/-- Start entry k of a tile's queue; none when it goes on waiting. The program is where it was. -/
def startEntry (s : State) (t : Nat) (c : Cmd) (k : Nat) (e : QEnt) : Option State :=
  match queuedExec e.instr (setCmd s t (fun _ => entryView c k e)) with
  | .next s1 => match getCmd s1 t with
    | none => some s1
    | some d =>
      if d.queue.getLast? = some e && decide (d.queue.length = k + 1) then none
      else some (setCmd s1 t (fun d => { d with
        queue := d.queue ++ c.queue.drop (k + 1), pc := c.pc, loops := c.loops, wait := c.wait }))
  | _ => none

/-- The first entry that can start, started. -/
def startNext (s : State) (t : Nat) (c : Cmd) : Option State :=
  (List.range c.queue.length).findSome? (fun k => (c.queue[k]?).bind (fun e => if e.started then none else startEntry s t c k e))

/-- Start what can start, one after the other. -/
def drainN : Nat → State → Nat → State
  | 0, s, _ => s
  | n + 1, s, t => match (getCmd s t).bind (startNext s t) with
    | some s1 => drainN n s1 t
    | none => s

/-- The instructions of a tile that wait in their queues start as soon as nothing holds them. -/
def drainQueue (s : State) (t : Nat) : State := drainN ((getCmd s t).elim 0 (·.queue.length)) s t

/-- After a throttle level or a clock of a tile has changed: what waited for it starts (R620, R639). -/
def resumeQueues (s0 s : State) : State :=
  let held (s : State) (t : Nat) : Bool := decide (8 ≤ effLevel s (t / 48)) || !clocked s t 1 || !clocked s t 2
  forAll s (List.range 96) (fun s t => if held s0 t && !decide (8 ≤ effLevel s (t / 48)) then drainQueue s t else s)

/-! ## Fumarole's answer -/

/-- Is an entry of a queue the ATTN_FUM that Fumarole serves? -/
def isFum (e : QEnt) : Bool := e.started

/-- Complete the request of a tile: its writes under R190 and its flags. The instructions before it are all that can hold it. -/
def fumFinish (s : State) (t : Nat) (c : Cmd) (off : Nat) : Except Nat State := do
  let c := { c with queue := c.queue.takeWhile (fun e => !isFum e) }
  let q ← fumRequest s t c off
  let (ws, fl) ← fumWork s t c q
  let (n, s1) := fumWaitCycles s q (← fumBlocks s t c q)
  let s2 ← storeEng s1 t c ws (addFlags (getTile s t).eng fl)
  return setTile s2 t (fun x => { x with attCnt := cntAt x.attCnt 3 n })

/-- The index of the ATTN_FUM that Fumarole serves. -/
def fumPc (c : Cmd) : Nat := (c.queue.find? isFum).elim c.pc (·.pc)

/-- FUMAROLE_DONE: the die's Fumarole completes the oldest request; its ATTN_FUM is done, and what waited behind it starts (R180, R366). -/
def execFumaroleDone (die : Nat) (s : State) : Out :=
  .next (match (getDie s die).fumQ with
    | [] => s
    | r :: rest =>
      let s1 := setDie s die (fun d => { d with fumQ := rest })
      match getCmd s1 r.tile with
      | none => s1
      | some c => match fumFinish s1 r.tile c r.off with
        | .ok s2 => drainQueue (setCmd s2 r.tile (fun d => { d with queue := c.queue.filter (fun e => !isFum e) })) r.tile
        | .error k => if k = heldCode then s else abortCmd s1 r.tile { c with pc := fumPc c } k)

end Sys2Proof.Machine
end

