-- ==== Sys2Proof/Machine/Geyser.lean ====
section
/-! DEFINITION. What Geyser does on its own: issuing slabs, ending merge waits, landing transactions, and moving data between
levels (R229, R230, R237, R242, R244, R248, R251). -/

namespace Sys2Proof.Machine

/-- Run an update on a transfer of a cluster whose command runs. -/
def onXfer (s : State) (cl id : Nat) (f : Xfer → Cmd → State) : Out :=
  .next (match getXfer s cl id with
    | none => s
    | some x => match getCmd s x.tile with
      | some c => if x.cancelled then s else f x c
      | none => s)

/-- Issue the next slab of a transfer, with those of its burst: its transactions take their entries, and those on another cluster's queue 40
system entries there (R224, R242, R244). -/
def issueSlab (s : State) (cl : Nat) (x : Xfer) : State :=
  let n := xferEntries { x with issued := x.issued + 1 } - xferEntries x
  let s1 := setXfers s cl (fun xs => xs.map (fun y =>
    if y.id = x.id || (y.member = some x.id && inFlight y = 0) then { y with issued := y.issued + 1 } else y))
  let s2 := geyAdd s1 cl 2 (slabBursts x)
  match remoteOf cl (nextSrc s x) with
  | some h => geyAdd (addSys s2 h { queue := 40, who := cl, what := x.id, deadline := none, bursts := slabBursts x, entries := n }) h 2
      (slabBursts x)
  | none => s2

/-- SLAB_ISSUE: a slab within the prefetch depth, or a COPY, issues when credits and entries allow (R237, R245). -/
def execSlabIssue (cluster : Nat) (xid : Nat) (s : State) : Out :=
  onXfer s cluster xid (fun x c => if canIssue s c x then issueSlab s cluster x else s)

/-- MERGE_WAIT_EXPIRY: the wait of a small request ends, and its burst issues (R242). -/
def execMergeWaitExpiry (cluster : Nat) (xid : Nat) (s : State) : Out :=
  onXfer s cluster xid (fun x c =>
    if x.waiting then
      let s1 := setXfer s cluster xid (fun y => { y with waiting := false })
      if canIssue s1 c { x with waiting := false } then issueSlab s1 cluster x else s1
    else s)

/-- Count a corrected error of a unit (R668). -/
def addCorr (s : State) (utype unit a : Nat) (syn : W32) : State :=
  if s.corr.any (fun c => c.utype = utype && c.unit = unit) then
    { s with corr := s.corr.map (fun c => if c.utype = utype && c.unit = unit
        then { c with count := c.count + 1, addr := a, syndrome := syn } else c) }
  else { s with corr := s.corr ++ [{ utype := utype, unit := unit, count := 1, addr := a, syndrome := syn, lastPost := none }] }

/-- Corrected sectors of a stack within the last second (R647). -/
def recent (s : State) (l : List Nat) : List Nat := l.filter (fun t => decide (now s < t + 1000000000))

/-- A read of a stack or of a tile's Caldera was corrected: it counts for its unit, and a sector of a stack for its retraining (R645 to
R647, R668). -/
def noteCorrected (s : State) (a : Nat) (syn : W32) : State :=
  match placeOf a with
  | .hbm n _ => setSlice (addCorr s 0x03 n a syn) n (fun x => { x with corrected := recent s x.corrected ++ [now s] })
  | .caldera t _ => addCorr s 0x01 t a syn
  | _ => s

/-- What a read finds, other than a clean word. -/
def noteFound (s : State) (a : Nat) : EccResult → State
  | .clean => s
  | .corrected syn => noteCorrected s a syn
  | .uncorrectable _ => noteBad s a

/-- The oldest slab in flight of a cancelled transfer lands where nothing reads it, and its entries free (R246). -/
def landCancelled (s : State) (cl : Nat) (x : Xfer) : State :=
  let s1 := dropSys s ((remoteOf cl (landSrc s x)).getD 12) 40 cl x.id
  if inFlight x ≤ 1 then setXfers s1 cl (fun xs => promote (xs.filter (fun y => y.id ≠ x.id)))
  else setXfer s1 cl x.id (fun y => { y with landed := y.landed + 1 })

/-- A transfer's next slab lands. -/
def landOne (s : State) (cl id : Nat) (err : Bool) : State :=
  match getXfer s cl id with
  | none => s
  | some x =>
    if x.cancelled then landCancelled s cl x
    else match getCmd s x.tile with
      | none => s
      | some c => drainQueue (landSlab s x c err) x.tile

/-- When the tile asked for slab j of a transfer: with its XREQ, or with the SWAP that brought it within the prefetch depth (R237). -/
def askedAt (x : Xfer) (c : Cmd) (j : Nat) : Nat :=
  if x.desc.isCopy || decide (j < x.depth) then x.queuedAt
  else (c.pairs[x.pair]?).elim x.queuedAt (fun p => p.swaps.reverse.getD (x.first + j - x.depth) x.queuedAt)

/-- Did the tile ask for slab i of a transfer before slab j of another? -/
def askedFirst (y : Xfer) (i : Nat) (x : Xfer) (j : Nat) (c : Cmd) : Bool :=
  decide (askedAt y c i < askedAt x c j) || (askedAt y c i = askedAt x c j && decide (y.id < x.id))

/-- Is a read of the same place, for which the same tile asked before, yet to be delivered (R19)? One that R228 holds back has not
been issued. -/
def readBehind (s : State) (x : Xfer) (burst : List Nat) : Bool :=
  (getCmd s x.tile).any (fun c => (tileXfers s x.tile).any (fun y => !burst.elem y.id
    && (addrs (oldest y) (y.desc.slabs - oldest y)).any (fun i => inDepth y c i && (decide (i < y.issued) || !srcHeld s x.tile c y)
      && askedFirst y i x (oldest x) c && overlap (slabAt s y i) y.desc.srcLen (landSrc s x) x.desc.srcLen)))

/-- The members of a transfer's burst that are in flight with it. -/
def burstOf (s : State) (x : Xfer) : List Xfer :=
  (getGey s (x.tile / 8)).xfers.filter (fun y => y.member = some x.id && decide (0 < inFlight y))

/-- May a transaction of a transfer land now: it is in flight, no earlier transfer writes the same bytes, and no earlier read of the same
place is outstanding, for itself and the members of its burst (R19, R228)? -/
def canLand (s : State) (x : Xfer) : Bool :=
  let b := burstOf s x
  decide (0 < inFlight x) && x.member.isNone && (x :: b).all (fun y => y.cancelled
    || (!readBehind s y (x.id :: b.map (·.id)) && (y.topair || (match getCmd s y.tile with
        | some c => !heldBack s y.tile c y.id y.desc.dst y.desc.dstLen
        | none => false))))

/-- TRANSACTION_LANDED: the last byte of a transfer's oldest slab in flight lands, with the members of its burst, and its host tags are
free. `found` says whether its read was corrected, or failed: a host read (R250), or a word that is uncorrectable from now on (R650). -/
def execTransactionLanded (cluster : Nat) (xid : Nat) (found : EccResult) (s : State) : Out :=
  .next (match getXfer s cluster xid with
    | none => s
    | some x =>
      if !canLand s x then s
      else
        let err := match found with | .uncorrectable _ => true | _ => false
        let s1 := landOne (noteFound s (landSrc s x) found) cluster xid err
        let s2 := forAll s1 ((burstOf s x).map (·.id)) (fun s m => landOne s cluster m err)
        (partOfSlice s cluster).elim s2 (fun p => releaseHeld s2 (p + 1)))

/-! ## Moves between levels -/

/-- The level of an address (R21). -/
def levelOf (a : Nat) : Nat :=
  match placeOf a with
  | .caldera _ _ => 1
  | .hbm _ _ => 2
  | _ => 3

/-- Ranges that no move may touch: the frames, resident regions and KV frames of the partition's jobs (R22, R231, R378). -/
def fixedRanges (s : State) (p : Nat) : List (Nat × Nat) :=
  (partJobs s p).flatMap (fun e =>
    if e.2.state = .tornDown then []
    else e.2.share.map (fun t => (calAddr t e.2.base, e.2.hdr.frame)) ++ (e.2.placed.filter (·.resident)).map (fun x => (x.addr, x.len))
      ++ e.2.kv.elim [] kvFixed)

/-- The smallest aligned range that covers two, as its base and exponent. -/
def coverOf (b k b' k' : Nat) : Option (Nat × Nat) :=
  ((List.range 31).find? (fun j => decide (max k k' ≤ j) && decide (b / 2 ^ j = b' / 2 ^ j))).map (fun j => (b / 2 ^ j * 2 ^ j, j))

/-- The range that a move redirects: its own, or without a free entry the smallest that covers it and an existing entry (R230). -/
def redirected (s : State) (p base k dest : Nat) (coded : Bool) : Nat × Nat :=
  if mapRoom s p base k dest coded then (base, k)
  else
    let es := (partClusters s p).flatMap (fun c => (getGey s c).place)
    (es.filterMap (fun e => coverOf base k e.base e.k)).foldl (fun (m : Nat × Nat) (r : Nat × Nat) =>
      if m.2 = k || decide (r.2 < m.2) then r else m) (base, k)

/-- May Tyrax start a move (R229, R230): an aligned range of the partition that no other move touches, to a place of the partition that it
may write and that no job and no other range takes, with room in the map, while no retraining holds a stack of it? -/
def canMove (s : State) (p base k dest : Nat) (coded : Bool) : Bool :=
  let n := moveLen k coded
  decide (16 ≤ k) && decide (k ≤ 30) && base % 2 ^ k = 0 && dest % 4096 = 0
    && partOwns s p base (2 ^ k) && partOwns s p dest n
    && !(isHost dest && (funcRegions s (p + 1)).any (fun r => regReadonly r && overlap dest n r.dpa r.len))
    && !(fixedRanges s p).any (fun r => overlap base (2 ^ k) r.1 r.2)
    && (dest = base || !((partJobs s p).flatMap (fun e => jobRanges e.2)).any (fun r => overlap dest n r.1 r.2))
    && (partClusters s p).all (fun c =>
      !((getGey s c).place.filter (fun e => !inside e.base (2 ^ e.k) base (2 ^ k))).any
          (fun e => overlap dest n e.dest (moveLen e.k e.coded)))
    && !s.moves.any (fun m => overlap base (2 ^ k) m.base (2 ^ m.k) || overlap dest n m.dest (moveLen m.k m.coded))
    && mapRoom s p base k dest coded
    && !stackHeld s dest && !(addrs 0 (2 ^ k / 4096)).any (fun u => stackHeld s (placedAt s ((partClusters s p).headD 0) (base + 4096 * u)))

/-- The move of a range to a place that is waiting for a command boundary. -/
def waitingMove (s : State) (cl p base k dest : Nat) (coded : Bool) : Option Move :=
  s.moves.find? (fun m => m.part = p && m.cluster = cl && m.dest = dest && m.coded = coded && inside base (2 ^ k) m.base (2 ^ m.k))

/-- One event of a move: it starts, or, copied already, it finishes at a command boundary; an error ends it (R230, R251). A move that
reads or writes host memory waits for a tag (R513). -/
def moveEvent (s : State) (cl p base k dest : Nat) (coded : Bool) (err : Option Nat) : State :=
  match waitingMove s cl p base k dest coded with
  | some m => if err.isSome then spillFault { s with moves := s.moves.filter (· ≠ m) } cl p ((moveFault s m m.marked err).getD (0x22, m.dest))
    else finishMoves s p
  | none =>
    let r := redirected s p base k dest coded
    let m : Move := { part := p, cluster := cl, base := r.1, k := r.2, dest := dest, coded := coded, marked := [] }
    let us := List.range (2 ^ r.2 / 4096)
    if !canMove s p r.1 r.2 dest coded then s
    else match moveFault s m us err with
      | some f => spillFault s cl p f
      | none => if (isHost dest || us.any (fun u => isHost (placedAt s cl (r.1 + 4096 * u)))) && !tagFree s (p + 1) then s else startMove s m

/-- PLACEMENT_MOVE: Tyrax moves a range, and switches its placement entry at a command boundary of the partition (R230). -/
def execPlacementMove (cluster : Nat) (base : Nat) (k : Nat) (dest : Nat) (how : MoveHow) (s : State) : Out :=
  .next ((partOfSlice s cluster).elim s (fun p => moveEvent s cluster p base k dest how.coded how.err))

/-- Does the slice of a cluster hold an address: its stack or its Caldera? Host memory lies in no slice (R248). -/
def sliceHolds (cl a : Nat) : Bool := match sliceOf a with | some n => n = cl | none => true

/-- SPILL_MOVE: queue 42 of the engine whose slice holds the source demotes a range as a coded region, or promotes it (R248). -/
def execSpillMove (cluster : Nat) (base : Nat) (k : Nat) (dest : Nat) (err : Option Nat) (s : State) : Out :=
  .next ((partOfSlice s cluster).elim s (fun p =>
    let src := placedAt s cluster base
    if sliceHolds cluster src then moveEvent s cluster p base k dest (decide (levelOf src < levelOf dest)) err else s))

end Sys2Proof.Machine
end

