-- ==== Sys2Proof/Machine/PageOps.lean ====
section
/-! DEFINITION. The page unit's work on key blocks: page images, flushes, copies, eviction, shrinking, swap images, and the
prefix tree (R380 to R411). -/

namespace Sys2Proof.Machine

/-! ## Images (R339, R377) -/

/-- Bytes of an element, of an image, the offset of the V section. -/
def kvEb (h : KvHdr) : Nat := fmtBits h.fmt / 8
def imgBytes (h : KvHdr) : Nat := keyBlockLen (dhOf h.dhc) h.fmt
def vSection (h : KvHdr) : Nat := 64 + 128 * dhOf h.dhc * kvEb h

/-- Address of head hd's image of frame m of a run of frames. -/
def imgAddr (h : KvHdr) (base m hd : Nat) : Nat := base + m * frameBytes h + hd * imgBytes h

/-- The heads of a layer. -/
def heads (h : KvHdr) : List Nat := List.range h.nkvh

/-- What a page-unit operation ends in when it cannot go on: no frames, or a word (cause 0) or a coded unit that cannot be read, or a host
read that fails. -/
inductive PageStop where
  | noFrames
  | bad (cause addr : Nat)
  deriving DecidableEq, Repr

/-- The cluster whose engine the page unit's transfers of a function's partition use: every engine of a partition holds the
same placement map. -/
def pageCluster (s : State) (fn : Nat) : Nat := ((List.range 12).find? (bitAt (getPart s (fn - 1)).slices)).getD 0

/-- Committed bytes of memory as the page unit reads them, through the placement map (R229). -/
def pageRead (s : State) (fn a n : Nat) : Except PageStop (List Byte) :=
  let cl := pageCluster s fn
  if isHost (placedAt s cl a) && !hostReadOk s fn then .error (.bad 0x22 a)
  else match rangeFault s cl (fn - 1) a n with
    | some f => .error (.bad f.1 f.2)
    | none => .ok ((addrs a n).map (baseByte s cl (fn - 1)))

def pageWrite (s : State) (fn a : Nat) (bs : List Byte) : State :=
  let g := getGey s (pageCluster s fn)
  if g.place.any (fun e => overlap a bs.length e.base (2 ^ e.k)) then
    (asWrites a bs).foldl (fun s w => placedWrite s fn g w.1 w.2) s
  else dpaPut s fn a bs

/-- Copy n key slots of one head's image, from slot a of one image to slot b of another: K rows and V values. -/
def copySlots (s : State) (fn : Nat) (h : KvHdr) (src a dst b n : Nat) : Except PageStop State := do
  let dh := dhOf h.dhc
  let e := kvEb h
  let ks ← pageRead s fn (src + 64 + a * dh * e) (n * dh * e)
  let vs ← (List.range dh).mapM (fun d => pageRead s fn (src + vSection h + d * 128 * e + a * e) (n * e))
  let s1 := pageWrite s fn (dst + 64 + b * dh * e) ks
  return ((List.range dh).zip vs).foldl (fun s dv => pageWrite s fn (dst + vSection h + dv.1 * 128 * e + b * e) dv.2) s1

/-- A header of an image that no flush has reached: every group ABSENT, KCNT 0 (R388). -/
def freshHeader (h : KvHdr) : List Byte :=
  (List.range 8).flatMap (fun _ => leBytes 4 (2 ^ 31)) ++ leBytes 2 0 ++ leBytes 1 h.fmt ++ leBytes 1 h.dhc
    ++ List.replicate 28 0

/-- Write fresh headers over every image of a run of n frames. -/
def freshImages (s : State) (fn : Nat) (h : KvHdr) (base n : Nat) : State :=
  (List.range n).foldl (fun s m => (heads h).foldl (fun s hd => pageWrite s fn (imgAddr h base m hd) (freshHeader h)) s) s

/-- Write the position base of a group, in every head's image of a frame. -/
def putGroup (s : State) (fn : Nat) (h : KvHdr) (base m g v : Nat) : State :=
  (heads h).foldl (fun s hd => pageWrite s fn (imgAddr h base m hd + 4 * g) (leBytes 4 v)) s

def putKcnt (s : State) (fn : Nat) (h : KvHdr) (base m v : Nat) : State :=
  (heads h).foldl (fun s hd => pageWrite s fn (imgAddr h base m hd + 32) (leBytes 2 v)) s

/-- The groups present in a page: image, group, first position. -/
def pageGroups (s : State) (fn : Nat) (k : KvJob) (r : PageRec) : Except PageStop (List (Nat × Nat × Nat)) := do
  let ms ← (List.range (2 ^ r.pk)).mapM (fun m => do
    let b ← pageRead s fn (imgAddr k.hdr (recAddr k r) m 0) 64
    return ((List.range 8).filter (fun g => leAt b (4 * g) 4 < 2 ^ 31 && decide (16 * g < leAt b 32 2))).map
      (fun g => (m, g, leAt b (4 * g) 4 % 2 ^ 20)))
  return ms.flatten

/-! ## Allocation and copies (R383, R392) -/

/-- Map a record at page i of a layer; the lead image at pages 0 to 3 (R381). -/
def mapPage (s : State) (j w layer i x : Nat) : State :=
  setWin s j w (fun v => { v with
    pages := (if i ≤ 3 then [0, 1, 2, 3] else [i]).foldl (fun p i => tPut p (pageKey layer i) x) v.pages })

/-- The home slice of a window's stream (R383). -/
def homeSlice (s : State) (v : Window) : Nat := (getStream s v.stream).elim 0 (fun st => st.home / 8)

/-- The record mapped at page i of a layer. -/
def pageRec (s : State) (j w layer i : Nat) : Option (Nat × PageRec) :=
  (getKv s j).bind (fun k => (tGet k.wins w).bind (fun v => (tGet v.pages (pageKey layer i)).bind (fun x =>
    (tGet k.recs x).map (fun r => (x, r)))))

/-- Allocate page i of a layer when it is unmapped (R388). -/
def ensurePage (s : State) (fn j w layer i : Nat) : Except PageStop State :=
  match pageRec s j w layer i, (getKv s j).bind (fun k => tGet k.wins w) with
  | some _, _ => .ok s
  | none, none => .ok s
  | none, some v =>
    match allocPage s j (homeSlice s v) (pagePk i) (decide (i ≤ 3)) with
    | (none, _) => .error .noFrames
    | (some x, s1) => match getKv s1 j with
      | none => .ok s1
      | some k => match tGet k.recs x with
        | none => .ok s1
        | some r => .ok (mapPage (freshImages s1 fn k.hdr (recAddr k r) (2 ^ r.pk)) j w layer i x)

/-- Make page i of a layer writable in place: a page with another holder or a reader is copied first (R392). -/
def ownPage (s : State) (fn j w layer i : Nat) : Except PageStop State :=
  match pageRec s j w layer i, (getKv s j).bind (fun k => tGet k.wins w), getKv s j with
  | some (x, r), some v, some k =>
    if r.ref = 1 && r.pin = 0 then .ok s
    else match allocPage s j (homeSlice s v) r.pk r.lead with
      | (none, _) => .error .noFrames
      | (some y, s1) => do
        let bs ← pageRead s1 fn (recAddr k r) (2 ^ r.pk * frameBytes k.hdr)
        let s2 := setRec s1 j y (fun q => { q with live := r.live, shrunk := r.shrunk })
        let d := ((getKv s2 j).bind (fun k => (tGet k.recs y).map (recAddr k))).getD 0
        let s3 := mapPage (pageWrite s2 fn d bs) j w layer i y
        return kvAdd (dropRef s3 j x) (fn - 1) 1 1
  | _, _, _ => .ok s

/-! ## Eviction (R402 to R404) -/

/-- The score of group g of a layer in the active slot, NaN as +0 (R401, R403). -/
def groupScore (s : State) (fn : Nat) (x : Job) (k : KvJob) (slot layer g : Nat) : Except PageStop W32 := do
  let off := (x.decl.bind (fun d => d.tensors[k.hdr.score0 + layer]?)).elim 0 (·.offset)
  let b ← pageRead s fn (slot + off + 2 * g) 2
  let w : W32 := BitVec.ofNat 32 (leNat b * 2 ^ 16)
  return if (dec32 w).isNan then 0 else w

/-- The key E of a group of first position p (R403). -/
def evictKey (h : KvHdr) (kvlen p : Nat) (score : W32) : W32 :=
  let q := (fdiv (i2f (BitVec.ofInt 32 (-((kvlen - p : Nat) : Int)))).1 (i2f (BitVec.ofNat 32 h.rhalf)).1).1
  (fadd score (fmul h.rw (funary .exp2 q).1).1).1

/-- Order of eviction: the lesser key, then the lower position. -/
def evictBefore (a b : Nat × W32) : Bool :=
  let x := dropZeroSign (dec32 a.2)
  let y := dropZeroSign (dec32 b.2)
  fltX x y || (!fltX y x && decide (a.1 < b.1))

def insertEvict (a : Nat × W32) : List (Nat × W32) → List (Nat × W32)
  | [] => [a]
  | b :: r => if evictBefore a b then a :: b :: r else b :: insertEvict a r

/-- Pages of a layer that hold positions below n. -/
def pagesBelow (n : Nat) : List Nat :=
  (List.range 264).filter (fun i => (i = 3 || decide (4 ≤ i)) && decide ((if i = 3 then 0 else pageStart i) < n))

/-- Groups present in a layer below position n: page and first position. -/
def presentBelow (s : State) (fn j w layer n : Nat) : Except PageStop (List (Nat × Nat)) := do
  let ls ← (pagesBelow n).mapM (fun i => match pageRec s j w layer i, getKv s j with
    | some (_, r), some k => do
      let gs ← pageGroups s fn k r
      return (gs.filter (fun g => decide (g.2.2 < n))).map (fun g => (i, g.2.2))
    | _, _ => .ok [])
  return ls.flatten

/-- Evict the group of a position from page i of a layer (R404). -/
def evictGroup (s : State) (fn j w layer i p : Nat) : Except PageStop State := do
  let s1 ← ownPage s fn j w layer i
  match pageRec s1 j w layer i, getKv s1 j with
  | some (x, r), some k => do
    let gs ← pageGroups s1 fn k r
    match gs.find? (fun g => g.2.2 = p) with
    | none => return s1
    | some (m, g, _) =>
      let s2 := putGroup s1 fn k.hdr (recAddr k r) m g (2 ^ 31 + if m + 1 = 2 ^ r.pk then p else 0)
      return kvAdd (setRec s2 j x (fun q => { q with live := q.live - 1 })) (fn - 1) 2 1
  | _, _ => return s1

/-- The least PK whose images hold n groups. -/
def leastPk (n : Nat) : Nat := ((List.range 6).find? (fun pk => decide (n ≤ 8 * 2 ^ pk))).getD 5

/-- Shrink page i of a layer when it is fully flushed and at most half full; skipped without frames (R404). -/
def shrinkPage (s : State) (fn j w layer kvlen i : Nat) : Except PageStop State :=
  match pageRec s j w layer i, (getKv s j).bind (fun k => tGet k.wins w), getKv s j with
  | some (x, r), some v, some k =>
    if kvlen < pageStart i + pageSize i || r.pk = 0 || 4 * 2 ^ r.pk < r.live then .ok s
    else match allocPage s j (homeSlice s v) (leastPk r.live) false with
      | (none, _) => .ok s
      | (some y, s1) => do
        let gs ← pageGroups s1 fn k r
        let d := ((getKv s1 j).bind (fun k => (tGet k.recs y).map (recAddr k))).getD 0
        let s2 := freshImages s1 fn k.hdr d (2 ^ leastPk r.live)
        let s3 ← ((List.range gs.length).zip gs).foldlM (fun s ng => do
          let m := ng.1 / 8
          let g := ng.1 % 8
          let t ← (heads k.hdr).foldlM (fun s hd =>
            copySlots s fn k.hdr (imgAddr k.hdr (recAddr k r) ng.2.1 hd) (16 * ng.2.2.1) (imgAddr k.hdr d m hd) (16 * g) 16) s
          return putKcnt (putGroup t fn k.hdr d m g ng.2.2.2) fn k.hdr d m (16 * (g + 1))) s2
        let s4 := setRec s3 j y (fun q => { q with live := gs.length, shrunk := true })
        return kvAdd (dropRef (mapPage s4 j w layer i y) j x) (fn - 1) 3 1
  | _, _, _ => .ok s

/-- The eviction pass of a layer (R402, R404). -/
def evictPass (s : State) (fn j w layer kvlen slot : Nat) : Except PageStop State :=
  match getJob s j, getKv s j with
  | some x, some k => do
    let n := 128 * (kvlen / 128)
    let ps ← presentBelow s fn j w layer n
    let g := n / 16
    let keep := max 32 (cdiv (g * k.hdr.keep) 16)
    let keyed ← (ps.filter (fun e => decide (512 ≤ e.2))).mapM (fun e => do
      let sc ← groupScore s fn x k slot layer (e.2 / 16)
      return (e.1, e.2, evictKey k.hdr kvlen e.2 sc))
    let order := keyed.foldr (fun e l => insertEvict (e.2.1, e.2.2) l) []
    let out := (order.take (ps.length - keep)).map Prod.fst
    let s1 ← (keyed.filter (fun e => out.elem e.2.1)).foldlM (fun s e => evictGroup s fn j w layer e.1 e.2.1) s
    (pagesBelow n).foldlM (fun s i => shrinkPage s fn j w layer kvlen i) s1
  | _, _ => .ok s

/-! ## Flushes (R388) -/

/-- Flush run `run` of a layer. -/
def flushLayer (s : State) (fn j w run kvlen slot layer : Nat) : Except PageStop State := do
  let i := if run ≤ 1 then 3 else pageOf (64 * run)
  let b := if run ≤ 1 then 0 else pageStart i
  let s1 ← ensurePage s fn j w layer i
  let s2 ← ownPage s1 fn j w layer i
  match pageRec s2 j w layer i, getKv s2 j, (getKv s2 j).bind (fun k => tGet k.wins w) with
  | some (x, r), some k, some v => do
    let m := (64 * run - b) / 128
    let h := k.hdr
    let half := run % 2
    let src := stageFrame k w (b2n v.ssel) layer
    let s3 ← (heads h).foldlM (fun s hd =>
      copySlots s fn h (src + hd * imgBytes h) (64 * half) (imgAddr h (recAddr k r) m hd) (64 * half) 64) s2
    let old ← pageGroups s3 fn k r
    let new := (List.range 4).filter (fun q => !old.any (fun g => g.1 = m && g.2.1 = 4 * half + q))
    let s4 := (List.range 4).foldl (fun s q => putGroup s fn h (recAddr k r) m (4 * half + q) (64 * run + 16 * q)) s3
    let s5 := setRec (putKcnt s4 fn h (recAddr k r) m (64 * (half + 1))) j x (fun q => { q with live := q.live + new.length })
    if half = 1 && h.keep ≠ 0 then evictPass s5 fn j w layer kvlen slot else return s5
  | _, _, _ => return s2

/-- Flush a window's complete run in every layer, and clear FLUSH_PEND (R388, R389). -/
def flushRun (s : State) (j w : Nat) (st : Stream) : Except PageStop State :=
  match (getKv s j).bind (fun k => (tGet k.wins w).map (fun v => (k, v))) with
  | none => .ok s
  | some (k, v) => do
    let fn := st.part + 1
    let s1 ← (List.range k.hdr.nlayers).foldlM (fun s l => flushLayer s fn j w v.flushFrom st.kvlen st.slot l) s
    let s2 := setWin s1 j w (fun v => { v with flushPend := false, waitFrames := false, victim := none })
    return kvAdd (syncWin s2 j w) st.part 0 1

/-! ## Pressure (R405) -/

/-- Is the preemption for a requester's window on its way: its victim not yet swapped out? -/
def preempting (k : KvJob) (w : Nat) : Bool :=
  ((tGet k.wins w).bind (fun v => v.victim.bind (tGet k.wins))).any (fun v =>
    v.auto && (v.state = .resident || v.state = .swappingOut))

/-- Windows that may be preempted for a requester: window, PRIO, PRIV, stream. -/
def victims (s : State) (k : KvJob) (w prio : Nat) : List (Nat × Nat × Nat × Nat) :=
  k.wins.filterMap (fun e => match getStream s e.2.stream with
    | some st =>
      if e.1 ≠ w && e.2.state = .resident && !e.2.auto && decide (0 < winPriv k e.2) && decide (st.prio ≤ prio)
          && (st.state = .open || st.state = .runnable || st.state = .paused || (st.state = .waiting && !st.pclose))
      then some (e.1, st.prio, winPriv k e.2, e.2.stream) else none
    | none => none)

/-- The lowest PRIO, then the greatest PRIV, then the highest stream id. -/
def victimBefore (a b : Nat × Nat × Nat × Nat) : Bool :=
  decide (a.2.1 < b.2.1) || (a.2.1 = b.2.1 && (decide (b.2.2.1 < a.2.2.1) ||
    (a.2.2.1 = b.2.2.1 && decide (b.2.2.2 < a.2.2.2))))

def bestVictim : List (Nat × Nat × Nat × Nat) → Option (Nat × Nat × Nat × Nat)
  | [] => none
  | a :: r => match bestVictim r with
    | some b => if victimBefore a b then some a else some b
    | none => some a

/-- Preempt the window w of stream i for the requesting window r (R405): AUTO, its place in the order of preemption, its stream
PREEMPTED now, or when its step ends or its pending flush lands (R389); the requester's own flush resumes after the swap-in. -/
def preemptWindow (s : State) (j r w i : Nat) : State :=
  let p := (getStream s i).elim 0 (·.part)
  let n := (getKv s j).elim 0 (·.preempts)
  let later := ((getKv s j).bind (fun k => tGet k.wins w)).any (fun v => v.flushPend && decide (w ≠ r))
  let s1 := setKv (setWin s j w (fun v => { v with auto := true, order := n })) j (fun k => { k with preempts := k.preempts + 1 })
  let s2 := syncEntry (setWin s1 j r (fun v => { v with victim := some w })) j w
  let s3 := setStream (kvAdd s2 p 4 1) i (fun st =>
    if st.state = .waiting || later then { st with ppreempt := true } else preemptStream st)
  startSwapOut s3 i

/-- An allocation of a window found no frames: WAIT_FRAMES, and a preemption when its image has room (R405). -/
def waitFrames (s : State) (j w : Nat) (st : Stream) : State :=
  let s1 := syncWin (setWin s j w (fun v => { v with waitFrames := true })) j w
  match getKv s1 j with
  | none => s1
  | some k =>
    if preempting k w then s1
    else match bestVictim (victims s1 k w st.prio) with
      | some v =>
        if ((tGet k.wins v.1).bind (fun x => swapFit s1 st.part (winImage k x))).isSome then preemptWindow s1 j w v.1 v.2.2.2 else s1
      | none =>
        if ((tGet k.wins w).bind (fun x => swapFit s1 st.part (winImage k x))).isSome && st.state ≠ .closing
        then preemptWindow s1 j w w ((tGet k.wins w).elim 0 (·.stream)) else s1

/-! ## Swap images (R406 to R408) -/

/-- The bodies of records in order, each padded to a multiple of 4,096. -/
def swapBodies (s : State) (fn : Nat) (k : KvJob) (xs : List Nat) : Except PageStop (List Byte) := do
  let bs ← xs.mapM (fun x => match tGet k.recs x with
    | some r => do
      let b ← pageRead s fn (recAddr k r) (2 ^ r.pk * frameBytes k.hdr)
      return (b ++ List.replicate (bodyLen k r - b.length) 0)
    | none => .ok [])
  return bs.flatten

/-- Bytes of a coded region that cross its path: headers and bodies (R253). -/
def codedBytes (bs : List Byte) : Nat :=
  ((List.range (bs.length / 4096)).map (fun u => 16 + (gcEncode 0 ((bs.drop (4096 * u)).take 4096)).2.length)).sum

/-- Write bytes as a coded region with elements of 1 B at an address: the body slots, then the headers (R170, R173, R227, R407;
notes/assumptions/20.md). -/
def writeCoded (s : State) (fn a : Nat) (bs : List Byte) : State :=
  (List.range (bs.length / 4096)).foldl (fun s u =>
    let (h, b) := gcEncode 0 ((bs.drop (4096 * u)).take 4096)
    pageWrite (pageWrite s fn (a + 4096 * u) b) fn (a + bs.length + 16 * u) h) s

/-- Decode a coded region of n bytes at an address, or the cause of its decode fault. -/
def readCoded (s : State) (fn a n : Nat) : Except Nat (List Byte) := do
  let us ← (List.range (n / 4096)).mapM (fun u =>
    let h := dpaRead s (funcRegions s fn) (a + n + 16 * u) 16
    gcDecode h (dpaRead s (funcRegions s fn) (a + 4096 * u) (gcBodyLen h)))
  return us.flatten

/-- The window's records in its image, with their body offsets, and the length of all bodies. -/
def imageRecs (k : KvJob) (v : Window) : List (Nat × Nat) × Nat := bodyOffs k v.moving 0

/-- What a swap moves through each engine: the bytes of its pages on one side, their coded form on the other, and what the codec kept off
the path; `out` for a swap-out (R249, R253). -/
def countSwap (s : State) (k : KvJob) (out : Bool) (bodies : List (Nat × List Byte)) : State :=
  forAll s (List.range 12) (fun s sl =>
    let bs := (bodies.filter (fun e => (tGet k.recs e.1).any (fun r => r.slice = sl))).map Prod.snd
    let raw := (bs.map (·.length)).sum
    let cod := (bs.map codedBytes).sum
    if raw = 0 then s
    else geyAdd (geyAdd (geyAdd (geyAdd s sl 0 (if out then raw else cod)) sl 1 (if out then cod else raw)) sl 2 (2 * cdiv raw 0x10000))
      sl 5 (raw - cod))

/-- The bodies of an image by record. -/
def splitBodies (k : KvJob) (rs : List (Nat × Nat)) (bs : List Byte) : List (Nat × List Byte) :=
  rs.map (fun e => (e.1, (bs.drop e.2).take ((tGet k.recs e.1).elim 0 (bodyLen k))))

/-- Unpin the records of a swap-out. -/
def endMoving (s : State) (j w : Nat) (xs : List Nat) : State :=
  setWin (xs.foldl (fun s x => setRec s j x (fun r => { r with pin := r.pin - 1 })) s) j w (fun v => { v with moving := [] })

/-- Records of a window that lie in its swap image. -/
def swappedRecs (k : KvJob) (v : Window) : List Nat :=
  (winRecs v).filter (fun x => (tGet k.recs x).any (·.swapped))

/-- Allocate frames for every SWAPPED record of a window: the state with the records' new frames, and the frames (R408). -/
def allocSwapped (s : State) (j home : Nat) : List Nat → Nat → Option (State × Nat)
  | [], n => some (s, n)
  | x :: xs, n => match getKv s j with
    | none => none
    | some k => match tGet k.recs x with
      | none => allocSwapped s j home xs n
      | some r => match (sliceOrder k home).find? (fun sl => !(freeRuns k sl r.pk).isEmpty) with
        | none => none
        | some sl =>
          let (f, s1) := pick s (freeRuns k sl r.pk)
          allocSwapped (setRec s1 j x (fun r => { r with slice := sl, frame := f.getD 0, swapped := false })) j home xs
            (n + 2 ^ r.pk)

/-- Start a swap-in: frames for every SWAPPED record, the window SWAPPING_IN; `none` when the pool lacks frames. -/
def startSwapIn (s : State) (j w : Nat) : Option (State × Nat) :=
  match (getKv s j).bind (fun k => (tGet k.wins w).map (fun v => (k, v))) with
  | none => none
  | some (k, v) => match allocSwapped s j (homeSlice s v) (swappedRecs k v) 0 with
    | none => none
    | some (s1, n) =>
      let s2 := setWin s1 j w (fun x => { x with state := .swappingIn, moving := swappedRecs k v })
      some (syncEntry ((getKv s2 j).elim s2 (fun k2 => startSwap s2 (kvFn s j - 1) j w k2 (swappedRecs k v))) j w, n)

/-! ## The prefix tree (R394 to R399) -/

/-- First position and size of a level. -/
def levelStart (l : Nat) : Nat := if l = 0 then 0 else if l = 1 then 64 else pageStart (l + 2)
def levelSize (l : Nat) : Nat := if l ≤ 1 then 64 else pageSize (l + 2)

/-- The level that ends at n positions. -/
def levelAt (n : Nat) : Option Nat := (List.range 262).find? (fun l => levelStart l + levelSize l = n)

def rotl64 (x k : Nat) : Nat := (x * 2 ^ k + x / 2 ^ (64 - k)) % 2 ^ 64

/-- The hash of a level's tokens below a parent hash (R395). -/
def levelHash (parent : Nat) (toks : List W32) : Nat :=
  toks.foldl (fun h t => (rotl64 (h ^^^ t.toNat) 27 * 0x9E3779B97F4A7C15 + 0x632BE59B) % 2 ^ 64) parent

def rootHash (seed : Nat) : Nat := seed + seed * 2 ^ 32

/-- The tokens of a level. -/
def levelToks (toks : List W32) (l : Nat) : List W32 := (toks.drop (levelStart l)).take (levelSize l)

/-- The nodes of a version at a level below a parent with a hash. -/
def nodesAt (t : Tab PNode) (l : Nat) (parent : Option Nat) (hash : Nat) : List (Nat × PNode) :=
  t.filter (fun e => e.2.level = l && e.2.parent = parent && e.2.hash = hash)

/-- Match a token list from a level on, at most n levels: the nodes matched, and why the walk ended: a miss, a false hash
match. -/
def matchFrom (t : Tab PNode) (stop : PNode → Bool) (toks : List W32) (parent : Option Nat) (ph : Nat) :
    Nat → Nat → List (Nat × PNode) × Bool × Bool
  | _, 0 => ([], false, false)
  | l, n + 1 =>
    let ts := levelToks toks l
    if ts.length < levelSize l then ([], false, false)
    else
      let cs := nodesAt t l parent (levelHash ph ts)
      match cs.find? (fun e => e.2.tokens = ts) with
      | none => ([], true, !cs.isEmpty)
      | some e =>
        if stop e.2 then ([], false, false)
        else
          let (r, m, f) := matchFrom t stop toks (some e.1) e.2.hash (l + 1) n
          (e :: r, m, f)

/-- The records that a node shares have no room for another reference (R396). -/
def nodeFull (k : KvJob) (n : PNode) : Bool := n.recs.any (fun x => (tGet k.recs x).any (fun r => decide (65535 ≤ r.ref)))

/-- Map a node's record at a page of a window, which becomes a holder of it and none of the record that it replaces: level 1 may name
another lead image than level 0 (R381, R390, R396). -/
def attachPage (s : State) (j w layer i x : Nat) : State :=
  match pageRec s j w layer i with
  | some (y, _) => if y = x then s else dropRef (addRef (mapPage s j w layer i x) j x) j y
  | none => addRef (mapPage s j w layer i x) j x

/-- Attach a stream's token list to its window (R396): the committed positions. -/
def prefixAttach (s : State) (j w p seed : Nat) (toks : List W32) : Nat × State :=
  match getKv s j with
  | none => (0, s)
  | some k =>
    let (ns, miss, false_) := matchFrom k.fg (nodeFull k) toks none (rootHash seed) 0 262
    let s1 := ns.foldl (fun s e => ((List.range e.2.recs.length).zip e.2.recs).foldl (fun s lx =>
      attachPage s j w lx.1 (if e.2.level ≤ 1 then 3 else e.2.level + 2) lx.2) s) s
    let s3 := kvAdd (kvAdd (kvAdd s1 p 5 ns.length) p 6 (b2n miss)) p 7 (b2n false_)
    let n := match ns.getLast? with | some e => levelStart e.2.level + levelSize e.2.level | none => 0
    let s4 := if n % 128 ≠ 64 then s3
      else (List.range k.hdr.nlayers).foldl (fun s l => match pageRec s j w l 3, (getKv s j).bind (fun k => tGet k.wins w) with
        | some (_, r), some v =>
          (heads k.hdr).foldl (fun s hd => match copySlots s (p + 1) k.hdr (imgAddr k.hdr (recAddr k r) 0 hd) 0
            (stageFrame k w (b2n v.ssel) l + hd * imgBytes k.hdr) 0 64 with
            | .ok s1 => s1
            | .error _ => s) s
        | _, _ => s) s3
    (n, syncWin s4 j w)

/-- May levels up to a position be inserted now: no run below it waits for its flush, before which a page may still hold another stream's
groups there (R388, R398)? -/
def levelFlushed (k : KvJob) (w n : Nat) : Bool := (tGet k.wins w).any (fun v => !v.flushPend || decide (n ≤ 64 * v.flushFrom))

/-- Does a swap in progress move a record? -/
def isMoving (k : KvJob) (x : Nat) : Bool := k.wins.any (fun e => e.2.moving.elem x)

/-- The records of a window's page for a level, one for each layer, when the level can be inserted (R398). -/
def levelRecs (s : State) (k : KvJob) (j w l : Nat) : Option (List Nat) :=
  if !levelFlushed k w (levelStart l + levelSize l) then none
  else (List.range k.hdr.nlayers).mapM (fun layer => match pageRec s j w layer (if l ≤ 1 then 3 else l + 2) with
    | some (x, r) =>
      if r.shrunk || r.swapped || isMoving k x || decide (65535 ≤ r.ref) || decide (r.live < (if l = 0 then 4 else 8 * 2 ^ r.pk)) then none
      else some x
    | none => none)

/-- Walk a list's levels in the background version: nodes kept or to be made, in order, until a level that can be neither. -/
def insertPlan (s : State) (k : KvJob) (j w : Nat) (toks : List W32) : Nat → Nat → Option Nat → Nat →
    List (Nat × Nat × List W32 × Option (List Nat)) → List (Nat × Nat × List W32 × Option (List Nat))
  | _, 0, _, _, acc => acc
  | l, n + 1, parent, ph, acc =>
    let ts := levelToks toks l
    let h := levelHash ph ts
    if ts.length < levelSize l then acc
    else match parent.elim (if l = 0 then (nodesAt k.bg l none h).find? (fun e => e.2.tokens = ts) else none)
        (fun q => (nodesAt k.bg l (some q) h).find? (fun e => e.2.tokens = ts)) with
      | some e => insertPlan s k j w toks (l + 1) n (some e.1) h (acc ++ [(l, h, ts, none)])
      | none => match levelRecs s k j w l with
        | some rs => insertPlan s k j w toks (l + 1) n none h (acc ++ [(l, h, ts, some rs)])
        | none => acc

/-- Nodes that either version holds, and their tokens. -/
def treeNodes (k : KvJob) : List (Nat × PNode) := k.bg ++ k.fg.filter (fun e => !tHas k.bg e.1)
def treeToks (k : KvJob) : Nat := ((treeNodes k).map (fun e => e.2.tokens.length)).sum

/-- Make the new nodes of a plan, below the deepest node kept. -/
def makeNodes (j : Nat) : List (Nat × Nat × List W32 × Option (List Nat)) → Option Nat → State → State
  | [], _, s => s
  | (l, h, ts, none) :: r, parent, s =>
    makeNodes j r (((getKv s j).bind (fun k => ((nodesAt k.bg l parent h).find? (fun e => e.2.tokens = ts)).map Prod.fst))) s
  | (l, h, ts, some xs) :: r, parent, s =>
    let id := (getKv s j).elim 0 (·.nextNode)
    let s1 := setKv s j (fun k => { k with
      nextNode := id + 1, bg := tPut k.bg id { level := l, parent := parent, hash := h, tokens := ts, recs := xs } })
    makeNodes j r (some id) (xs.foldl (fun s x => addRef s j x) s1)

/-- A node and every node below it, in a version whose children have greater numbers than their parents. -/
def subtree (t : Tab PNode) (root : Nat) : List Nat :=
  t.foldl (fun l e => if e.1 = root || (match e.2.parent with | some p => l.elem p | none => false) then l ++ [e.1] else l) []

/-- Remove a node and those below it from the background version; their references go at the switch. -/
def removeNode (s : State) (j root : Nat) : State :=
  setKv s j (fun k =>
    let ids := subtree k.bg root
    { k with gone := k.gone ++ (k.bg.filter (fun e => ids.elem e.1)).flatMap (fun e => e.2.recs),
             bg := k.bg.filter (fun e => !ids.elem e.1) })

end Sys2Proof.Machine
end

