-- ==== Sys2Proof/Machine/Kv.lean ====
section
/-! DEFINITION. The page unit's events: flushes and swaps (R388, R389, R405 to R410). -/

namespace Sys2Proof.Machine

/-- The window of a stream: its job, number and entry. -/
def streamWin (s : State) (st : Stream) : Option (Nat × Window) :=
  st.kvw.bind (fun w => ((getKv s st.job).bind (fun k => tGet k.wins w)).map (fun v => (w, v)))

/-- A flush on queue 42 of its engine: its bytes, and whether it landed after its background deadline (R232, R248, R252, R253, R389). -/
def countFlush (s : State) (j w stream : Nat) (v : Window) : State :=
  match getKv s j with
  | none => s
  | some k =>
    let cl := flushEngine s j w (homeSlice s v)
    let n := k.hdr.nlayers * k.hdr.nkvh * (2 * 64 * dhOf k.hdr.dhc * kvEb k.hdr)
    let s1 := geyAdd (geyAdd (geyAdd s cl 0 n) cl 1 n) cl 2 (2 * cdiv n 0x10000)
    if v.flushDue < now s then countLate s1 cl stream (now s - v.flushDue) else s1

/-- KV_FLUSH (R388, R389): the complete run of a stream's window is flushed in every layer; without frames the window waits
and a victim is preempted (R405). -/
def execKvFlush (stream : Nat) (s : State) : Out :=
  .next (match getStream s stream with
    | none => s
    | some st => match streamWin s st with
      | none => s
      | some (w, v) =>
        if !v.flushPend || v.state ≠ .resident || st.state = .waiting then s
        else match flushRun s st.job w st with
          | .ok s1 => tryFree (flushEnd (countFlush s1 st.job w stream v) stream) stream
          | .error .noFrames => waitFrames s st.job w st
          | .error (.bad k a) => spillFault s (flushEngine s st.job w (homeSlice s v)) st.part (k, a))

/-- A fault of a swap on queue 43, at the engine whose slice holds the word, else at the first engine with pages of the swap; a word that
cannot be read is reported with its event, whose syndrome is a free value (R251, R258, R649). -/
def swapFault (s : State) (j w cause a : Nat) : State :=
  let mine (cl : Nat) : Bool := (getGey s cl).sys.any (fun r => r.queue = 43 && r.who = j && r.what = w)
  let first := ((List.range 12).find? mine).getD 0
  let (n, s1) := takeFree s
  dropSwaps (if cause = 0 then raiseUncorrected (noteFault s1 ((sliceOf a).getD first) (badCause 0xFF a) 43 0) a (Config.freeNat n % 2 ^ 32) 4
    else noteFault s first cause 43 0) j (some w)

/-- A swap-out that faulted: the pages stay, the window is RESIDENT again (R251, R409). -/
def failSwapOut (s0 : State) (stream : Nat) (st : Stream) (w : Nat) (v : Window) (cause a : Nat) : State :=
  let s := swapFault s0 st.job w cause a
  let s1 := setWin (endMoving s st.job w v.moving) st.job w (fun x => { x with
    state := .resident, swap := 0, swapLen := 0, auto := false })
  let s2 := unpreempt (syncWin s1 st.job w) stream
  tryFree (completeWaiters s2 (fun x => x.what = .kvOut stream) stFaulted 0 0) stream

/-- A swap-out that has landed: the image is written, its records are SWAPPED, their frames free (R406). -/
def landSwapOut (s : State) (stream : Nat) (st : Stream) (w : Nat) (v : Window) (k : KvJob) (bs : List Byte) : State :=
  let s0 := countSwap (endSwap (writeCoded s (st.part + 1) v.swap bs) st.job w stream) k true (splitBodies k (imageRecs k v).1 bs)
  let s1 := endMoving s0 st.job w v.moving
  let s2 := (imageRecs k v).1.foldl (fun s e => setRec s st.job e.1 (fun r => { r with swapped := true, swapOff := e.2 })) s1
  let s3 := syncWin (setWin s2 st.job w (fun x => { x with state := .swapped })) st.job w
  tryFree (completeWaiters s3 (fun x => x.what = .kvOut stream) stOk v.swapLen 0) stream

/-- May a swap's transactions land: none of those that wait is held back, and host-interface tags are free or its own (R234, R513, R599)? -/
def swapReady (s : State) (p j w : Nat) : Bool :=
  !swapHeld s j w && (tagFree s (p + 1)
    || s.geys.any (fun g => g.sys.any (fun r => r.queue = 43 && r.who = j && r.what = w && decide (0 < r.entries))))

/-- SWAP_OUT_LANDED (R406, R409): every unit of a swap-out has landed, or a transfer faulted, as a write does while the function may not
use host memory (R505). -/
def execSwapOutLanded (stream : Nat) (ok : Bool) (s : State) : Out :=
  .next (match getStream s stream with
    | none => s
    | some st => match streamWin s st, getKv s st.job with
      | some (w, v), some k =>
        if v.state ≠ .swappingOut then s
        else if !ok || !hostReadOk s (st.part + 1) then releaseHeld (failSwapOut s stream st w v 0x22 v.swap) (st.part + 1)
        else if !swapReady s st.part st.job w then s
        else match swapBodies s (st.part + 1) k v.moving with
          | .ok bs => releaseHeld (landSwapOut s stream st w v k bs) (st.part + 1)
          | .error (.bad c a) => releaseHeld (failSwapOut s stream st w v c a) (st.part + 1)
          | .error .noFrames => s
      | _, _ => s)

/-- A swap-in that faulted: the window is SWAPPED again (R251, R409). -/
def failSwapIn (s0 : State) (stream : Nat) (st : Stream) (w : Nat) (v : Window) (cause : Nat) : State :=
  let s := swapFault s0 st.job w cause v.swap
  let s1 := v.moving.foldl (fun s x => setRec s st.job x (fun r => { r with swapped := true })) s
  let s2 := syncWin (setWin s1 st.job w (fun x => { x with state := .swapped, moving := [] })) st.job w
  tryFree (completeWaiters s2 (fun x => match x.what with | .kvIn i _ => i = stream | _ => false) stFaulted 0 0) stream

/-- Complete the command that waits for a swap-in with the frames it took. -/
def completeSwapIn (s : State) (stream : Nat) : State :=
  match s.waiters.findSome? (fun x => match x.what with | .kvIn i n => if i = stream then some n else none | _ => none) with
  | some n => completeWaiters s (fun x => match x.what with | .kvIn i _ => i = stream | _ => false) stOk n 0
  | none => s

/-- A swap-in that has decoded every page: the bodies lie in their frames, the image is freed, the window RESIDENT, and the
stream leaves PREEMPTED (R408). -/
def landSwapIn (s : State) (stream : Nat) (st : Stream) (w : Nat) (v : Window) (k : KvJob) (bs : List Byte) : State :=
  let s1 := (imageRecs k v).1.foldl (fun s e => match tGet k.recs e.1 with
    | some r => pageWrite s (st.part + 1) (recAddr k r) ((bs.drop e.2).take (2 ^ r.pk * frameBytes k.hdr))
    | none => s) (countSwap (endSwap s st.job w stream) k false (splitBodies k (imageRecs k v).1 bs))
  let s2 := setWin s1 st.job w (fun x => { x with state := .resident, swap := 0, swapLen := 0, auto := false, moving := [] })
  tryFree (completeSwapIn (unpreempt (syncWin s2 st.job w) stream) stream) stream

/-- SWAP_IN_LANDED (R408, R409): every page of a swap-in is decoded, or a transfer faulted. -/
def execSwapInLanded (stream : Nat) (ok : Bool) (s : State) : Out :=
  .next (match getStream s stream with
    | none => s
    | some st => match streamWin s st, getKv s st.job with
      | some (w, v), some k =>
        if v.state ≠ .swappingIn then s
        else if !ok || !hostReadOk s (st.part + 1) then releaseHeld (failSwapIn s stream st w v 0x22) (st.part + 1)
        else if !swapReady s st.part st.job w then s
        else match readCoded s (st.part + 1) v.swap (imageRecs k v).2 with
          | .ok bs => releaseHeld (landSwapIn s stream st w v k bs) (st.part + 1)
          | .error c => releaseHeld (failSwapIn s stream st w v (c % 256)) (st.part + 1)
      | _, _ => s)

/-- A window that the page unit swaps in without a command: AUTO with its stream PREEMPTED, or CLOSING with chunks queued
(R408, R410). -/
def autoWaits (s : State) (v : Window) : Option (Bool × Nat) :=
  match getStream s v.stream with
  | some st =>
    if v.state ≠ .swapped then none
    else if st.state = .closing && !(queued st).isEmpty then some (true, st.prio)
    else if v.auto && st.state = .preempted then some (false, st.prio)
    else none
  | none => none

/-- Does window a come before window b: CLOSING first, then descending PRIO, then the order of preemption? -/
def autoBefore (a b : (Bool × Nat) × Nat) : Bool :=
  (a.1.1 && !b.1.1) || (a.1.1 = b.1.1 && (decide (b.1.2 < a.1.2) || (a.1.2 = b.1.2 && decide (a.2 < b.2))))

/-- AUTO_SWAP_IN (R408, R410): the first window in order starts its swap-in once the free frames reach its PRIV plus
RESERVE. -/
def execAutoSwapIn (stream : Nat) (s : State) : Out :=
  .next (match getStream s stream with
    | none => s
    | some st => match streamWin s st, getKv s st.job with
      | some (w, v), some k => match autoWaits s v with
        | none => s
        | some a =>
          if k.wins.any (fun e => e.1 ≠ w && (match autoWaits s e.2 with
              | some b => autoBefore (b, e.2.order) (a, v.order)
              | none => false)) then s
          else if kvFreeFrames k < winPriv k v + k.hdr.reserve then s
          else match startSwapIn s st.job w with
            | some r => r.1
            | none => s
      | _, _ => s)

end Sys2Proof.Machine
end

