-- ==== Sys2Proof/Machine/DciOps.lean ====
section
/-! DEFINITION. What every DCI command shares: order, the checks of R537, buffers, and the answer (R524, R532 to R537). -/

namespace Sys2Proof.Machine

/-- What a command comes to: a status that changes nothing, a status with its result, an answer with its effect, a wait for
something, or not yet carried out. -/
inductive DciRes where
  | fail (status : Nat)
  | done (s : State) (status result detail : Nat)
  | wait (s : State)
  | hold
  deriving DecidableEq, Repr

/-! ## Order (R524, R532) -/

/-- Commands of a function fetched before one and not completed; all of them when it is not among them. -/
def earlier (s : State) (fn : Nat) (tag : W32) : List DciOut :=
  (getFunc s fn).outstanding.takeWhile (fun o => o.tag ≠ tag)

/-- Is a command held back by FENCE: its own, or one fetched before it? -/
def fenceHolds (s : State) (h : DciHdr) : Bool :=
  let es := earlier s h.fn h.tag
  (h.fence && !es.isEmpty) || es.any (·.fence)

/-- The place of a command among those outstanding on its function: its entry was fetched, spells it, and Tyrax has not finished with it. -/
def outOf (s : State) (i : Instr) (h : DciHdr) : Option DciOut :=
  (getFunc s h.fn).outstanding.find? (fun o => o.tag = h.tag && o.cmd = some i && o.stage ≠ .waiting)

/-- Has Tyrax yet to take a command that it can take, fetched before another: R524 has it taken first; a FENCE of its own function may hold
it. -/
def firstTaken (s : State) (seq : Nat) : Bool :=
  s.funcs.all (fun f => (List.range f.outstanding.length).all (fun k =>
    match f.outstanding[k]? with
    | some o => decide (seq ≤ o.seq) || o.stage ≠ .fetched || o.cmd.isNone
        || (o.fence && k ≠ 0) || (f.outstanding.take k).any (·.fence)
    | none => true))

/-- Is a command held back: Tyrax does not run, as in a restart or a drain; its entry has not been fetched, or Tyrax has taken it and it
waits; one fetched before it is to be taken first; or FENCE holds it (R524, R532, R594, R597, R622)? -/
def dciHeld (s : State) (i : Instr) (h : DciHdr) : Bool :=
  match outOf s i h with
  | none => true
  | some o => !tyraxUp s || !firstTaken s o.seq || fenceHolds s h

/-- Note how far Tyrax has come with a command. -/
def setStage (s : State) (h : DciHdr) (st : DciStage) : State :=
  setFunc s h.fn (fun f => { f with outstanding := f.outstanding.map (fun o => if o.tag = h.tag then { o with stage := st } else o) })

/-- Device time at which a command was submitted (R533). -/
def submitted (s : State) (fn : Nat) (tag : W32) : Nat :=
  (((getFunc s fn).outstanding.find? (fun o => o.tag = tag)).map (·.fetched)).getD (now s)

/-- Device time at which a TIMEOUT in µs expires. -/
def timeoutAt (s : State) (h : DciHdr) : Nat := submitted s h.fn h.tag + 1000 * h.timeout.toNat

/-- Answer a command. -/
def dciAnswer (s : State) (h : DciHdr) (r : DciRes) : State :=
  match r with
  | .fail st => dciComplete s h.fn h.tag st 0 0
  | .done s1 st res det => dciComplete s1 h.fn h.tag st res det
  | .wait s1 => setStage s1 h .waiting
  | .hold => setStage s h .taken

/-- Carry a command out unless it is held back: the first check that fails decides the status. -/
def dciRun (s : State) (i : Instr) (h : DciHdr) (chk : Option Nat) (f : Unit → DciRes) : State :=
  if dciHeld s i h then s
  else match chk with
    | some st => dciAnswer s h (.fail st)
    | none => dciAnswer s h (f ())

/-! ## The checks of R537 -/

/-- The partition that PART names for its function. -/
def partOf (h : DciHdr) : Nat := if h.fn = 0 then h.part.toNat else h.fn - 1

/-- Does PART name the device scope? -/
def devScope (h : DciHdr) : Bool := h.fn = 0 && h.part = 0xF0

/-- R534: PART of a physical-function or virtual-function command; `dev` where a device scope is stated. -/
def partValue (h : DciHdr) (dev : Bool) : Bool :=
  decide (h.part.toNat < 12) || (h.fn ≠ 0 && h.part = 0xFF) || (dev && devScope h)

/-- The first check that fails: a reserved bit, TIMEOUT, PART; the function; the partition's existence and state. `pf`: the
physical function only; `tmo`: TIMEOUT is used; `dev`: a device scope is stated; `exempt`: existence is the command's own
check; `faulted`: allowed on a FAULTED partition. -/
def partCheck (s : State) (h : DciHdr) (pf tmo dev exempt faulted : Bool) : Option Nat :=
  let st := (getPart s (partOf h)).state
  if h.rsv || (!tmo && h.timeout ≠ 0) || !partValue h dev then some stInvalid
  else if (pf && h.fn ≠ 0) || (h.fn ≠ 0 && h.part ≠ 0xFF && h.part.toNat ≠ h.fn - 1) then some stDenied
  else if devScope h then none
  else if st = .none && !exempt then some stNotFound
  else if st = .faulted && !faulted then some stFaulted
  else none

/-- The checks of a command without PART. -/
def plainCheck (h : DciHdr) (pf : Bool) : Option Nat :=
  if h.rsv || h.timeout ≠ 0 then some stInvalid
  else if pf && h.fn ≠ 0 then some stDenied
  else none

/-! ## Buffers (R535) -/

/-- The function whose regions hold a buffer: the issuer's, or those of the partition that PART names. -/
def bufFn (s : State) (h : DciHdr) (p : Option Nat) (a n : Nat) : Option Nat :=
  if (regionAt (funcRegions s h.fn) a n).isSome then some h.fn
  else if h.fn = 0 then
    match p with
    | some q => if (regionAt (funcRegions s (q + 1)) a n).isSome then some (q + 1) else none
    | none => none
  else none

/-- Read an input buffer: INVALID outside a region, a wait for a tag, FAULTED when the host read fails (R505, R513, R535). -/
def readBuf (s : State) (h : DciHdr) (p : Option Nat) (a n : Nat) : Except DciRes (List Byte) :=
  match bufFn s h p a n with
  | none => .error (.fail stInvalid)
  | some fn =>
    if !hostReadOk s fn then .error (.fail stFaulted)
    else if !tagFree s fn then .error .hold
    else .ok (dpaRead s (funcRegions s fn) a n)

/-- The function whose regions hold an output buffer. One in a READONLY region may not be written, and ends its command INVALID as one
outside every region does (DESIGN CHOICE, notes/assumptions/91.md). -/
def outFn (s : State) (h : DciHdr) (p : Option Nat) (a n : Nat) : Option Nat :=
  (bufFn s h p a n).filter (fun fn => mayWrite (funcRegions s fn) a n)

/-- Write an output buffer, which has been checked. -/
def writeBuf (s : State) (h : DciHdr) (p : Option Nat) (a : Nat) (bs : List Byte) : State :=
  match outFn s h p a bs.length with
  | some fn => dpaWrite s (funcRegions s fn) a bs
  | none => s

/-- May the output buffer be written now? -/
def bufOpen (s : State) (h : DciHdr) (p : Option Nat) (a n : Nat) : Bool :=
  match outFn s h p a n with
  | some fn => hostWriteOk s fn
  | none => true

/-- The logged source of a change: the issuing function (R580). -/
def srcOf (h : DciHdr) : Nat := h.fn

end Sys2Proof.Machine
end

