-- ==== Sys2Proof/Machine/KgiOps.lean ====
section
/-! DEFINITION. Kweld graph images: the header, the directory, the sections and their checks, placement, and relocation
(R263, R304, R317, R376, R427 to R435, R690). -/

namespace Sys2Proof.Machine

/-! ## Header (R431) -/

/-- Is a number in a range, or 0 where `z` allows it? -/
def inRange (z : Bool) (lo hi v : Nat) : Bool := (z && v = 0) || (decide (lo ≤ v) && decide (v ≤ hi))

/-- The header's fields; DEPTH 0 stands for the default of 2 (R237). -/
def parseKgi (b : List Byte) : KgiHdr :=
  { seed := leAt b 8 4, sper := leAt b 12 4, chunkBound := leAt b 16 4, taskUs := leAt b 20 4, chunkMax := leAt b 24 4,
    frameMax := leAt b 28 2, rowcap := leAt b 30 2, stepLimit := leAt b 32 4, actfmt := leAt b 36 1,
    depth := if leAt b 37 1 = 0 then 2 else leAt b 37 1, autoreg := bitAt (leAt b 38 1) 0, reduced := bitAt (leAt b 38 1) 1,
    nstage := leAt b 39 1, rowmax := leAt b 40 2, nrole := leAt b 42 1, frame := leAt b 44 4, workoff := leAt b 48 4,
    worklen := leAt b 52 4, wloff := leAt b 56 4, rstat := leAt b 60 4, inoff := leAt b 64 4, inlen := leAt b 68 4,
    biasoff := leAt b 72 4, nbh := leAt b 76 2, nsem := leAt b 78 2 }

/-- The table of R431, beside MAGIC and FMTVER. -/
def kgiOk (b : List Byte) (h : KgiHdr) : Bool :=
  inRange false 1 256 (leAt b 6 2) && inRange true 50 100000 h.sper && inRange true 1000 10000000 h.chunkBound
    && inRange false 1 100000 h.taskUs && inRange false 32 0x1000000 h.chunkMax && inRange false 1 4095 h.frameMax
    && inRange false 1 512 h.rowcap && (if h.autoreg then inRange false 1 (2 ^ 20) h.stepLimit else h.stepLimit = 0)
    && fmtAct h.actfmt && decide (leAt b 37 1 ≤ 8) && decide (leAt b 38 1 < 4) && inRange false 1 16 h.nstage
    && inRange false 1 4096 h.rowmax && inRange false 1 8 h.nrole && zeroAt b 43 1 && decide (h.frame ≤ 0x400000)
    && h.workoff % 64 = 0 && h.worklen % 64 = 0 && h.wloff % 64 = 0 && h.rstat % 4 = 0 && h.inoff % 64 = 0
    && h.biasoff % 64 = 0 && decide (h.nbh ≤ 256) && decide (h.nsem ≤ 256) && zeroAt b 80 48

/-! ## Directory (R433, R690) -/

/-- A section: its directory entry and contents. -/
structure Sect where
  ix : Nat
  typ : Nat
  role : Nat
  all : Bool
  off : Nat
  len : Nat
  dest : Nat
  reduced : Bool
  data : List Byte
  deriving DecidableEq, Repr

/-- The entry of a directory, when its fields are legal. -/
def parseSect (b : List Byte) (klen ix : Nat) : Option Sect :=
  let e := (b.drop (128 + 32 * ix)).take 32
  let typ := leAt e 0 2
  let role := leAt e 2 2
  let off := leAt e 4 4
  let len := leAt e 8 4
  let tiles := typ = 1 || typ = 0xA
  if inRange false 1 0xB typ && zeroAt e 20 12 && off % 64 = 0 && decide (off + len ≤ klen)
      && (if tiles then bitsAt role 3 12 = 0 else role = 0) && (if typ = 1 then leAt e 12 4 % 64 = 0 else zeroAt e 12 4)
      && (if typ = 1 then decide (leAt e 16 4 < 2) else zeroAt e 16 4) then
    some { ix := ix, typ := typ, role := role % 8, all := bitAt role 15, off := off, len := len, dest := leAt e 12 4,
           reduced := leAt e 16 4 = 1, data := (b.drop off).take len }
  else none

/-- Ranges that hold a byte. -/
def nonEmpty (rs : List (Nat × Nat)) : List (Nat × Nat) := rs.filter (fun r => r.2 ≠ 0)

/-- How many programs of a set a role has. -/
def progCount (ss : List Sect) (reduced : Bool) (r : Nat) : Nat :=
  (ss.filter (fun x => x.typ = 1 && x.reduced = reduced && (x.all || x.role = r))).length

/-- The rules of R433 and R690 over a whole directory. -/
def sectsOk (h : KgiHdr) (n : Nat) (ss : List Sect) : Bool :=
  disjoint ((0, 128 + 32 * n) :: nonEmpty (ss.map (fun x => (x.off, x.len))))
    && [3, 4, 5, 6, 7, 9].all (fun t => decide ((ss.filter (fun x => x.typ = t)).length ≤ 1))
    && ss.all (fun x => !(x.typ = 1 || x.typ = 0xA) || x.all || decide (x.role < h.nrole))
    && (List.range h.nrole).all (fun r => progCount ss false r = 1
        && progCount ss true r = (if h.reduced then 1 else 0))
    && (h.reduced || ss.all (fun x => !(x.typ = 1 && x.reduced)))
    && ss.all (fun x => x.typ ≠ 1 || decide (64 * h.nstage ≤ x.len))
    && (ss.any (fun x => x.typ = 7) = decide (1 ≤ h.nsem)) && (ss.any (fun x => x.typ = 9) = decide (1 ≤ h.nbh))
    && ss.all (fun x =>
        if x.typ = 4 then x.len = 64
        else if x.typ = 5 then x.len % 128 = 0 && inRange false 128 8192 x.len
        else if x.typ = 6 then x.len % 32 = 0 && decide (32 ≤ x.len)
        else if x.typ = 7 then x.len = 4 * h.nsem
        else if x.typ = 8 then x.len % 20 = 0 && inRange false 20 80 x.len
        else if x.typ = 9 then x.len = 1024 * h.nbh
        else true)

/-- The frame's layout (R432). -/
def frameOk (h : KgiHdr) (kvstat : Option Nat) (ss : List Sect) : Bool :=
  let rs := [(h.workoff, h.worklen), (h.wloff, 2 * (256 + 64 * h.rowmax)), (h.biasoff, 2048 * h.nbh), (h.inoff, h.inlen)]
    ++ (ss.filter (fun x => x.typ = 1)).map (fun x => (x.dest, x.len))
  rs.all (fun r => decide (r.1 + r.2 ≤ h.frame)) && disjoint (nonEmpty rs)
    && decide (h.rstat + 4 * h.rowcap ≤ h.worklen)
    && (match kvstat with | some o => decide (o + 4 * h.rowcap ≤ h.worklen) | none => true)

/-! ## Sections -/

/-- The state declaration (R263). -/
def parseDecl (b : List Byte) (rowmax : Nat) : Option StateDecl :=
  let size := leAt b 0 4
  let n := leAt b 4 2
  let ts := (List.range n).map (fun i =>
    ({ offset := leAt b (16 + 16 * i) 4, count := leAt b (20 + 16 * i) 4, fmt := leAt b (24 + 16 * i) 1 } : Tensor))
  if size % 4096 = 0 && inRange false 4096 0x400000 size && inRange false 1 64 n && leAt b 6 2 = rowmax
      && decide (leAt b 8 1 ≤ 1) && zeroAt b 9 7 && b.length = 16 + 16 * n
      && (List.range n).all (fun i => zeroAt b (25 + 16 * i) 7)
      && ts.all (fun x => x.offset % 64 = 0 && inRange false 1 (2 ^ 20) x.count && fmtAct x.fmt
          && decide (x.offset + x.count * fmtBits x.fmt / 8 ≤ size))
      && disjoint (ts.map (fun x => (x.offset, x.count * fmtBits x.fmt / 8)))
  then some { slotSize := size, spare := leAt b 6 2, resid := leAt b 8 1, tensors := ts } else none

/-- The KV header (R376) with the score tensors of R401. -/
def parseKv (b : List Byte) (decl : Option StateDecl) : Option KvHdr :=
  let h : KvHdr :=
    { nlayers := leAt b 0 1, nkvh := leAt b 1 1, dhc := leAt b 2 1, fmt := leAt b 3 1, keep := leAt b 4 1,
      score0 := leAt b 5 1, maxwin := leAt b 8 4, pool := leAt b 12 4, kvstat := leAt b 16 4,
      rw := BitVec.ofNat 32 (leAt b 20 4), rhalf := leAt b 24 4, nodes := leAt b 28 4, tokwords := leAt b 32 4,
      reserve := leAt b 36 4 }
  let scores := match decl with
    | some d => (addrs h.score0 h.nlayers).all (fun i => match d.tensors[i]? with
      | some x => x.count = 65536 && x.fmt = 1
      | none => false)
    | none => false
  let rw := match dec32 h.rw with | .fin neg m _ => !neg || m = 0 | _ => false
  if inRange false 1 64 h.nlayers && inRange false 1 32 h.nkvh && decide (h.dhc < 4) && kvFmtOk h.fmt
      && decide (h.keep ≤ 15) && (if h.keep = 0 then h.score0 = 0 else scores) && zeroAt b 6 2
      && inRange false 1 65536 h.maxwin && inRange false 1 (2 ^ 24) h.pool && h.kvstat % 4 = 0 && rw
      && inRange false 1 (2 ^ 20) h.rhalf && decide (h.nodes ≤ 2 ^ 20) && decide (h.tokwords ≤ 2 ^ 28) && zeroAt b 40 24
  then some h else none

/-- A route site of 128 bytes (R317): its TEMPLATE is a STREAM descriptor that obeys R225, its SRC and COUNT apart, which the
router fills (notes/assumptions/39.md). -/
def parseSite (b : List Byte) : Option Site :=
  let d := parseDesc ((b.drop 64).take 64)
  if inRange false 1 256 (leAt b 0 2) && inRange false 1 8 (leAt b 2 1) && decide (leAt b 2 1 ≤ leAt b 0 2)
      && decide (leAt b 7 1 < 8) && zeroAt b 20 4 && zeroAt b 32 32
      && ({ d with src := 0, count := 1 } : Desc).ok (fun _ _ => false) (some 0x400000) && d.kind = 2 then
    some { e := leAt b 0 2, k := leAt b 2 1, inBar := leAt b 3 1, inCnt := leAt b 4 2, outBar := leAt b 6 1,
           ltile := leAt b 7 1, logits := leAt b 8 4, pres := leAt b 12 4, out := leAt b 16 4, exptab := leAt b 24 8,
           template := (b.drop 64).take 64 }
  else none

/-- A ring-table entry of 32 bytes (R304). -/
def parseRing (b : List Byte) : Option Ring :=
  let kind := leAt b 0 1
  let vec := leAt b 2 2
  let rs := leAt b 4 4
  let n := leAt b 8 4
  if inRange false 1 2 kind && zeroAt b 1 1 && (decide (vec ≤ 63) || vec = 0xFFFF) && zeroAt b 12 4
      && (if kind = 1 then rs = 32 else rs % 16 = 0 && inRange false 16 4096 rs)
      && (List.range 25).any (fun i => decide (4 ≤ i) && n = 2 ^ i) && leAt b 16 8 % 64 = 0 then
    some { kind := kind, vector := vec, recsz := rs, nrec := n, base := leAt b 16 8, ctl := leAt b 24 8, head := 0, tail := 0,
           holder := none }
  else none

/-- A decode table of 20 bytes: codec, generation, table (R151, R433). -/
def parseTable (b : List Byte) : Option (Nat × Nat × List Byte) :=
  let t := (b.drop 4).take 16
  if inRange false 1 2 (leAt b 0 1) && decide (leAt b 1 1 < 4) && zeroAt b 2 2 && tabValid t then
    some (leAt b 0 1, leAt b 1 1, t)
  else none

/-- Records of n bytes of a section. -/
def records (n : Nat) (b : List Byte) : List (List Byte) := (List.range (b.length / n)).map (fun i => (b.drop (n * i)).take n)

/-- The contents of the sections of a type, joined. -/
def sectData (ss : List Sect) (t : Nat) : List Byte := ((ss.filter (fun x => x.typ = t)).map (·.data)).flatten

/-- At most two tables of each codec, of different generations. -/
def tablesOk (ts : List (Nat × Nat × List Byte)) : Bool :=
  [1, 2].all (fun c =>
    let gs := (ts.filter (fun x => x.1 = c)).map (·.2.1)
    decide (gs.length ≤ 2) && (dedup gs).length = gs.length)

/-- The slots that tables of a codec fill (R163). -/
def slotsOf (ts : List (Nat × Nat × List Byte)) (c : Nat) : List DecSlot :=
  let l := (ts.filter (fun x => x.1 = c)).map (·.2)
  (List.range 2).map (fun i => match l[i]? with
    | some x => { cond := .live, gen := x.1, table := x.2, order := i }
    | none => { cond := .empty, gen := 0, table := List.replicate 16 0, order := 0 })

/-! ## Relocation (R434) -/

/-- A relocation entry. -/
structure Reloc where
  sect : Nat
  lsb : Nat
  width : Nat
  kind : Nat
  shift : Nat
  arg : Nat
  off : Nat
  deriving DecidableEq, Repr

/-- An entry of 16 bytes, checked against the sections. -/
def parseReloc (ss : List Sect) (b : List Byte) : Option Reloc :=
  let r : Reloc :=
    { sect := leAt b 0 2, lsb := leAt b 2 1, width := leAt b 3 1, kind := leAt b 4 1, shift := leAt b 5 1, arg := leAt b 6 2,
      off := leAt b 8 4 }
  let want := if r.kind = 3 then 0xB else 0xA
  if inRange false 1 64 r.width && decide (r.lsb + r.width ≤ 128) && decide (r.lsb ≤ 127) && inRange false 1 4 r.kind
      && decide (r.shift ≤ 63) && r.off % 16 = 0 && zeroAt b 12 4
      && ss.any (fun x => x.ix = r.sect && [1, 0xA, 6, 5].elem x.typ && decide (r.off + 16 ≤ x.len))
      && (if decide (3 ≤ r.kind) then ss.any (fun x => x.ix = r.arg && x.typ = want) else r.arg = 0)
  then some r else none

/-- Apply one relocation with its value to a placed copy. -/
def applyReloc (val : Nat) (r : Reloc) (b : List Byte) : Option (List Byte) :=
  let c := leAt b r.off 16
  let v := bitsAt c r.lsb r.width + val / 2 ^ r.shift
  if val % 2 ^ r.shift = 0 && decide (v < 2 ^ r.width) then
    some (b.take r.off ++ leBytes 16 (c - bitsAt c r.lsb r.width * 2 ^ r.lsb + v * 2 ^ r.lsb) ++ b.drop (r.off + 16))
  else none

/-- A section's copy with its relocations applied in order. -/
def relocate (rs : List Reloc) (val : Reloc → Nat) (x : Sect) : Option (List Byte) :=
  (rs.filter (fun r => r.sect = x.ix)).foldlM (fun b r => applyReloc (val r) r b) x.data

/-! ## The parsed image -/

/-- A .kgi that has passed every check that does not depend on where it is placed. -/
structure Image where
  hdr : KgiHdr
  sects : List Sect
  decl : Option StateDecl
  kv : Option KvHdr
  tables : List (Nat × Nat × List Byte)
  sems : List Nat
  relocs : List Reloc
  deriving DecidableEq, Repr

/-- Parse and check an image of KLEN bytes: the image, or the status of R431. -/
def parseImage (b : List Byte) : Except Nat Image := do
  check (leAt b 0 4 = 0x4947574B) stInvalid
  check (inRange false Config.kgiMin Config.kgiMax (leAt b 4 2)) stVersion
  let h := parseKgi b
  let n := leAt b 6 2
  check (kgiOk b h && decide (128 + 32 * n ≤ b.length)) stInvalid
  match (List.range n).mapM (parseSect b b.length) with
  | none => .error stInvalid
  | some ss => do
    check (sectsOk h n ss) stInvalid
    let decl := (ss.find? (fun x => x.typ = 3)).bind (fun x => parseDecl x.data h.rowmax)
    let kv := (ss.find? (fun x => x.typ = 4)).bind (fun x => parseKv x.data decl)
    let tables := (records 20 (sectData ss 8)).mapM parseTable
    let relocs := ((ss.filter (fun x => x.typ = 2)).flatMap (fun x => records 16 x.data)).mapM (parseReloc ss)
    check (ss.any (fun x => x.typ = 3) = decl.isSome && ss.any (fun x => x.typ = 4) = kv.isSome
      && frameOk h (kv.map (·.kvstat)) ss && ss.all (fun x => x.typ ≠ 2 || x.len % 16 = 0)) stInvalid
    match tables, relocs with
    | some ts, some rs => do
      check (tablesOk ts) stInvalid
      return { hdr := h, sects := ss, decl := decl, kv := kv, tables := ts,
               sems := (records 4 (sectData ss 7)).map leNat, relocs := rs }
    | _, _ => .error stInvalid

/-! ## Room (R21, R22, R428, R432) -/

/-- A free aligned place of n bytes below a limit: any place that meets the rules, a free choice (notes/assumptions/19.md). -/
def fitAt (spans : List (Nat × Nat)) (n align limit hint : Nat) : Option Nat :=
  let cands := hint % (limit / align + 1) * align :: 0 :: spans.map (fun r => cdiv (r.1 + r.2) align * align)
  cands.find? (fun a => decide (a + n ≤ limit) && !spans.any (fun r => overlap a n r.1 r.2))

/-- Every range that a job of the device or moved data holds. -/
def heldRanges (s : State) : List (Nat × Nat) := nonEmpty (s.jobs.flatMap (fun e => jobRanges e.2) ++ movedTo s)

/-- The parts of ranges that lie in a window of memory, as offsets in it. -/
def spansIn (rs : List (Nat × Nat)) (base len : Nat) : List (Nat × Nat) :=
  (rs.filter (fun r => overlap r.1 r.2 base len)).map (fun r => (r.1 - base, r.1 + r.2 - max base r.1))

/-- What a load has taken so far: the ranges, and how many free choices were made. -/
structure Room where
  used : List (Nat × Nat)
  ctr : Nat
  deriving DecidableEq, Repr

/-- Place n bytes at one offset in the Caldera of several tiles. -/
def fitTiles (m : Room) (ts : List Nat) (n align : Nat) : Option (Nat × Room) :=
  let spans := ts.flatMap (fun t => spansIn m.used (calAddr t 0) 0x400000)
  (fitAt spans n align 0x400000 (Config.placeHint m.ctr)).map (fun o =>
    (o, { used := ts.map (fun t => (calAddr t o, n)) ++ m.used, ctr := m.ctr + 1 }))

/-- Place n bytes in a window of memory. -/
def fitIn (m : Room) (base len n align : Nat) : Option (Nat × Room) :=
  (fitAt (spansIn m.used base len) n align len (Config.placeHint m.ctr)).map (fun o =>
    (base + o, { used := (base + o, n) :: m.used, ctr := m.ctr + 1 }))

/-- The parts of a gap (offset, length) that a span (start, end) leaves. -/
def cutGap (r g : Nat × Nat) : List (Nat × Nat) :=
  if r.2 ≤ g.1 || g.1 + g.2 ≤ r.1 then [g]
  else nonEmpty [(g.1, r.1 - g.1), (r.2, g.1 + g.2 - r.2)]

/-- The gaps that spans leave in a window of `limit` bytes. -/
def gapsOf (spans : List (Nat × Nat)) (limit : Nat) : List (Nat × Nat) :=
  spans.foldl (fun gs r => gs.flatMap (cutGap r)) [(0, limit)]

/-- Up to n units of u bytes, aligned, in gaps of a window at `base`, in their order: (units, address), and how many are left over. -/
def fillGaps (base u align : Nat) : List (Nat × Nat) → Nat → List (Nat × Nat) × Nat
  | [], n => ([], n)
  | g :: gs, n =>
    let a := cdiv g.1 align * align
    let m := min n ((g.1 + g.2 - a) / u)
    let (ps, k) := fillGaps base u align gs (n - m)
    ((if m = 0 then ps else (m, base + a) :: ps), k)

/-- Place n units of u bytes, each its own allocation: as many in each window as it has room for, the rest in the next (R22).
The pieces are (units, address). -/
def fitUnits (m : Room) (n u align : Nat) : List (Nat × Nat) → Option (List (Nat × Nat) × Room)
  | [] => if n = 0 then some ([], m) else none
  | w :: ws =>
    if n = 0 then some ([], m)
    else match fitIn m w.1 w.2 (n * u) align with
    | some (a, m1) => some ([(n, a)], m1)
    | none =>
      let (ps, k) := fillGaps w.1 u align (gapsOf (spansIn m.used w.1 w.2) w.2) n
      let m1 : Room := { m with used := ps.map (fun p => (p.2, p.1 * u)) ++ m.used }
      (fitUnits m1 k u align ws).map (fun r => (ps ++ r.1, r.2))

/-- The first window of a list with room. -/
def fitFirst (m : Room) (n align : Nat) : List (Nat × Nat) → Option (Nat × Room)
  | [] => none
  | w :: ws => match fitIn m w.1 w.2 n align with
    | some r => some r
    | none => fitFirst m n align ws

/-- The windows below Caldera that a partition may place in, a slice's own stack first: its stacks, then its host regions
that it may write and that are not its swap area (R21, R22). -/
def lowerLevels (s : State) (p own : Nat) : List (Nat × Nat) :=
  let sl := (List.range 12).filter (bitAt (getPart s p).slices)
  ((if sl.elem own then [own] else []) ++ sl.filter (· ≠ own)).map (fun n => (n * hbmBytes, hbmBytes))
    ++ ((funcRegions s (p + 1)).filter (fun r => !regSwap r && !regReadonly r)).map (fun r => (r.dpa, r.len))

/-- Place n bytes in HBM next to a slice, or below it. -/
def fitLow (s : State) (p : Nat) (m : Room) (own n align : Nat) : Option (Nat × Room) :=
  fitFirst m (max n 1) align (lowerLevels s p own)

/-! ## Shares (R428, R546) -/

/-- Tiles that a load's MASK selects: `none` names a tile outside the partition. -/
def shareOf (s : State) (p : Nat) (mask : Nat) : Option (List Nat) :=
  let pt := getPart s p
  let held := (partJobs s p).flatMap (fun e => e.2.share)
  let tiles := (List.range 96).filter (fun t => bitAt pt.slices (t / 8))
  if mask = 0 then some (if pt.table.isSome then tiles else tiles.filter (fun t => !held.elem t))
  else
    let ts := (List.range 96).filter (bitAt mask)
    if ts.all tiles.elem then some ts else none

/-- May a share be formed (R428): it is not empty, and without a cycle table it meets no other. -/
def shareFree (s : State) (p : Nat) (ts : List Nat) : Bool :=
  !ts.isEmpty && ((getPart s p).table.isSome || !(partJobs s p).any (fun e => e.2.share.any ts.elem))

/-- The lowest free job id (R427). -/
def freeJobId (s : State) : Option Nat :=
  let named := (s.parts.filterMap (·.table)).flatMap (fun t => t.wins.map (·.job))
  (List.range 65536).find? (fun i => decide (1 ≤ i) && !tHas s.jobs i && !named.elem i)

/-- The slots of a pool on a cluster: the quota's streams homed there and 2 × SPARE (R264; the quota is divided over the
share's tiles, DEDUCED, notes/assumptions/70.md). -/
def poolSize (quota : Nat) (share : List Nat) (cls : List Nat) (c spare : Nat) : Nat :=
  let n := fun x => quota * (share.filter (fun t => t / 8 = x)).length / share.length
  let rest := quota - (cls.map n).sum
  n c + (if (cls.take rest).elem c then 1 else 0) + 2 * spare

/-- Slots in the Caldera of tiles, as many as fit up to n (R22, R263). -/
def calSlots (size : Nat) : List Nat → Nat → Room → List Nat × Room
  | _, 0, m => ([], m)
  | [], _, m => ([], m)
  | t :: ts, n + 1, m => match fitTiles m [t] size 4096 with
    | some (o, m1) => let (l, m2) := calSlots size ts n m1; (calAddr t o :: l, m2)
    | none => calSlots size ts (n + 1) m

/-- Place the pool of a cluster: the addresses of its slots, each placed for itself (R22). No slot lies at device address 0, which the entry and the row
record of a job without state hold (a choice of the placement, notes/assumptions/19.md). -/
def placePool (s : State) (p : Nat) (d : StateDecl) (ts : List Nat) (c n : Nat) (m : Room) : Option (List Nat × Room) :=
  let (cal, m1) := if d.resid = 1 then calSlots d.slotSize ((List.range 1024).flatMap (fun _ => ts)) n m else ([], m)
  if cal.length = n then some (cal, m1)
  else (fitUnits { m1 with used := (0, 4096) :: m1.used } (n - cal.length) d.slotSize 4096 (lowerLevels s p c)).map (fun r =>
    (cal ++ r.1.flatMap (fun q => (List.range q.1).map (fun i => q.2 + i * d.slotSize)), r.2))

/-! ## Loading (R432 to R435) -/

/-- A placed copy of a section on a tile or a slice. -/
structure Copy where
  ix : Nat
  at_ : Nat
  addr : Nat
  len : Nat
  low : Bool
  deriving DecidableEq, Repr

/-- Tiles of role r on each cluster of a share: the r-th tile in service, or r mod n (R433). -/
def roleTiles (s : State) (share cls : List Nat) (r : Nat) : List Nat :=
  cls.filterMap (fun c =>
    let ts := share.filter (fun t => t / 8 = c && tileInService s t)
    ts[r % ts.length]?)

/-- The tiles that hold a resident section. -/
def holders (s : State) (share cls : List Nat) (nrole : Nat) (x : Sect) : List Nat :=
  let rs := if x.all then List.range nrole else [x.role]
  share.filter (fun t => rs.any (fun r => (roleTiles s share cls r).elem t))

/-- Places of n bytes for several tiles in a window of memory, as far apart as the tiles' Caldera lies, so that a ROTATE finds shard s at
SRC + s × 0x400000 there too (R231, R243, R432): the address for the first tile. -/
def fitStride (used : List (Nat × Nat)) (ts : List Nat) (n : Nat) (w : Nat × Nat) : Option Nat :=
  let off (t : Nat) : Nat := (t - ts.headD 0) * 0x400000
  let ends := (used.filter (fun r => overlap r.1 r.2 w.1 w.2)).map (fun r => cdiv (r.1 + r.2) 64 * 64)
  (w.1 :: ends.flatMap (fun e => ts.map (fun t => e - off t))).find? (fun a =>
    ts.all (fun t => inside (a + off t) n w.1 w.2 && !used.any (fun r => overlap (a + off t) n r.1 r.2)))

/-- Place one resident section: one Caldera offset on every holder; below Caldera copies at the distance of the tiles, where a window of
memory has room for them, else each by itself (R22, R231, R432). -/
def placeResident (s : State) (p : Nat) (ts : List Nat) (x : Sect) (m : Room) : Option (List Copy × Room) :=
  match fitTiles m ts (max x.len 1) 64 with
  | some (o, m1) => some (ts.map (fun t => { ix := x.ix, at_ := t, addr := calAddr t o, len := x.len, low := false }), m1)
  | none => match (lowerLevels s p (ts.headD 0 / 8)).findSome? (fitStride m.used ts (max x.len 1)) with
  | some a =>
    let cs : List Copy := ts.map (fun t =>
      { ix := x.ix, at_ := t, addr := a + (t - ts.headD 0) * 0x400000, len := x.len, low := true })
    some (cs, { m with used := cs.map (fun c => (c.addr, max x.len 1)) ++ m.used })
  | none => ts.foldlM (fun (acc : List Copy × Room) t =>
      (fitLow s p acc.2 (t / 8) x.len 64).map (fun r =>
        (acc.1 ++ [{ ix := x.ix, at_ := t, addr := r.1, len := x.len, low := true }], r.2))) ([], m)

/-- Place one HBM section: a copy for every slice of the share. -/
def placeHbm (s : State) (p : Nat) (cls : List Nat) (x : Sect) (m : Room) : Option (List Copy × Room) :=
  cls.foldlM (fun (acc : List Copy × Room) c =>
    (fitLow s p acc.2 c x.len 4096).map (fun r =>
      (acc.1 ++ [{ ix := x.ix, at_ := c, addr := r.1, len := x.len, low := true }], r.2))) ([], m)

/-- The value of a relocation for a copy on tile t (R434). -/
def relocValue (base : Nat) (share : List Nat) (res hbm : List Copy) (t : Nat) (r : Reloc) : Nat :=
  let first := (share.find? (fun u => u / 8 = t / 8)).getD t
  if r.kind = 1 then base
  else if r.kind = 2 then calAddr t base
  else if r.kind = 3 then ((hbm.find? (fun c => c.ix = r.arg && c.at_ = t / 8)).map (·.addr)).getD 0
  else
    let cs := res.filter (fun c => c.ix = r.arg)
    match cs.find? (fun c => c.at_ = first) with
    | some c => c.addr
    | none => match cs.head? with
      | some c => if c.low then c.addr else calAddr first (c.addr - calAddr c.at_ 0)
      | none => 0

/-- The KV cache of a new job: pools in every slice of the partition, frame by frame where one level has no room for the
whole (R377), the staging frames window by window (R382), tables, the prefix node table and the token store (R378; which level the tables start at,
notes/assumptions/39.md). -/
def placeKv (s : State) (p : Nat) (h : KvHdr) (m : Room) : Option (KvJob × Room) := do
  let sl := (List.range 12).filter (bitAt (getPart s p).slices)
  let fb := frameBytes h
  let (pools, m1) ← sl.foldlM (fun (acc : List (Nat × List (Nat × Nat)) × Room) n =>
    (fitUnits acc.2 h.pool fb 64 (lowerLevels s p n)).map (fun r => (acc.1 ++ [(n, r.1)], r.2))) ([], m)
  let own := sl.headD 0
  let (stage, m2) ← fitUnits m1 h.maxwin (stageBytes h) 64 (lowerLevels s p own)
  let (wt, m3) ← fitLow s p m2 own (128 * h.maxwin) 128
  let (pt, m4) ← fitLow s p m3 own (1056 * h.nlayers * h.maxwin) 64
  let (rt, m5) ← fitLow s p m4 own (16 * h.pool * sl.length) 64
  let (nt, m6) ← fitLow s p m5 own (Config.nodeBytes * h.nodes) 64
  let (ts, m7) ← fitLow s p m6 own (4 * h.tokwords) 64
  return ({ hdr := h, pools := pools, lost := [], stage := stage, winTab := wt, ptab := pt, rtab := rt, nodeTab := nt, tokStore := ts,
            wins := [], recs := [], fg := [], bg := [], gone := [], nextNode := 0, preempts := 0 }, m7)

/-- Where everything of a load goes. -/
structure Placement where
  base : Nat
  res : List Copy
  hbm : List Copy
  pools : List (Nat × List Nat)
  kv : Option KvJob
  queueAt : Nat
  replayAt : List (Nat × Nat)
  room : Room
  deriving DecidableEq, Repr

/-- Place a whole image; `none` when a level has no room. -/
def placeImage (s : State) (p : Nat) (i : Image) (share cls : List Nat) : Option Placement := do
  let m : Room := { used := heldRanges s, ctr := s.freeCtr }
  let (base, m1) ← fitTiles m share (max i.hdr.frame 1) 64
  let (res, m2) ← (i.sects.filter (fun x => x.typ = 0xA)).foldlM (fun (acc : List Copy × Room) x =>
    (placeResident s p (holders s share cls i.hdr.nrole x) x acc.2).map (fun r => (acc.1 ++ r.1, r.2))) ([], m1)
  let (hbm, m3) ← (i.sects.filter (fun x => x.typ = 0xB)).foldlM (fun (acc : List Copy × Room) x =>
    (placeHbm s p cls x acc.2).map (fun r => (acc.1 ++ r.1, r.2))) ([], m2)
  let (pools, m4) ← match i.decl with
    | none => some ([], m3)
    | some d => cls.foldlM (fun (acc : List (Nat × List Nat) × Room) c =>
        (placePool s p d (share.filter (fun t => t / 8 = c)) c (poolSize (getPart s p).quota share cls c d.spare) acc.2).map
          (fun r => (acc.1 ++ [(c, r.1)], r.2))) ([], m3)
  let (kv, m5) ← match i.kv with
    | none => some (none, m4)
    | some h => (placeKv s p h m4).map (fun r => (some r.1, r.2))
  let f := i.decl.elim i.hdr.rowmax (·.spare)
  let (q, m6) ← fitLow s p m5 (cls.headD 0) (queueBytes f) 64
  let (rb, m7) ← cls.foldlM (fun (acc : List (Nat × Nat) × Room) c =>
    (fitLow s p acc.2 c (replayBytes f) 64).map (fun r => (acc.1 ++ [(c, r.1)], r.2))) ([], m6)
  return { base := base, res := res, hbm := hbm, pools := pools, kv := kv, queueAt := q, replayAt := rb, room := m7 }

/-- Every placed copy of programs, resident and HBM sections, relocated: address and bytes. -/
def placedCopies (i : Image) (pl : Placement) (share : List Nat) : Option (List (Nat × List Byte)) := do
  let val := relocValue pl.base share pl.res pl.hbm
  let ps ← (i.sects.filter (fun x => x.typ = 1)).mapM (fun x => share.mapM (fun t =>
    (relocate i.relocs (val t) x).map (fun b => (calAddr t (pl.base + x.dest), b))))
  let rs ← pl.res.mapM (fun c => match i.sects.find? (fun x => x.ix = c.ix) with
    | some x => (relocate i.relocs (val c.at_) x).map (fun b => (c.addr, b))
    | none => none)
  let hs := pl.hbm.filterMap (fun c => (i.sects.find? (fun x => x.ix = c.ix)).map (fun x => (c.addr, x.data)))
  return ps.flatten ++ rs ++ hs

/-- A section of one type relocated for the first tile of the share, in records of n bytes. -/
def placedRecords (i : Image) (pl : Placement) (share : List Nat) (t n : Nat) : Option (List (List Byte)) :=
  match i.sects.find? (fun x => x.typ = t) with
  | none => some []
  | some x => (relocate i.relocs (relocValue pl.base share pl.res pl.hbm (share.headD 0)) x).map (records n)

/-- Does a ring lie in a host region of the partition or in the job's Caldera, its frames and resident sections, and its control pair in
the partition, clear of other jobs (R26, R304, R428)? -/
def ringOk (s : State) (p : Nat) (frame : Nat) (pl : Placement) (share : List Nat) (r : Ring) : Bool :=
  let n := r.recsz * r.nrec
  ((regionAt (funcRegions s (p + 1)) r.base n).isSome || share.any (fun t => inside r.base n (calAddr t pl.base) frame)
      || pl.res.any (fun c => !c.low && inside r.base n c.addr c.len))
    && partOwns s p r.ctl 8 && !(s.jobs.flatMap (fun e => jobRanges e.2)).any (fun q => overlap r.ctl 8 q.1 q.2)

/-- The new job's record. -/
def newJob (i : Image) (pl : Placement) (p : Nat) (share : List Nat) (rings : List Ring) (sites : List Site)
    (digest : List Byte) : Job :=
  { part := p, state := .loaded, share := share, base := pl.base, hdr := i.hdr, depth := i.hdr.depth,
    progs := (i.sects.filter (fun x => x.typ = 1)).flatMap (fun x =>
      (if x.all then List.range i.hdr.nrole else [x.role]).map (fun r => { role := r, reduced := x.reduced, dest := x.dest })),
    placed := (pl.res.map (fun c => (c, true)) ++ pl.hbm.map (fun c => (c, false))).map (fun e =>
      { sect := e.1.ix, tile := e.1.at_, addr := e.1.addr, len := e.1.len, hbm := e.1.low, resident := e.2 }),
    decl := i.decl, pools := pl.pools.map (fun e => (e.1, { slots := e.2, free := e.2.foldl setIns [] })),
    rings := rings, sites := sites,
    sems := (List.range i.sems.length).map (fun n =>
      (n, { v := i.sems.getD n 0, h := 0, v0 := i.sems.getD n 0, signalled := 0, taken := 0, waits := [] })),
    quince := slotsOf i.tables 1, sloe := slotsOf i.tables 2, loads := 2, biasLive := false, kv := pl.kv, digest := digest,
    compQ := [], abortTimes := [], t0 := 0, sched := 0, inUse := [], queueAt := pl.queueAt, replayAt := pl.replayAt }

/-- Both bias copies on every tile of the share (R343). -/
def biasCopies (i : Image) (base : Nat) (share : List Nat) : List (Nat × List Byte) :=
  let b := sectData i.sects 9
  share.flatMap (fun t => [(calAddr t (base + i.hdr.biasoff), b), (calAddr t (base + i.hdr.biasoff + 1024 * i.hdr.nbh), b)])

/-- Write a loaded job: its partition's slices leave deep-sleep (R618); copies, zeroed slots and tables, bias copies, TLE_WORK and TLE_ATT_BIAS of idle tiles. -/
def writeJob (s0 : State) (p : Nat) (j : Job) (i : Image) (cs : List (Nat × List Byte)) : State :=
  let s := forAll s0 ((List.range 12).filter (bitAt (getPart s0 p).slices)) wakeSlice
  let rs := funcRegions s (p + 1)
  let zero (s : State) (r : Nat × Nat) : State :=
    if isHost r.1 then dpaWrite s rs r.1 (List.replicate r.2 0) else devZero s r.1 r.2
  let s1 := forAll s (j.pools.flatMap (fun e => e.2.slots) |>.map (fun a => (a, slotBytes j))) zero
  let s2 := forAll s1 (j.kv.elim [] kvFixed) zero
  let s3 := forAll s2 (cs ++ biasCopies i j.base j.share) (fun s c => dpaWrite s rs c.1 c.2)
  forAll s3 j.share (fun s t => setTile s t (fun x => if x.cmd.isSome then x else
    { x with
      workBase := (j.base + j.hdr.workoff) / 64, workUnits := j.hdr.worklen / 64
      bias0 := (j.base + j.hdr.biasoff) / 64, bias1 := (j.base + j.hdr.biasoff) / 64 + 16 * j.hdr.nbh
      nbh := j.hdr.nbh, biasLive := false }))

/-- A placement of nothing, with which sections are checked that have no room: every relocation adds an address of offset 0. -/
def Placement.none : Placement :=
  { base := 0, res := [], hbm := [], pools := [], kv := Option.none, queueAt := 0, replayAt := [], room := { used := [], ctr := 0 } }

/-- Load an image into a partition: the state, the job id, and DETAIL; or the status that refuses it. Every check of the image comes before
those of room (R435, R547). `busy` says that a resize is in progress. -/
def loadImage (s : State) (p : Nat) (b : List Byte) (mask : Nat) (busy : Bool) : Except Nat (State × Nat × Nat) := do
  check (shareOf s p mask).isSome stInvalid
  let i ← parseImage b
  let share := (shareOf s p mask).getD []
  let cls := (List.range 12).filter (fun c => share.any (fun t => t / 8 = c))
  let room := placeImage s p i share cls
  let pl := room.getD Placement.none
  match placedCopies i pl share, (placedRecords i pl share 6 32).bind (fun l => l.mapM parseRing),
      (placedRecords i pl share 5 128).bind (fun l => l.mapM parseSite) with
  | some cs, some rings, some sites => do
    check (room.isNone || rings.all (ringOk s p i.hdr.frame pl share)) stInvalid
    check (!busy) stBusy
    check (decide ((partJobs s p).length < 16) && shareFree s p share && room.isSome) stNoResource
    match freeJobId s with
    | some id => do
      let j := newJob i pl p share rings sites (Config.shake256 b 64)
      let s1 := { s with jobs := tPut s.jobs id j, freeCtr := pl.room.ctr }
      let low := (pl.res.filter (·.low)).map (fun c => cdiv c.len 4096)
      return (writeJob s1 p j i cs, id,
        (cls.map (2 ^ ·)).sum + 2 ^ 16 * share.length + 2 ^ 32 * low.sum)
    | none => .error stNoResource
  | _, _, _ => .error stInvalid

end Sys2Proof.Machine
end

