-- ==== Sys2Proof/Machine/SchedOps.lean ====
section
/-! DEFINITION. Scheduling: candidates, placement, work lists, issue and arrival of tasks, window kills, and the task commit
(R163 to R165, R195, R196, R265, R307 to R316, R326 to R328, R385, R397, R441 to R445). -/

namespace Sys2Proof.Machine

/-! ## Candidates (R309, R315) -/

/-- Class rank. -/
def classRank (st : Stream) : Nat := if st.dclass = 2 then 1 else 0

/-- HDEAD: the deadline of the head chunk, all ones for none (R293). -/
def headDead (st : Stream) : Nat := ((headChunk st).bind (·.deadline)).getD (2 ^ 64 - 1)

/-- Sort order of R309. -/
def before (a b : Nat × Stream) : Bool :=
  decide (classRank a.2 < classRank b.2) || (classRank a.2 = classRank b.2 && (decide (headDead a.2 < headDead b.2)
    || (headDead a.2 = headDead b.2 && decide (a.1 < b.1))))

def insertBy (x : Nat × Stream) : List (Nat × Stream) → List (Nat × Stream)
  | [] => [x]
  | y :: r => if before x y then x :: y :: r else y :: insertBy x r

def sortStreams (l : List (Nat × Stream)) : List (Nat × Stream) := l.foldr insertBy []

/-- Is a stream a candidate of its job's step on its home cluster? -/
def candidate (s : State) (st : Stream) : Bool :=
  (st.state = .runnable || (st.state = .closing && headReady st))
    && (match st.kvw with
        | none => true
        | some w => match (getKv s st.job).bind (fun k => tGet k.wins w) with
          | some win => win.state = .resident && !win.flushPend
          | none => true)

/-- Streams of a job homed on a cluster. -/
def homed (s : State) (j cl : Nat) : List (Nat × Stream) := s.streams.filter (fun e => e.2.job = j && e.2.home / 8 = cl)

/-- Does the head chunk of a stream end for lateness when construction begins (R315)? -/
def dropsHead (s : State) (st : Stream) : Bool :=
  st.dclass = 0 && !st.cont && (match queued st with
    | c :: _ => c.steps = 0 && c.landed && (match c.deadline with | some d => decide (d < now s) | none => false)
    | [] => false)

/-- Drop a stream's late head chunks, as many as are late. -/
def dropLateN (s : State) (i : Nat) : Nat → State
  | 0 => s
  | n + 1 => match getStream s i with
    | some st => if dropsHead s st then dropLateN (tryFree (refresh (endHead s i chDropped 5) i) i) i n else s
    | none => s

/-- With DROP_LATE, late RT head chunks of the candidates end before construction. -/
def dropLate (s : State) (j cl : Nat) : State :=
  if ((getJob s j).map (fun x => (getPart s x.part).dropLate)).getD false then
    forAll s ((homed s j cl).filter (fun e => candidate s e.2)) (fun s e => dropLateN s e.1 (e.2.chunks.length + 1))
  else s

/-! ## Placement (R310, R311) -/

/-- Rows placed on a tile so far. -/
def rowsOn (m : Tab Nat) (t : Nat) : Nat := (tGet m t).getD 0
def addRow (m : Tab Nat) (t : Nat) : Tab Nat := tPut m t (rowsOn m t + 1)

/-- The tile with the fewest rows and room, the lowest of several. -/
def leastLoaded (m : Tab Nat) (cap : Nat) (ts : List Nat) : Option Nat :=
  (ts.filter (fun t => decide (rowsOn m t < cap))).foldl (fun (b : Option Nat) t => match b with
    | some x => if rowsOn m t < rowsOn m x then some t else b
    | none => some t) none

/-- Pass 1: the home tile while it has room; those placed (with their tile) and those left. -/
def pass1 {α : Type} (cap : Nat) (home : α → Option Nat) : List α → Tab Nat → List (α × Nat) × List α × Tab Nat
  | [], m => ([], [], m)
  | x :: r, m => match home x with
    | some t =>
      if rowsOn m t < cap then
        let (p, l, m2) := pass1 cap home r (addRow m t)
        ((x, t) :: p, l, m2)
      else
        let (p, l, m2) := pass1 cap home r m
        (p, x :: l, m2)
    | none =>
      let (p, l, m2) := pass1 cap home r m
      (p, x :: l, m2)

/-- Pass 2: the least loaded tile; those placed and those that find no room. -/
def pass2 {α : Type} (cap : Nat) (ts : List Nat) : List α → Tab Nat → List (α × Nat) × List α
  | [], _ => ([], [])
  | x :: r, m => match leastLoaded m cap ts with
    | some t => let (p, l) := pass2 cap ts r (addRow m t); ((x, t) :: p, l)
    | none => let (p, l) := pass2 cap ts r m; (p, x :: l)

/-- Both passes: rows tile by tile in ascending order, pass-1 rows first, and the rows left off the list. -/
def placeRows {α : Type} (cap : Nat) (ts : List Nat) (home : α → Option Nat) (l : List α) : List (α × Nat) × List α :=
  let (p1, left, m) := pass1 cap home l []
  let (p2, off) := pass2 cap ts left m
  (ts.flatMap (fun t => p1.filter (fun e => e.2 = t) ++ p2.filter (fun e => e.2 = t)), off)

/-! ## Work lists (R312 to R314) -/

/-- DLINE: ns from the step to the deadline. -/
def dline (d : Option Nat) (t : Nat) : Nat :=
  match d with
  | none => 0xFFFFFFFF
  | some d => if d ≤ t then 0 else min (d - t) 0xFFFFFFFE

/-- The row record of a candidate placed on a tile (R314). -/
def mkRow (s : State) (i : Nat) (st : Stream) (tile assigned : Nat) : Row :=
  let c := headChunk st
  let mark := c.elim 0xFFFF (·.mark)
  { stream := i, len := if st.cont then 0 else c.elim 0 (·.frames),
    rst := if st.cont || mark = 0xFFFF then none else some mark, rst0 := st.rstPend, sr := st.sr, cont := st.cont,
    check := st.check, replay := false, tile := tile, step := st.step, active := st.slot, assigned := assigned,
    chunk := if st.cont then 0
      else (64 * st.irbase + c.elim 0 (·.off)) / 64 + 2 ^ 16 * st.home + 2 ^ 31,
    bytes := if st.cont then 0 else c.elim 0 (·.bytes), kvw := st.kvw, kvlen := st.kvlen, exitThr := st.exitThr,
    dline := dline (c.bind (·.deadline)) (now s),
    pins := match st.kvw with
      | some w => ((getKv s st.job).bind (fun k => tGet k.wins w)).elim [] winRecs
      | none => [],
    experts := 0, moved := false }

/-- Take an assigned slot for a row of a job with state; construction never finds the pool without one (R264). -/
def assignSlot (s : State) (j cl : Nat) : Nat × State :=
  let (a, s1) := takeSlot s j cl
  (a.getD 0, s1)

/-- Place one candidate: its assigned slot, its pins, its state WAITING, its check noted (R265, R296, R391, R566); a check
against a Fumarole out of service is NOT_RUN (R656). -/
def placeRow (j cl : Nat) (acc : State × List Row) (e : (Nat × Stream) × Nat) : State × List Row :=
  let noFum := acc.1.checks.any (fun q => q.stream = e.1.1 && q.fum) && !(getDie acc.1 (e.2 / 48)).fumOk
  let (a, s1) := assignSlot (if noFum then notRun acc.1 e.1.1 else acc.1) j cl
  let r := mkRow s1 e.1.1 { e.1.2 with check := e.1.2.check && !noFum } e.2 a
  let s2 := setStream s1 r.stream (fun st => { st with
    state := .waiting, pclose := st.pclose || st.state = .closing, cont := false })
  let s3 := forAll s2 r.pins (fun s x => addPin s j x)
  ({ s3 with checks := s3.checks.map (fun q =>
      if q.stream = r.stream then { q with placed := true, step := r.step, firstTile := r.tile } else q) }, acc.2 ++ [r])

/-- A serial number for a new task (R312). -/
def newSerial (s : State) : Nat × State := (s.nextTask % (2 ^ 32 - 1) + 1, { s with nextTask := s.nextTask + 1 })

/-- Where the tiles of a new task start: role r on the r-th tile in service, or r mod n (R433). -/
def startPositions (s : State) (j : Job) (cl : Nat) : List TilePos :=
  let ts := serviceOn s j cl
  (((List.range ts.length).zip ts).filter (fun e => !(rolesAt j.hdr.nrole ts.length e.1).isEmpty)).map (fun e =>
    let rs := rolesAt j.hdr.nrole ts.length e.1
    { ident := e.2, tile := e.2, stage := 0, role := rs.headD 0, left := rs.drop 1, fin := false, run := .first })

/-- A new task of rows on a cluster. -/
def newTask (s : State) (j cl : Nat) (x : Job) (rows : List Row) : Task :=
  { job := j, cluster := cl, sched := x.sched, tstep := now s, state := .built, replay := false,
    reduced := !(getGey s cl).full, rows := rows, pos := startPositions s x cl, finals := [], refQ := [], refS := [],
    biasCopy := false, kills := 0, streak := 0, killedAt := 0, finalAt := 0, bars := [], holds := [], signals := [], drift := [], sites := [] }

/-- Tasks of a job on a cluster, with their serial numbers. -/
def tasksOn (s : State) (j cl : Nat) : List (Nat × Task) := s.tasks.filter (fun e => e.2.job = j && e.2.cluster = cl)

/-- May a cluster build a task of a job in its present mode (R631, R632, R656)? -/
def modeBuilds (s : State) (x : Job) (cl : Nat) : Bool :=
  let g := getGey s cl
  !g.phase2 && (g.full || (x.hdr.reduced && (getDie s (cl / 6)).fumOk))

/-- Build a task of new rows on a cluster (R308 to R312). -/
def buildTask (s : State) (j cl : Nat) : State :=
  let s0 := dropLate s j cl
  match getJob s0 j with
  | none => s0
  | some x =>
    let cs := sortStreams ((homed s0 j cl).filter (fun e => candidate s0 e.2))
    let ts := serviceOn s0 x cl
    let (placed, off) := placeRows x.hdr.rowcap ts (fun (e : Nat × Stream) => if ts.elem e.2.home then some e.2.home else none)
      (cs.take x.hdr.rowmax)
    let s1 := orcAdd s0 x.part 9 (cs.length - x.hdr.rowmax + off.length)
    if placed.isEmpty then s1
    else
      let (s2, rows) := placed.foldl (placeRow j cl) (s1, [])
      let (k, s3) := newSerial s2
      { s3 with tasks := tPut s3.tasks k (newTask s3 j cl x rows) }

/-- Issue a replay task that is due, under a new serial number and the aborted task's step number: fresh slots, withdrawn tiles' rows
moved; a row that finds no room is left off and stays due (R55, R310, R311, R328; notes/assumptions/78.md). -/
def issueReplay (s : State) (j cl k : Nat) (x : Task) : State :=
  match getJob s j with
  | none => s
  | some jb =>
    let ts := serviceOn s jb cl
    let (placed, off) := placeRows jb.hdr.rowcap ts (fun (r : Row) => if ts.elem r.tile then some r.tile else none) x.rows
    let left (s : State) : State :=
      { s with tasks := if off.isEmpty then tDel s.tasks k else tMod s.tasks k (fun y => { y with rows := off }) }
    let (s1, rows) := placed.foldl (fun (acc : State × List Row) e =>
      let (a, s2) := assignSlot acc.1 j cl
      let dl := (getStream s2 e.1.stream).bind (fun st => (headChunk st).bind (·.deadline))
      (s2, acc.2 ++ [{ e.1 with
        tile := e.2, assigned := a, replay := true, moved := e.2 ≠ e.1.tile, dline := dline dl (now s) }])) (s, [])
    let (n, s3) := newSerial s1
    let y := { newTask s3 j cl jb rows with
      sched := x.sched, replay := true, refQ := x.refQ, refS := x.refS, biasCopy := x.biasCopy }
    let s4 := orcAdd s jb.part 9 off.length
    if placed.isEmpty then s4
    else
      let s5 := left (orcAdd (orcAdd s3 jb.part 9 off.length) jb.part 8 rows.length)
      { s5 with tasks := tPut s5.tasks n y }

/-- One cluster's part of a scheduling step (R308, R443). -/
def stepOn (s : State) (j cl : Nat) : State :=
  match getJob s j with
  | none => s
  | some x =>
    let ts := tasksOn s j cl
    if !modeBuilds s x cl then s
    else match ts.find? (fun e => e.2.state = .suspended), ts.find? (fun e => e.2.state = .replayDue) with
      | some e, _ => setTask s e.1 (fun y => { y with state := .built })
      | none, due =>
        if 2 ≤ (ts.filter (fun e => e.2.state ≠ .replayDue)).length then orcAdd s x.part 10 1
        else match due with
          | some e => issueReplay s j cl e.1 e.2
          | none => if x.compQ.isEmpty then buildTask s j cl else s

/-! ## The start of a step (R304, R332, R397, R441) -/

/-- Read the head words of a job's rings that can be read now, whose lines the device cache holds (R304, R509). -/
def readHeads (s0 : State) (j : Nat) : State :=
  let s := match getJob s0 j with
    | none => s0
    | some x => forAll s0 x.rings (fun s r => if headReadable s x.part r then holdHead s (x.part + 1) r.ctl else s)
  setJob s j (fun x => { x with rings := x.rings.map (fun r =>
    if headReadable s x.part r then { r with head := leNat (dpaRead s (funcRegions s (x.part + 1)) r.ctl 4) } else r) })

/-- ORC_CTRL's pending fields become live at a scheduling step (R210, R332, R334). -/
def orcBoundary (s : State) (p : Nat) : State :=
  setPart s p (fun x => match x.pendOrc with
    | some (e, d) => { x with schedEn := e, dropLate := d, pendOrc := none }
    | none => x)

/-- May a scheduling step of a job begin: it is RUNNING, its partition ACTIVE, no job-wide fields awaited (R429, R447)? Whether it
schedules is for SCHED_EN, as the start of the step leaves it (R332, R334). -/
def stepsRun (s : State) (x : Job) : Bool :=
  x.state = .running && (getPart s x.part).state = .active
    && !s.waiters.any (fun w => match w.what with | .cfg sc _ w => w && sc = x.part | _ => false)

/-- The clusters on which a step of a job may begin now: those of its share that a window covers; with SPER = 0 those that
hold no task and have something to build (R307, R441). -/
def stepClusters (s : State) (j : Nat) (x : Job) (cls : List Nat) : List Nat :=
  (dedup cls).filter (fun c => (shareClusters x).elem c
    && (shareOn x c).all (tileOpen s x.part j)
    && (x.hdr.sper ≠ 0 || (getPart s x.part).table.isSome
        || ((tasksOn s j c).all (fun e => e.2.state = .replayDue || e.2.state = .suspended)
            && (!(tasksOn s j c).isEmpty || (homed s j c).any (fun e => candidate s e.2)))))

/-! ## Arrival (R164, R187, R253, R344) -/

/-- The generations LIVE in a codec's slots with their tables, in the order in which they were loaded. -/
def liveRefs (l : List DecSlot) : List (Nat × List Byte) :=
  let live := l.filter (fun d => d.cond = .live)
  let sorted := match live with
    | [a, b] => if b.order < a.order then [b, a] else [a, b]
    | x => x
  sorted.map (fun d => (d.gen, d.table))

/-- A replay of a row runs: its chunk's completion will say so (R305). -/
def markReplay (s : State) (r : Row) : State :=
  if r.replay then
    setStream s r.stream (fun st => { st with chunks := st.chunks.modify (headIx st) (fun c => { c with replayed := true }) })
  else s

/-- At its boundary an engine takes the settings that wait for it (R594). -/
def takeSettings (g : Gey) : Gey := match g.setNext with | some v => { g with setVer := v, setNext := none } | none => g

/-- A work list reaches its cluster: the task latches its reference set and bias copy, unless a replay keeps the aborted
task's; Geyser's pending fields become live; the list goes into every tile of the share. -/
def listArrives (s : State) (k : Nat) (x : Task) (j : Job) : State :=
  let fresh := x.kills = 0 && x.pos.all (fun p => p.stage = 0 && !p.fin)
  let s1 := setTask s k (fun y => { y with
    state := .executing,
    refQ := if x.replay || !fresh then y.refQ else liveRefs j.quince,
    refS := if x.replay || !fresh then y.refS else liveRefs j.sloe,
    biasCopy := if x.replay || !fresh then y.biasCopy else j.biasLive })
  let s2 := setGey s1 x.cluster (fun g => match g.pend with
    | some (m, b) => { takeSettings g with mergeWait := m, bgSlack := b, pend := none }
    | none => takeSettings g)
  match getTask s2 k with
  | some y => forAll (forAll s2 x.rows markReplay) (shareOn j x.cluster) (fun s t => writeList s k y j t t)
  | none => s2

/-- A work list arrives, and its task's commands start. -/
def arrive (s : State) (k : Nat) (x : Task) (j : Job) : State :=
  forAll (listArrives s k x j) (x.pos.map (·.ident)) (fun s i => startPos s k i)

/-! ## Window ends (R442 to R445) -/

/-- A final-stage position of a killed task starts its roles again (R199, R443). -/
def restartPos (x : Task) (j : Job) (i : Nat) (p : TilePos) : TilePos :=
  if p.stage + 1 = j.hdr.nstage then
    let rs := rolesAt j.hdr.nrole x.pos.length i
    { p with role := rs.headD 0, left := rs.drop 1, fin := false }
  else p

/-- The runs of a task's checked commands start over. -/
def resetChecks (s : State) (x : Task) : State :=
  { s with checks := s.checks.map (fun q =>
    if x.rows.any (fun r => r.stream = q.stream) then
      { q with checkTile := none, thirdTile := none, result1 := none, result2 := none } else q) }

/-! ## What a task's commit phase needs (R193, R195, R385) -/

/-- The value of a key summed over a list of amounts. -/
def sumKey (l : List (Nat × Nat)) (k : Nat) : Nat := ((l.filter (fun e => e.1 = k)).map Prod.snd).sum

/-- Every amount that a task's commit applies. -/
def taskHolds (x : Task) : List (Nat × Nat) := x.holds ++ x.finals.flatMap (fun f => f.2.holds)
def taskSignals (x : Task) : List (Nat × Nat) := x.signals ++ x.finals.flatMap (fun f => f.2.semsig)

/-- A semaphore after the commit's holds and signals (R204). -/
def semAfter (x : Task) (k : Nat) (m : Sem) : Nat := m.v - sumKey (taskHolds x) k + sumKey (taskSignals x) k

/-- The word of a batch row among the commands of the final stage; 0 when none reported one. -/
def rowWord (ws : List (Nat × W32)) (r : Nat) : W32 := ((ws.find? (fun e => e.1 = r)).map Prod.snd).getD 0

def taskStatus (x : Task) (r : Nat) : W32 := rowWord (x.finals.flatMap (fun f => f.2.status)) r
def taskKvstat (x : Task) (r : Nat) : W32 := rowWord (x.finals.flatMap (fun f => f.2.kvstat)) r

/-- Is an append word legal for a row (R385)? -/
def kvstatOk (r : Row) (w : W32) : Bool :=
  let n := w.toNat % 128
  decide (w.toNat < 128) && decide (n ≤ 64 - r.kvlen % 64) && decide (r.kvlen + n ≤ 2 ^ 20)

/-- APPEND lengths by ring. -/
def taskAppends (x : Task) : List (Nat × Nat) := x.finals.flatMap (fun f => f.2.appends)

/-- The tail words that a task's APPEND lengths advance. -/
def tailWords (x : Task) (j : Job) : List Nat :=
  (taskAppends x).filterMap (fun a => if a.2 = 0 then none else (j.rings[a.1]?).map (fun r => r.ctl + 4))

/-- A tail word that the commit may not write: it lies in no host region of the partition, or in a READONLY one (R26, R508). -/
def badTail (s : State) (x : Task) (j : Job) : Option Nat :=
  (tailWords x j).find? (fun a => !mayWrite (funcRegions s (j.part + 1)) a 4)

/-- The cause of the check that keeps a task's commit phase from beginning (R195, R385, R508). -/
def commitCause (s : State) (x : Task) (j : Job) : Option Nat :=
  if j.sems.any (fun e => decide (2 ^ 32 ≤ semAfter x e.1 e.2)) then some 0x1A
  else if (taskAppends x).any (fun a => match j.rings[a.1]? with
      | some r => decide (ringFree r < a.2) || a.2 % r.recsz ≠ 0
      | none => true) then some 0x1B
  else if j.kv.isSome && ((List.range x.rows.length).zip x.rows).any (fun e =>
      e.2.kvw.isSome && !stSkip (taskStatus x e.1) && !kvstatOk e.2 (taskKvstat x e.1)) then some 0x40
  else (badTail s x j).map (fun _ => 0x1F)

/-- Are all final-stage commands of a task in COMMIT_WAIT (R193)? -/
def allFinal (x : Task) : Bool := x.state = .executing && !x.pos.isEmpty && x.pos.all (·.fin)

/-- Has a task's commit phase begun before now: its last command reached COMMIT_WAIT earlier, and no check stops it (R195, R442)? -/
def inCommit (s : State) (x : Task) (j : Job) : Bool := allFinal x && decide (x.finalAt < now s) && (commitCause s x j).isNone

/-! ## Window ends (R442 to R445) -/

/-- Kill a task's commands at a window end: those in a commit phase run to its end. -/
def windowKill (s : State) (p k : Nat) (x : Task) (j : Job) (past : Nat) : State :=
  let inCommit := (taskTiles s k).filter (fun t => (getCmd s t).any committing)
  let s1 := forAll (countFinals s k 1) ((taskTiles s k).filter (fun t => !inCommit.elem t)) (fun s t => killCmd s t 1)
  let s2 := releaseHolds s1 x.job (x.finals.flatMap (fun f => f.2.holds))
  let s3 := forAll s2 (x.finals.map Prod.fst) (fun s t => releaseRings s x.job t)
  let s4 := setPart s3 p (fun y => { y with
    debits := inCommit.foldl (fun d t => tPut d t past) y.debits })
  resetChecks (setTask s4 k (fun y => { y with
    state := .suspended, kills := y.kills + 1, streak := y.streak + 1, killedAt := past, finals := [],
    pos := y.pos.mapIdx (fun i q => restartPos y j i q) })) x

/-- A window end that reaches a task's commit phase: it runs on, and its overrun counts from here on its tiles (R195, R445). -/
def overrunTask (s : State) (p k : Nat) : State :=
  setTask (setPart s p (fun y => { y with debits := (taskTiles s k).foldl (fun d t => tPut d t (now s)) y.debits })) k
    (fun x => { x with streak := 0 })

/-- What a window end does to one executing task: suspended, aborted with cause 0x50 at its fourth kill, or ended when its
job is STOPPING (R430, R444); in its commit phase it runs on (R445). -/
def endWindowTask (s : State) (p k : Nat) (x : Task) : State :=
  match getJob s x.job with
  | none => s
  | some j =>
    if inCommit s x j then overrunTask s p k
    else
    let at0 := ((taskTiles s k).head?).getD ((x.pos.head?).elim 0 (·.tile))
    let s1 := windowKill s p k x j (now s)
    if j.state = .stopping then
      let s2 := releaseTask s1 k
      let s3 := forAll s2 x.rows (fun s r => rowAbort s x.job r)
      { s3 with tasks := tDel s3.tasks k }
    else if 4 ≤ x.streak + 1 then
      abortTask s1 k { cause := 0x50, tile := at0, pc := (getCmd s at0).elim 0 (·.pc), halt := 0, addr := 0 }
    else mgtAdd s1 p 0 1

/-! ## Cycle tables taking effect (R436, R440) -/

/-- A window's entry of 32 bytes. -/
def winEntry (w : CycleWin) : List Byte :=
  leBytes 4 w.start ++ leBytes 4 w.len ++ leBytes 2 w.job ++ leBytes 2 0 ++ leBytes 12 w.mask ++ leBytes 8 0

/-- Entry k of a table; zeros beyond its windows. -/
def cycleEntry (t : Option CycleTab) (k : Nat) : List Byte :=
  ((t.elim [] (·.wins))[k]?).elim (List.replicate 32 0) winEntry

/-- Log a change of a partition's table: the period, the count, the windows (R581). -/
def logTable (s : State) (source p : Nat) (old new : Option CycleTab) : State :=
  let n (t : Option CycleTab) := t.elim 0 (·.wins.length)
  let lg (s : State) (field : Nat) (a b : List Byte) := logChange s source p 0x0203 0 field a b
  let s1 := lg s 0 (leBytes 4 (old.elim 0 (·.period))) (leBytes 4 (new.elim 0 (·.period)))
  let s2 := lg s1 4 (leBytes 1 (n old)) (leBytes 1 (n new))
  forAll s2 (List.range (max (n old) (n new))) (fun s k => lg s (16 + 32 * k) (cycleEntry old k) (cycleEntry new k))

/-- A table takes effect: logged, a new period begins, nothing is owed (R440, R581). -/
def applyTable (s : State) (p fn : Nat) (tab : CycleTab) : State :=
  let new := if tab.wins.isEmpty then none else some tab
  setPart (logTable s fn p (getPart s p).table new) p (fun x => { x with table := new, periodStart := now s, debits := [], owed := [] })

/-! ## The task commit (R196, R204, R326) -/

/-- Advance an APPEND ring: the tail, its word in memory, its vector (R196, R304). -/
def advanceRing (s : State) (j : Nat) (a : Nat × Nat) : State :=
  match getJob s j with
  | none => s
  | some x => match x.rings[a.1]? with
    | none => s
    | some r =>
      if a.2 = 0 then s
      else
        let tail := (r.tail + a.2 / r.recsz) % 2 ^ 32
        let s1 := setJob s j (fun y => { y with rings := y.rings.modify a.1 (fun r => { r with tail := tail }) })
        let s2 := dpaPut s1 (x.part + 1) (r.ctl + 4) (leBytes 4 tail)
        if r.vector = 0xFFFF then s2 else fireVector s2 (x.part + 1) r.vector

/-- The semaphores after a task commit, with their totals (R204, R454). -/
def commitSems (s : State) (j : Nat) (x : Task) : State :=
  setJob s j (fun y => { y with sems := y.sems.map (fun e =>
    let h := sumKey (taskHolds x) e.1
    let g := sumKey (taskSignals x) e.1
    (e.1, { e.2 with v := semAfter x e.1 e.2, h := e.2.h - h, signalled := e.2.signalled + g, taken := e.2.taken + h })) })

/-- The drift counts of a batch row (R290). -/
def taskDrift (x : Task) (r : Nat) : Nat × Nat :=
  (x.drift ++ x.finals.flatMap (fun f => f.2.drift)).foldl (fun (a : Nat × Nat) d =>
    if d.1 = r then (a.1 + d.2.1, a.2 + d.2.2) else a) (0, 0)

/-- Step 5 of R196 for one batch row, and the end of its check (R566). -/
def commitRow (j : Nat) (hdr : KgiHdr) (x : Task) (s : State) (e : Nat × Row) : State :=
  let w := taskStatus x e.1
  let n := if stSkip w || e.2.kvw.isNone then 0 else (taskKvstat x e.1).toNat % 128
  let (sat, nan) := taskDrift x e.1
  let s1 := rowCommit s j hdr e.2 w n sat nan
  if e.2.check then
    concludeCheck s1 e.2.stream (b2n ((s1.checks.find? (fun q => q.stream = e.2.stream)).elim false (·.mismatch)))
  else s1

/-- The ranges that a task's commit makes current: the assigned slot of each stepped row, and the inactive staging set of a row
that appends (R190, R386). -/
def freshRanges (x : Task) (j : Job) : List (Nat × Nat) :=
  ((List.range x.rows.length).zip x.rows).flatMap (fun e =>
    if stSkip (taskStatus x e.1) then []
    else (if e.2.assigned = 0 then [] else [(e.2.assigned, slotBytes j)])
      ++ match j.kv, e.2.kvw with
        | some k, some w =>
          if (taskKvstat x e.1).toNat % 128 = 0 then []
          else (tGet k.wins w).elim [] (fun v =>
            [(stageFrame k w (b2n (!v.ssel)) 0, k.hdr.nlayers * frameBytes k.hdr)])
        | _, _ => [])

/-- The bytes of state slots that a command publishes: not those that are unpredictable (R284). -/
def publishedSlots (p : Published) : List (Nat × Byte) := p.slots.filter (fun w => !p.loose.elem w.1)

/-- One byte of such a range: left unwritten by the task's commands it holds an unpredictable value, a free value (R190, R386;
notes/assumptions/21.md). An uncorrectable word stays as it is. -/
def freshByte (fn cl : Nat) (wr : List (Nat × Byte)) (s : State) (a : Nat) : State :=
  if (tGet wr a).isSome || isBad s a then s
  else { placedWrite s fn (getGey s cl) a (Config.freeByte s.freeCtr) with freeCtr := s.freeCtr + 1 }

/-- The unwritten bytes of what a task's commit makes current; commands that run keep what they read there (R29). -/
def freshBytes (s : State) (own : List Nat) (x : Task) (j : Job) : State :=
  let wr := x.finals.flatMap (fun f => publishedSlots f.2 ++ f.2.kv)
  let as := (freshRanges x j).flatMap (fun r => addrs r.1 r.2)
  forAll (keepOld s j.part own as) as (freshByte (j.part + 1) x.cluster wr)

/-- The commit phase of a task in the order of R196; the tiles become IDLE and the task is gone. -/
def commitTask (s : State) (k : Nat) (x : Task) (j : Job) : State :=
  let own := taskTiles s k
  let s1 := forAll (freshBytes s own x j) x.finals (fun s f =>
    countCommit (publish s j.part (f.1 / 8) own (f.2.copies ++ publishedSlots f.2 ++ f.2.appendBytes ++ f.2.kv)) (f.1 / 8) f.2.copies)
  let s2 := forAll (keepOld s1 j.part own ((tailWords x j).flatMap (fun a => addrs a 4))) (taskAppends x) (fun s a => advanceRing s x.job a)
  let s3 := commitSems s2 x.job x
  let s4 := forAll s3 x.finals (fun s f => recordFlags s f.1 f.2.flags)
  let s5 := forAll s4 ((List.range x.rows.length).zip x.rows) (commitRow x.job j.hdr x)
  let s6 := forAll s5 (taskTiles s5 k) (fun s t => clearTile (releaseRings s x.job t) t)
  let s7 := forAll s6 (x.finals.map Prod.fst) (fun s t => releaseRings s x.job t)
  settle { s7 with tasks := tDel s7.tasks k }

end Sys2Proof.Machine
end

