-- ==== Sys2Proof/Machine/PartOps.lean ====
section
/-! DEFINITION. What the partition and job commands share: slices and quotas, zeroing, cycle tables and admission, closing
streams, releasing jobs, and the conservation identities (R420 to R430, R436 to R440, R453 to R456). -/

namespace Sys2Proof.Machine

/-! ## Slices and quotas (R420 to R423) -/

def maskSlices (m : Nat) : List Nat := (List.range 12).filter (bitAt m)

/-- The slices a partition holds, those that a command in progress adds or removes included. -/
def heldMask (x : Part) : Nat :=
  match x.shapeOp with
  | some (.resize _ _ m _) => x.slices ||| m
  | _ => x.slices

/-- The quota a partition holds, that of a resize in progress included. -/
def heldQuota (x : Part) : Nat :=
  match x.shapeOp with
  | some (.resize _ _ _ q) => max x.quota q
  | _ => x.quota

/-- The quota that a set which is not yet live throughout brings (R447). -/
def comingQuota (s : State) (p : Nat) : Nat :=
  if s.waiters.any (fun w => match w.what with | .cfg sc _ b => b && sc = p | _ => false) then (curSet s p).elim 0 (·.quota)
  else 0

/-- Sum of the quotas of the other partitions. -/
def otherQuotas (s : State) (p : Nat) : Nat :=
  (((List.range 12).filter (· ≠ p)).map (fun q => max (heldQuota (getPart s q)) (comingQuota s q))).sum

/-- Is every slice of a mask online and in no other partition? -/
def slicesFree (s : State) (p m : Nat) : Bool :=
  (maskSlices m).all (fun n => (getSlice s n).online
    && !((List.range 12).filter (· ≠ p)).any (fun q => bitAt (heldMask (getPart s q)) n))

/-- The quota that an operand names: 0 is the default of R422. -/
def quotaOf (m q : Nat) : Nat := if q = 0 then 5456 * popMask m else q

/-- The own conditions of PART_CREATE and PART_RESIZE on slices and quota. -/
def shapeCheck (s : State) (p m q : Nat) : Option Nat :=
  if m = 0 || decide (65536 < q) then some stInvalid
  else if !slicesFree s p m || decide (65536 < otherQuotas s p + quotaOf m q) then some stNoResource
  else none

/-- Is a command that changes a partition's shape in progress: its slices, a cycle table, a job that stops, a set (R425, R565)? Later
ones wait. -/
def shaping (s : State) (p : Nat) : Bool :=
  (getPart s p).shapeOp.isSome || (getPart s p).tableNext.isSome || s.waiters.any (fun w => match w.what with
    | .jobStop j => (getJob s j).any (fun x => x.part = p)
    | .cfg sc _ _ => sc = p
    | _ => false)

/-- Is it a command's turn: nothing in progress, and no command waits that reached Tyrax earlier (R425)? -/
def shapeTurn (s : State) (h : DciHdr) : Bool :=
  !shaping s (partOf h) && (getPart s (partOf h)).shapeQ.head?.all (fun e => e = (h.fn, h.tag))

/-- A command's turn is over: it waits no more. -/
def shapeDone (h : DciHdr) (x : Part) : Part := { x with shapeQ := x.shapeQ.filter (fun e => e ≠ (h.fn, h.tag)) }

/-- A command is held: it takes its place behind those that reached Tyrax before it. -/
def shapeHold (h : DciHdr) (x : Part) : Part :=
  if x.shapeQ.elem (h.fn, h.tag) then x else { x with shapeQ := x.shapeQ ++ [(h.fn, h.tag)] }

/-- Carry out a command that R425 orders when it is its turn, or at once where a rule has it answered although another is in progress; until
then it is held in the order of arrival, and its row comes again (notes/assumptions/76.md). -/
def shapeRun (s : State) (i : Instr) (h : DciHdr) (atOnce : Bool) (chk : Option Nat) (f : Unit → DciRes) : State :=
  if !partValue h false then dciRun s i h chk f
  else if dciHeld s i h then s
  else if !(atOnce || shapeTurn s h) then setStage (setPart s (partOf h) (shapeHold h)) h .taken
  else match chk.elim (f ()) .fail with
    | .hold => setStage (setPart s (partOf h) (shapeHold h)) h .taken
    | r => setPart (dciAnswer s h r) (partOf h) (shapeDone h)

/-- Zeros in a slice's stack and in the Caldera of its tiles (R421), which then hold no placed range. -/
def zeroSlice (s0 : State) (n : Nat) : State :=
  let s := wakeSlice s0 n
  let s1 := devZero s (n * hbmBytes) hbmBytes
  let s2 := devZero s1 (calAddr (8 * n) 0) (8 * 0x400000)
  setGey s2 n (fun g => { g with place := [] })

def zeroMask (s : State) (m : Nat) : State := forAll s (maskSlices m) zeroSlice

/-- Load a partition's key, or nothing, into the slots of stacks: PART_DESTROY and a slice that leaves clear them (R589). -/
def loadSlots (s : State) (m : Nat) (k : Option (BitVec 512)) : State :=
  forAll s (maskSlices m) (fun s n => setSlice s n (fun x => { x with keySlot := k }))

def setScope (s : State) (sc : Nat) (f : ScopeSt → ScopeSt) : State := { s with scopes := s.scopes.modify sc f }

/-- Log a partition's slices and quota (R581). -/
def logShape (s : State) (fn p code m0 q0 m1 q1 : Nat) : State :=
  logChange (logChange s fn p code 0 20 (leBytes 2 m0) (leBytes 2 m1)) fn p code 0 24 (leBytes 4 q0) (leBytes 4 q1)

/-- A new key for a partition, wrapped under the wrapping key, and the next of its 32-bit key generations (R421, R587, R589). -/
def newKey (s : State) (p : Nat) : State :=
  let (n, s1) := takeFree s
  let k := Config.random n
  setPart s1 p (fun x => { x with
    key := some k, wrapped := (s.mgt.wrapKey.map (fun w => Config.wrapKey w k)).getD [], keyGen := (x.keyGen + 1) % 2 ^ 32 })

/-- PART_CREATE begins: the key, the slices; the partition is NONE until they are zeroed. The record of an audit that failed stays until
MISMATCH is cleared (R461), and a stored cycle table goes with the definition that is replaced (R577). -/
def beginCreate (s : State) (p m q : Nat) (op : ShapeOp) : State :=
  settleTags <| newKey (setPart s p (fun x => { x with
    slices := m, quota := q, entFree := q, tagsHeld := 0, tagsFree := 340 * popMask m, shapeOp := some op, mgtCnt := List.replicate 5 0, storedTable := none, totSubmitted := 0,
    totDone := 0, totAborted := 0, totDropped := 0, queue := EvQueue.reset, table := none, tableNext := none,
    treeOps := [], debits := [], owed := [] })) p

/-- A created partition is EMPTY and schedules; its definition is stored. -/
def endCreate (s : State) (p : Nat) : State :=
  let x := getPart s p
  setPart (zeroMask (loadSlots s x.slices x.key) x.slices) p (fun x => { x with
    state := .empty, shapeOp := none, schedEn := true, pendOrc := none, stored := true, storedSlices := x.slices,
    storedQuota := x.quota })

/-- The partition is gone: its sets, its staged sets, its definition, its queue; its counts and
the record of a failed audit stay (R423, R461, R463, R545). -/
def endDestroy (s : State) (p : Nat) : State :=
  let x := getPart s p
  let s1 := setScope (loadSlots (zeroMask s x.slices) x.slices none) p (fun _ => ScopeSt.reset)
  { setPart s1 p (fun x => { Part.reset with
    orcCnt := x.orcCnt, kvCnt := x.kvCnt, mgtCnt := x.mgtCnt, audit := x.audit, keyGen := x.keyGen, shapeQ := x.shapeQ }) with
    errors := s1.errors.filter (fun e => e.fn ≠ p + 1) }

/-- A resized partition: the slices removed and added are zeroed, those added under its key, and a new set holds the quota (R423, R545,
R589). -/
def endResize (s : State) (p m q : Nat) : State :=
  let x := getPart s p
  let gone := x.slices - (x.slices &&& m)
  let s1 := loadSlots (zeroMask (loadSlots (zeroMask s gone) (m - (x.slices &&& m)) x.key) (m - (x.slices &&& m))) gone none
  let s2 := setPart s1 p (fun x => withTags { withQuota x q with
    slices := m, shapeOp := none, stored := true, storedSlices := m, storedQuota := q })
  let s3 := setScope s2 p (fun y => { y with
    prev := y.cur, cur := y.cur.map (fun c => { c with
      version := (c.version + 1) % 2 ^ 32, quota := q, raw := c.raw.take 0x40 ++ leBytes 4 q ++ c.raw.drop 0x44 }) })
  writeCfg s3 p (maskSlices (m - (x.slices &&& m)))

/-! ## Cycle tables (R436 to R440) -/

/-- Parse a window entry. -/
def parseCycleWin (b : List Byte) : Option CycleWin :=
  if zeroAt b 10 2 && zeroAt b 24 8 then
    some { start := leAt b 0 4, len := leAt b 4 4, job := leAt b 8 2, mask := leAt b 12 12 }
  else none

/-- Parse a cycle table: header and entries. -/
def parseCycle (b : List Byte) : Option CycleTab :=
  if zeroAt b 5 11 && decide (1000 ≤ leAt b 0 4) && decide (leAt b 0 4 ≤ 100000) && decide (leAt b 4 1 ≤ 64) then
    ((List.range (leAt b 4 1)).mapM (fun k => parseCycleWin ((b.drop (16 + 32 * k)).take 32))).map (fun ws =>
      { period := leAt b 0 4, wins := ws })
  else none

/-- Do two windows overlap in time and in tiles? -/
def winsClash (a b : CycleWin) : Bool :=
  overlap a.start a.len b.start b.len && (a.mask &&& b.mask) ≠ 0

/-- Is a window well formed for its job? -/
def winOk (s : State) (p period : Nat) (w : CycleWin) : Bool :=
  decide (w.start + w.len ≤ period) && decide (50 ≤ w.len)
    && (match getJob s w.job with
      | none => false
      | some j => j.part = p && (j.state = .loaded || j.state = .running)
          && (maskTiles w.mask).all j.share.elem
          && (shareClusters j).all (fun c =>
              (shareOn j c).all (bitAt w.mask) || (shareOn j c).all (fun t => !bitAt w.mask t)))

/-- No two windows of a list clash. -/
def noClash : List CycleWin → Bool
  | [] => true
  | w :: r => r.all (fun v => !winsClash w v) && noClash r

/-- Do any two jobs of a partition share a tile? -/
def sharesMeet (s : State) (p : Nat) : Bool :=
  let js := partJobs s p
  js.any (fun a => js.any (fun b => a.1 ≠ b.1 && a.2.share.any b.2.share.elem))

/-- The windows of a job that cover a cluster. -/
def winsOn (t : CycleTab) (j c : Nat) : List CycleWin :=
  t.wins.filter (fun w => w.job = j && (List.range 8).any (fun i => bitAt w.mask (8 * c + i)))

/-- R437. -/
def tableWf (s : State) (p : Nat) (t : CycleTab) : Bool :=
  if t.wins.isEmpty then !sharesMeet s p
  else t.wins.all (winOk s p t.period) && noClash t.wins
    && t.wins.all (fun w => (getJob s w.job).all (fun j => (shareClusters j).all (fun c => !(winsOn t w.job c).isEmpty)))

/-- The greatest interval between starts of a job's windows on a cluster, taken cyclically (R438). -/
def gmaxOn (t : CycleTab) (j c : Nat) : Nat :=
  let ss := (winsOn t j c).map (·.start)
  ss.foldl (fun m a =>
    let d := ss.foldl (fun (d : Nat) b => if a < b then min d (b - a) else min d (b + t.period - a)) t.period
    max m d) 0

/-- R438 for one job under a table. -/
def admitsJob (t : CycleTab) (j : Nat) (x : Job) : Bool :=
  (t.wins.filter (fun w => w.job = j)).all (fun w => decide (x.hdr.taskUs + 18 ≤ w.len))
    && (x.hdr.chunkBound = 0 || (shareClusters x).all (fun c => decide (4 * gmaxOn t j c + 20 ≤ x.hdr.chunkBound)))

/-- R438 for a table. -/
def tableAdmits (s : State) (t : CycleTab) : Bool :=
  t.wins.all (fun w => (getJob s w.job).all (admitsJob t w.job))

/-- R439: admission without a cycle table. -/
def admitsFree (x : Job) : Bool :=
  (x.hdr.sper = 0 || decide (x.hdr.taskUs + 6 ≤ x.hdr.sper))
    && (x.hdr.chunkBound = 0
        || decide (4 * (if x.hdr.sper = 0 then x.hdr.taskUs + 6 else x.hdr.sper) + 20 ≤ x.hdr.chunkBound))

/-! ## Closing streams and releasing jobs (R296, R297, R430) -/

/-- JOB_STOP: every stream closes with DISCARD, and tasks that are not to be issued again end (R430). -/
def stopJob (s : State) (j : Nat) : State :=
  let s1 := setJob s j (fun x => { x with state := if x.state = .tornDown then .tornDown else .stopping })
  let s2 := forAll s1 (jobStreams s1 j) (fun s i => closeStream s i true)
  let ks := s2.tasks.filter (fun e => e.2.job = j && (e.2.state = .replayDue || e.2.state = .suspended))
  forAll s2 ks (fun s e =>
    let s3 := releaseTask s e.1
    let s4 := forAll s3 e.2.rows (fun s r => rowAbort s j r)
    { s4 with tasks := tDel s4.tasks e.1 })

/-- A partition without jobs is EMPTY again (R424). -/
def emptyPart (s : State) (p : Nat) : State :=
  setPart s p (fun x => if x.state = .active && (partJobs s p).isEmpty then { x with state := .empty } else x)

/-- Zero the tiles of a share as R421 does; a tile that another job shares keeps that job's ranges (R428, R430). -/
def zeroShare (s : State) (j : Nat) (x : Job) : State :=
  let s1 := zeroRanges s (jobRanges x)
  forAll s1 x.share (fun s t =>
    if s.jobs.any (fun e => e.1 ≠ j && e.2.share.elem t) then s else devZero s (calAddr t 0) 0x400000)

/-- Release a job's id and share; a JOB_STOP that waits completes and is logged (R430, R549, R581). -/
def releaseJob (s : State) (j : Nat) (x : Job) : State :=
  let s1 := dropPlaced (zeroShare s j x) (jobRanges x)
  let s2 := emptyPart { s1 with jobs := tDel s1.jobs j } x.part
  let s3 := match s2.waiters.find? (fun w => w.what = .jobStop j) with
    | some w => logChange s2 w.fn x.part 0x0302 j 0 (leBytes 2 j) (leBytes 2 0)
    | none => s2
  let s4 := completeWaiters (endTables s3 j) (fun w => w.what = .jobStop j) stOk 0 0
  idleSwitch s4 x.part

/-- May a job be released: it is STOPPING, or TORN_DOWN with a JOB_STOP, and no stream or task is left? -/
def releasable (s : State) (j : Nat) (x : Job) : Bool :=
  (x.state = .stopping || (x.state = .tornDown && s.waiters.any (fun w => w.what = .jobStop j)))
    && (jobStreams s j).isEmpty && !s.tasks.any (fun e => e.2.job = j)

/-- Does a PART_DESTROY of the partition wait? -/
def destroying (s : State) (p : Nat) : Bool :=
  match (getPart s p).shapeOp with
  | some (.destroy ..) => true
  | _ => false

/-- PART_DESTROY of a FAULTED partition releases a job, its streams and its id, once every completion of it is posted (R306, R330,
R423). -/
def dropJob (s : State) (j : Nat) (x : Job) : State :=
  if x.compQ.isEmpty then releaseJob (forAll s (jobStreams s j) (fun s i => (getStream s i).elim s (dropEntry s i))) j x else s

/-- Every job of the partition that has no completion to post. -/
def dropFaulted (s : State) (p : Nat) : State := forAll s (partJobs s p) (fun s e => dropJob s e.1 e.2)

/-- After a completion of a job is posted: a PART_DESTROY that waits for it goes on. -/
def dropPosted (s : State) (j : Nat) : State :=
  match getJob s j with
  | some x => if destroying s x.part then dropJob s j x else s
  | none => s

/-! ## Conservation (R331, R412, R453 to R455) -/

/-- An identity that fails: quantity code, UTYPE, unit, both sides. -/
structure Mismatch where
  qty : Nat
  utype : Nat
  unit : Nat
  job : Nat
  left : Nat
  right : Nat
  deriving DecidableEq, Repr

/-- An identity. -/
def ident (qty utype unit job left right : Nat) : Mismatch :=
  { qty := qty, utype := utype, unit := unit, job := job, left := left, right := right }

/-- KV identities of a job: frames, references, pins (R412). -/
def kvIdents (s : State) (j : Nat) (k : KvJob) : List Mismatch :=
  let live := k.recs.filter (fun e => !e.2.swapped)
  let used := (live.flatMap (fun e => addrs e.2.frame (2 ^ e.2.pk) |>.map (fun f => (e.2.slice, f))))
  let freeOnes := (poolSlices k).flatMap (fun q => (List.range k.hdr.pool).filterMap (fun f =>
    if used.elem (q, f) then none else some f))
  let per := 2 * k.hdr.nlayers
  let holders := (k.wins.map (fun w => (winRecs w.2).length)).sum + (k.bg.map (fun n => n.2.recs.length)).sum + k.gone.length
  let rows := ((s.tasks.filter (fun e => e.2.job = j)).map (fun e => (e.2.rows.map (·.pins.length)).sum)).sum
  let moving := ((k.wins.filter (fun w => w.2.state = .swappingOut)).map (fun w => w.2.moving.length)).sum
  [ident 1 0x04 j j (freeOnes.length + (k.hdr.maxwin - k.wins.length) * per + kvMapped k + kvStaging k) (kvTotal k),
   ident 2 0x04 j j ((k.recs.map (·.2.ref)).sum) holders,
   ident 3 0x04 j j ((k.recs.map (·.2.pin)).sum) (rows + moving)]

/-- Geyser identities of a cluster (R247). -/
def geyIdents (s : State) (c : Nat) : List Mismatch :=
  let g := getGey s c
  [ident 4 0x02 c 0 (g.credFree + usedCredits g) 2816,
   ident 5 0x02 c 0 (g.entFree + cmdEntries g + drainEntries g + sysUsed g) 3072]

/-- Slots that the rows of a job's tasks hold on a cluster. -/
def assignedOn (s : State) (j c : Nat) : Nat :=
  ((tasksOn s j c).map (fun e => (e.2.rows.filter (fun r => r.assigned ≠ 0)).length)).sum

/-- Pool identities of a job (R331). -/
def poolIdents (s : State) (j : Nat) (x : Job) : List Mismatch :=
  x.pools.map (fun p => ident 7 0x02 p.1 j
    (((homed s j p.1).filter (fun e => e.2.slot ≠ 0)).length + assignedOn s j p.1 + p.2.free.length) p.2.slots.length)

/-- The holds of a job's commands and tasks on a semaphore (R454): commands in their start block or execute phase, tasks in
COMMIT_WAIT. -/
def semHolds (s : State) (j k : Nat) : Nat :=
  ((jobTiles s j).map (fun t => (getCmd s t).elim 0 (fun c => if isChecking c then 0 else sumKey c.holds k))).sum
    + ((s.tasks.filter (fun e => e.2.job = j)).map (fun e => sumKey (taskHolds e.2) k)).sum

/-- Semaphore identities: V = V0 + signalled − taken; H equals the holds and H ≤ V (R454). -/
def semIdents (s : State) (j : Nat) (x : Job) : List Mismatch :=
  x.sems.flatMap (fun e =>
    [ident 9 0x08 e.1 j (e.2.v + e.2.taken) (e.2.v0 + e.2.signalled), ident 9 0x08 e.1 j e.2.h (semHolds s j e.1)]
      ++ (if e.2.h ≤ e.2.v then [] else [ident 9 0x08 e.1 j e.2.h e.2.v]))

/-- Chunks queued or in flight in a partition. -/
def partChunks (s : State) (p : Nat) : Nat :=
  ((s.streams.filter (fun e => e.2.part = p)).map (fun e => (queued e.2).length)).sum

/-- Non-FREE entries of a partition. -/
def partUsed (s : State) (p : Nat) : Nat := (s.streams.filter (fun e => e.2.part = p)).length

/-- The ports of a partition: frames delivered and GAP frames against frame periods, in both directions (R453). -/
def portIdents (s : State) (m : Nat) : List Mismatch :=
  ((List.range 8).filter (bitAt m)).flatMap (fun n =>
    let q := getPort s n
    [ident 0xA 0x06 n 0 q.rxFidx (q.rxDelivered + q.rxGap), ident 0xA 0x06 n 0 q.txFidx (q.txDelivered + q.txGap)])

/-- Every identity of a partition, in order of quantity code. -/
def partIdents (s : State) (p : Nat) : List Mismatch :=
  let x := getPart s p
  let js := partJobs s p
  let kv := js.flatMap (fun e => e.2.kv.elim [] (kvIdents s e.1))
  let gey := (maskSlices x.slices).flatMap (geyIdents s)
  kv ++ gey ++ [ident 6 0x07 p 0 ((partUsed s p : Int) + x.entFree).toNat x.quota]
    ++ js.flatMap (fun e => poolIdents s e.1 e.2)
    ++ [ident 8 0x07 p 0 x.totSubmitted (x.totDone + x.totAborted + x.totDropped + partChunks s p)]
    ++ js.flatMap (fun e => if e.2.state = .tornDown then [] else semIdents s e.1 e.2) ++ portIdents s x.portMask
    ++ [ident 0xB 0x07 p 0 (x.tagsFree + x.tagsHeld) (340 * popMask x.slices)]

/-- CONSERVATION of a failed identity. -/
def conservation (scope : Nat) (m : Mismatch) : Event :=
  { mkEvent 0x0B scope m.utype m.unit with job := m.job, cause := m.qty, detail := leBytes 8 m.left ++ leBytes 8 m.right }

/-- Audit one partition: each failed identity is posted, the first is kept, and the partition faults (R455, R456, R461). -/
def auditPart (serial : Nat) (s : State) (p : Nat) : State :=
  if (getPart s p).state = .none then s
  else match (partIdents s p).filter (fun m => m.left ≠ m.right) with
    | [] => s
    | m :: r =>
      let seq := (partSeq s p).getD 0
      let s1 := forAll s (m :: r) (fun s m => postBoth s p (conservation p m))
      let s2 := setPart s1 p (fun x => { x with
        audit := if x.audit.mismatch then x.audit
          else { mismatch := true, qty := m.qty, unit := m.unit % 65536, serial := serial % 2 ^ 32 } })
      partFault s2 p 0 seq

/-- The quotas of partitions that exist and the physical function's reserve make 65,536 (R422, R455). -/
def quotaSum (s : State) : Nat := ((List.range 12).map (fun p => heldQuota (getPart s p))).sum

end Sys2Proof.Machine
end

