-- ==== Sys2Proof/Machine/Part.lean ====
section
/-! DEFINITION. The partition and job commands, and what Tyrax completes of them: zeroing, job release, the auditor
(R420 to R440, R453 to R456, R544 to R549). -/

namespace Sys2Proof.Machine

/-- PART_CREATE: the key, then zeros; the partition is NONE until PART_ZERO_DONE (R421). -/
def execPartCreate (h : DciHdr) (slices : BitVec 12) (quota : W32) (s : State) : Out :=
  let p := partOf h
  let m := slices.toNat
  .next (shapeRun s (.partCreate h slices quota) h false (partCheck s h true false false true false) (fun _ =>
    if (getPart s p).state ≠ .none then .fail stInvalid
    else match shapeCheck s p m quota.toNat with
      | some st => .fail st
      | none => .wait (beginCreate s p m (quotaOf m quota.toNat) (.create h.fn h.tag))))

/-- PART_RESIZE of an EMPTY partition (R423). -/
def execPartResize (h : DciHdr) (slices : BitVec 12) (quota : W32) (s : State) : Out :=
  let p := partOf h
  let m := slices.toNat
  .next (shapeRun s (.partResize h slices quota) h false (partCheck s h true false false false false) (fun _ =>
    match shapeCheck s p m quota.toNat with
    | some st => .fail st
    | none =>
      if (getPart s p).state ≠ .empty then .fail stBusy
      else .wait (setPart s p (fun x => { x with
        shapeOp := some (.resize h.fn h.tag m (quotaOf m quota.toNat)) }))))

/-- PART_DESTROY of an EMPTY or FAULTED partition, or of a stored definition alone (R423, R577). -/
def execPartDestroy (h : DciHdr) (s : State) : Out :=
  let p := partOf h
  let x := getPart s p
  .next (shapeRun s (.partDestroy h) h false (partCheck s h true false false (x.stored) true) (fun _ =>
    match x.state with
    | .none => .done (logShape (endDestroy s p) h.fn p 0x0202 x.storedSlices x.storedQuota 0 0) stOk 0 0
    | .active => .fail stBusy
    | _ => .wait (dropFaulted (setPart s p (fun x => { x with shapeOp := some (.destroy h.fn h.tag) })) p)))

/-- PART_ZERO_DONE: the slices of a partition command hold zeros, and the command completes (R421, R423, R577). PART_DESTROY zeroes them
after the jobs of a FAULTED partition are released: before that nothing happens. -/
def execPartZeroDone (part : Nat) (s : State) : Out :=
  let x := getPart s part
  .next (match x.shapeOp with
    | none => s
    | some .recreate => writeCfg (endCreate s part) part (maskSlices x.slices)
    | some (.create fn tag) =>
      let s1 := setScope (endCreate s part) part (fun _ => { ScopeSt.reset with cur := some (CfgSet.reset part x.quota) })
      let s2 := writeCfg s1 part (maskSlices x.slices)
      dciComplete (logShape s2 fn part 0x0200 0 0 x.slices x.quota) fn tag stOk part 0
    | some (.resize fn tag m q) =>
      dciComplete (logShape (endResize s part m q) fn part 0x0201 x.slices x.quota m q) fn tag stOk part 0
    | some (.destroy fn tag) =>
      if !(partJobs s part).isEmpty then s
      else dciComplete (logShape (endDestroy s part) fn part 0x0202 x.slices x.quota 0 0) fn tag stOk 0 0)

/-- PART_CYCLE_TABLE: a well-formed, admitted table takes effect at once when none is in force, else at the end of the
period; a second one before that completes BUSY (R436 to R440). -/
def execPartCycleTable (h : DciHdr) (buf : W64) (s : State) : Out :=
  let p := partOf h
  let go (s : State) : DciRes :=
    match readBuf s h (some p) buf.toNat 16 with
    | .error r => r
    | .ok hd => match readBuf s h (some p) buf.toNat (16 + 32 * leAt hd 4 1) with
      | .error r => r
      | .ok b => match parseCycle b with
        | none => .fail stInvalid
        | some t =>
          if !tableWf s p t then .fail stInvalid
          else if !tableAdmits s t then .fail stNoResource
          else if (getPart s p).tableNext.isSome then .fail stBusy
          else if (getPart s p).table.isNone then .done (applyTable s p h.fn t) stOk 0 0
          else .wait (setPart s p (fun x => { x with tableNext := some (t, h.fn, h.tag) }))
  .next (shapeRun s (.partCycleTable h buf) h (getPart s p).tableNext.isSome (partCheck s h true false false false false) (fun _ => go s))

/-- JOB_LOAD (R427 to R435, R546, R547). -/
def execJobLoad (h : DciHdr) (klen : W32) (kgi : W64) (mask : BitVec 96) (s : State) : Out :=
  let p := partOf h
  let resizing := match (getPart s p).shapeOp with | some (.resize ..) => true | _ => false
  let go (s : State) : DciRes :=
    if decide (klen.toNat < 4096) || decide (0x40000000 < klen.toNat) then .fail stInvalid
    else match readBuf s h (some p) kgi.toNat klen.toNat with
      | .error r => r
      | .ok b => match loadImage s p b mask.toNat resizing with
        | .error st => .fail st
        | .ok (s1, id, det) =>
          let s2 := setPart s1 p (fun x => { x with state := .active })
          let s3 := logAdd s2 { mkLog 0x01 h.fn p 0x0300 id with new := pad16 (leBytes 2 id) }
          let s4 := logAdd s3 { mkLog 0x01 h.fn p 0x0300 id with new := pad16 (((getJob s3 id).elim [] (·.digest)).take 16) }
          .done s4 stOk id det
  .next (shapeRun s (.jobLoad h klen kgi mask) h resizing (partCheck s h false false false false false) (fun _ => go s))

/-- A job of the partition that a command names. -/
def jobOf (s : State) (p j : Nat) : Option Job := (getJob s j).bind (fun x => if x.part = p then some x else none)

/-- JOB_START (R429, R438, R439, R548). -/
def execJobStart (h : DciHdr) (job : Nat) (s : State) : Out :=
  let p := partOf h
  .next (shapeRun s (.jobStart h job) h false (partCheck s h false false false false false) (fun _ =>
    match jobOf s p job with
    | none => .fail stNotFound
    | some x =>
      let ok := match (getPart s p).table with | some t => admitsJob t job x | none => admitsFree x
      if x.state ≠ .loaded then .fail stInvalid
      else if !ok then .fail stNoResource
      else
        let s1 := setJob s job (fun x => { x with state := .running, t0 := now s })
        let s2 := logChange { s1 with time := { s1.time with noStep := true } } h.fn p 0x0301 job 0 (leBytes 1 0) (leBytes 1 1)
        .done s2 stOk 0 (now s)))

/-- JOB_STOP: completes when the job's id is released; one that arrives while the job is STOPPING completes with the first (R430, R549). -/
def execJobStop (h : DciHdr) (job : Nat) (s : State) : Out :=
  let p := partOf h
  .next (shapeRun s (.jobStop h job) h ((jobOf s p job).any (fun x => x.state = .stopping)) (partCheck s h false false false false false) (fun _ =>
    match jobOf s p job with
    | none => .fail stNotFound
    | some _ => .wait (stopJob (dciWait s h.fn h.tag (.jobStop job) none) job)))

/-- JOB_RELEASE: every stream of a stopping job is FREE (R430). -/
def execJobRelease (job : Nat) (s : State) : Out :=
  .next (match getJob s job with
    | none => s
    | some x => if releasable s job x then releaseJob s job x else s)

/-- AUDIT: the audit that is due checks every partition and what the physical function holds, its reserve of entries and its 16 tags; instants that have passed without one count as late in each
(R453 to R456, R594). -/
def execAudit (s : State) : Out :=
  .next (
    if now s < s.time.auditNext || !tyraxUp s then s
    else
      let past := now s - s.time.auditNext
      let due := past / 10000000 + 1
      let late := cdiv past 10000000
      let ps := (List.range 12).filter (fun p => (getPart s p).state ≠ .none)
      let s1 := forAll s ps (fun s p => auditPart (s.time.auditSerial + due - 1) (mgtAdd s p 4 late) p)
      let s2 := if quotaSum s1 ≤ 65536 then s1
        else postDev s1 (conservation 0xF0 (ident 6 0 0 0 (quotaSum s1) 65536))
      let s3 := if s2.pfTags = Config.pfTags then s2 else postDev s2 (conservation 0xF0 (ident 0xB 0 0 0 s2.pfTags Config.pfTags))
      { s3 with time := { s3.time with
          auditNext := s3.time.auditNext + 10000000 * due, auditSerial := s3.time.auditSerial + due } })

end Sys2Proof.Machine
end

