-- ==== Sys2Proof/Machine/FeedOps.lean ====
section
/-! DEFINITION. Feed descriptors, chunks in an input ring, and completions in a completion ring (R298 to R306). -/

namespace Sys2Proof.Machine

/-- A feed descriptor of 32 bytes (R299) with its arrival time. -/
def parseFeed (b : List Byte) (arrival : Nat) : FeedDesc :=
  { stream := leAt b 0 2, frames := leAt b 2 2, mark := leAt b 4 2, flags := leAt b 6 1,
    rsv := leAt b 6 1 / 2 ≠ 0 || !zeroAt b 7 1 || !zeroAt b 24 8,
    bytes := leAt b 8 4, tag := leAt b 12 4, addr := leAt b 16 8, arrival := arrival }

/-- RESET_REQ. -/
def FeedDesc.reset (d : FeedDesc) : Bool := bitAt d.flags 0

/-- The stream that a descriptor names, when it is a stream of the partition. -/
def feedStream (s : State) (p i : Nat) : Option Stream :=
  match getStream s i with
  | some st => if st.part = p then some st else none
  | none => none

/-- A descriptor whose fields make it neither a chunk nor a reset request (R301, R552). -/
def FeedDesc.malformed (d : FeedDesc) : Bool :=
  d.rsv || (d.frames = 0 && !d.reset) || (d.frames ≠ 0 && d.reset)

/-! ## The input ring (R302) -/

def ringBytes (st : Stream) : Nat := 64 * st.irunits

/-- Bytes of a record with its payload, padded to 64. -/
def chunkBytes (n : Nat) : Nat := cdiv (32 + n) 64 * 64

/-- The pad before a chunk of n bytes that would straddle the end of the ring. -/
def chunkPad (st : Stream) (n : Nat) : Nat :=
  let pos := st.irtail % ringBytes st
  if pos + n ≤ ringBytes st then 0 else ringBytes st - pos

/-- Does a chunk with a payload of n bytes fit in the free space? -/
def chunkFits (st : Stream) (n : Nat) : Bool :=
  let need := chunkBytes n
  decide (need ≤ ringBytes st)
    && decide (need + chunkPad st need ≤ ringBytes st - (st.irtail - st.irhead))

/-- Deadline of a chunk (R315). -/
def chunkDeadline (st : Stream) (bound arrival : Nat) : Option Nat :=
  if st.dclass < 2 then some (arrival + 1000 * bound) else none

/-- A chunk before it is placed in a ring. -/
def newChunk (st : Stream) (bound : Nat) (d : FeedDesc) : Chunk :=
  { frames := d.frames, mark := d.mark, bytes := d.bytes, tag := d.tag, src := d.addr, arrival := d.arrival,
    deadline := chunkDeadline st bound d.arrival, off := 0, used := 0, landed := false, ended := false, steps := 0,
    result := 0, lastStep := none, allSkip := true, replayed := false, exited := false, drift := false }

/-- Queue a chunk at the tail of the ring. -/
def pushChunk (c : Chunk) (st : Stream) : Stream :=
  let need := chunkBytes c.bytes
  let pad := chunkPad st need
  { st with
    chunks := st.chunks ++ [{ c with off := (st.irtail + pad) % ringBytes st, used := need + pad }]
    irtail := st.irtail + pad + need }

/-- The cause that drops a chunk when its descriptor is handled, in the order of R301. -/
def dropCause (st : Stream) (h : KgiHdr) (d : FeedDesc) : Option Nat :=
  if st.state = .faulted then some 6
  else if st.state = .closing then some 4
  else if h.frameMax < d.frames || d.bytes = 0 || h.chunkMax < d.bytes || (d.mark ≠ 0xFFFF && d.frames ≤ d.mark) then some 3
  else if 1023 ≤ (queued st).length then some 2
  else if !chunkFits st d.bytes then some 1
  else none

/-- A reset request (R297, R301). -/
def resetRequest (st : Stream) : Stream :=
  if st.state = .waiting then { st with rstNext := true } else { st with rstPend := true }

/-- Submit a chunk to a stream: queued, or ended DROPPED with its cause (R301). -/
def submitChunk (s : State) (i : Nat) (st : Stream) (d : FeedDesc) : Option Nat × State :=
  match getJob s st.job with
  | none => (none, s)
  | some j =>
    let s1 := setPart (orcAdd s st.part 0 1) st.part (fun x => { x with totSubmitted := x.totSubmitted + 1 })
    let c := newChunk st j.hdr.chunkBound d
    match dropCause st j.hdr d with
    | some k => (some k, queueDone s1 i st c chDropped k)
    | none => (none, setStream s1 i (pushChunk c))

/-- Handle one descriptor from a feed ring of a partition (R301). -/
def handleFeed (s : State) (p : Nat) (d : FeedDesc) : State :=
  match feedStream s p d.stream with
  | none => orcAdd s p 4 1
  | some st =>
    if d.malformed then orcAdd s p 4 1
    else if d.reset then
      if st.state = .closing || st.state = .faulted then orcAdd s p 4 1 else setStream s d.stream resetRequest
    else (submitChunk s d.stream st d).2

/-! ## Payloads (R302) -/

/-- The record of a chunk. -/
def recordBytes (c : Chunk) : List Byte :=
  leBytes 2 c.frames ++ leBytes 2 c.mark ++ leBytes 4 c.bytes ++ leBytes 4 c.tag ++ leBytes 4 0 ++ leBytes 8 c.arrival
    ++ leBytes 8 (c.deadline.getD (2 ^ 64 - 1))

/-- Write a chunk's record and payload into the ring, and a record with FRAMES = 0 over the space it skipped. -/
def writeChunk (s : State) (st : Stream) (c : Chunk) (payload : List Byte) : State :=
  let base := calAddr st.home (64 * st.irbase)
  let need := chunkBytes c.bytes
  let s1 := if need < c.used then devWrite s (asWrites (base + ringBytes st - (c.used - need)) (List.replicate 32 0)) else s
  devWrite s1 (asWrites (base + c.off) (recordBytes c ++ payload))

/-- The payload of a chunk in host memory, when it can be read. -/
def payloadOf (s : State) (p : Nat) (c : Chunk) : Option (List Byte) :=
  if hostReadOk s (p + 1) && isHost c.src then
    (regionAt (funcRegions s (p + 1)) c.src c.bytes).map (fun r => hostRead s (busAddr r c.src) c.bytes)
  else none

/-- The first chunk whose payload is still being fetched. -/
def fetchIx (st : Stream) : Option Nat :=
  let n := (st.chunks.takeWhile (·.landed)).length
  if n < st.chunks.length then some n else none

/-- Mark a chunk's fetch ended. -/
def markLanded (s : State) (i k : Nat) : State :=
  setStream s i (fun st => { st with chunks := st.chunks.modify k (fun c => { c with landed := true }) })

/-- The fetch of a stream's chunk k ends: written and available, DROPPED with cause 0x07, or its space released. -/
def landPayload (s : State) (i : Nat) (st : Stream) (k : Nat) (c : Chunk) (ok : Bool) : State :=
  if c.ended then tryFree (setStream (markLanded s i k) i purgeStream) i
  else match (if ok then payloadOf s st.part c else none) with
    | some bs => refresh (markLanded (writeChunk s st c bs) i k) i
    | none => tryFree (refresh (endChunk (markLanded s i k) i k chDropped 7) i) i

/-! ## Completion rings (R304 to R306) -/

/-- A chunk completion of 32 bytes. -/
def chunkDoneBytes (d : ChunkDone) : List Byte :=
  leBytes 4 d.tag ++ leBytes 2 d.stream ++ leBytes 1 d.status ++ leBytes 1 0 ++ leBytes 4 d.result ++ leBytes 4 d.step
    ++ leBytes 8 d.detail ++ leBytes 8 d.time

/-- Has a ring room for one more record, by the head word read last? -/
def ringRoom (r : Ring) : Bool := decide ((r.tail + 2 ^ 32 - r.head) % 2 ^ 32 < r.nrec)

/-- The first completion that waits for a ring of a job. -/
def waitingDone (j : Job) (ring : Nat) : Option ChunkDone := j.compQ.find? (fun d => d.ring = ring)

/-- Write one completion to its ring: the record, the tail, the tail word, the vector. -/
def postChunkDone (s : State) (j : Nat) (x : Job) (ring : Nat) (r : Ring) (d : ChunkDone) : State :=
  let fn := x.part + 1
  let tail := (r.tail + 1) % 2 ^ 32
  let s1 := dpaWrite s (funcRegions s fn) (r.base + 32 * (r.tail % r.nrec)) (chunkDoneBytes d)
  let s2 := dpaWrite s1 (funcRegions s1 fn) (r.ctl + 4) (leBytes 4 tail)
  let s3 := setJob s2 j (fun y => { y with
    compQ := y.compQ.eraseP (fun e => e.ring = ring), rings := y.rings.modify ring (fun r => { r with tail := tail }) })
  let s4 := if r.vector = 0xFFFF then s3 else fireVector s3 fn r.vector
  tryFree s4 d.stream

end Sys2Proof.Machine
end

