-- ==== Sys2Proof/Machine/TdmOps.lean ====
section
/-! DEFINITION. Serial audio ports: the configuration block, received frames and their chunks, transmitted frames, GAPs, states
and alignment groups (R464 to R493). -/

namespace Sys2Proof.Machine

/-! ## The configuration block (R472) -/

def cfgRxen (b : List Byte) : Bool := bitAt (leAt b 0 1) 0
def cfgTxen (b : List Byte) : Bool := bitAt (leAt b 0 1) 1
def cfgMaster (b : List Byte) : Bool := bitAt (leAt b 1 1) 0
def cfgFspol (b : List Byte) : Bool := bitAt (leAt b 1 1) 1
def cfgEdge (b : List Byte) : Bool := bitAt (leAt b 1 1) 2
def cfgTxhiz (b : List Byte) : Bool := bitAt (leAt b 1 1) 3
def cfgGaprst (b : List Byte) : Bool := bitAt (leAt b 1 1) 4
def cfgNslot (b : List Byte) : Nat := leAt b 2 1
def cfgWidth (b : List Byte) : Nat := 8 * (leAt b 3 1 % 4 + 1)
def cfgSample (b : List Byte) : Nat := if bitAt (leAt b 3 1) 2 then 4 else 2
def cfgOffset (b : List Byte) : Nat := leAt b 4 1
def cfgFlen (b : List Byte) : Nat := leAt b 8 2
def cfgBdiv (b : List Byte) : Nat := leAt b 10 2
def cfgBclk (b : List Byte) : Nat := leAt b 12 4
def cfgIfr (b : List Byte) : Nat := leAt b 16 2
def cfgChunkif (b : List Byte) : Nat := leAt b 18 2
def cfgLeadin (b : List Byte) : Nat := leAt b 20 2
def cfgTail (b : List Byte) : Nat := leAt b 22 2
def cfgRxmask (b : List Byte) : Nat := leAt b 24 4
def cfgTxmask (b : List Byte) : Nat := leAt b 28 4
def cfgTxjob (b : List Byte) : Nat := leAt b 32 2
def cfgTxring (b : List Byte) : Nat := leAt b 34 2
def cfgPrefill (b : List Byte) : Nat := leAt b 36 4
def cfgRxdisc (b : List Byte) : Nat := leAt b 40 4
def cfgRxch (b : List Byte) (c : Nat) : Nat := leAt b (64 + 2 * c) 2

/-- The slots of a mask, ascending: the channels (R474). -/
def maskSlots (m : Nat) : List Nat := (List.range 32).filter (bitAt m)

/-- A slot of a frame as received: its W bits from BCLK period OFFSET + s × W on, most significant first (R466). -/
def slotOf (b : List Byte) (din : List Bool) (k : Nat) : W32 :=
  let w := cfgWidth b
  BitVec.ofNat 32 ((List.range w).foldl (fun n i => 2 * n + b2n (din.getD (cfgOffset b + k * w + i) false)) 0)

/-- The slots that a port receives, from the levels of DIN at the rising and at the falling edges of BCLK: EDGE names the edge at which it
samples (R466, R467). -/
def sampledSlots (b : List Byte) (dinRise dinFall : List Bool) : List W32 :=
  (List.range (cfgNslot b)).map (slotOf b (if cfgEdge b then dinFall else dinRise))

/-- F_APLL in Hz of a family (R469, R612). -/
def fApll (family : Bool) : Nat := if family then 90316800 else 98304000

/-- A master's BCLK in Hz as a fraction: F_APLL ÷ BDIV (R469). -/
def masterBclk (family : Bool) (b : List Byte) : Nat × Nat := (fApll family, cfgBdiv b)

/-- FSYNC as a master drives it in BCLK period k of a frame: active for the first period, with the polarity of FSPOL (R467, R469). -/
def masterFsync (b : List Byte) (k : Nat) : Bool := decide (k % cfgFlen b = 0) != cfgFspol b

/-- Do a port's clocks run: a slave's come from outside; a master's run in LEADIN, RUN and TAIL, and in HOLD once the audio PLL is locked
again, and never without its lock (R482, R485). -/
def clocksRun (s : State) (q : Port) : Bool :=
  !cfgMaster q.cfg || (s.clk.audLock && (q.state = .leadin || q.state = .run || q.state = .hold || q.state = .tail))

/-- The family whose F_APLL ÷ BDIV, rounded to the nearest Hz, is BCLK_NOM. -/
def familyOf (b : List Byte) : Option Bool :=
  [false, true].find? (fun f => cfgBclk b = (2 * fApll f + cfgBdiv b) / (2 * cfgBdiv b))

/-- Is a master port in LEADIN, RUN, HOLD or TAIL? -/
def mastersRun (s : State) : Bool :=
  s.ports.any (fun q => cfgMaster q.cfg && (q.state = .leadin || q.state = .run || q.state = .hold || q.state = .tail))

/-- The audio PLL takes another family: it relocks, and AUD_MCLK_IN is measured afresh (R612, R613). -/
def takeFamily (s : State) (b : List Byte) : State :=
  match cfgMaster b, familyOf b with
  | true, some f =>
    if f = s.clk.family then s
    else { s with clk := { s.clk with family := f, audLock := false, mclkOk := false, refsel := false } }
  | _, _ => s

/-- Does a block keep the table of R472, the frame of R466 and the clock of R469? -/
def cfgTableOk (b : List Byte) : Bool :=
  let nch := (maskSlots (cfgRxmask b)).length
  (cfgRxen b || cfgTxen b) && leAt b 0 1 < 4 && leAt b 1 1 < 32 && inRange false 1 32 (cfgNslot b) && leAt b 3 1 < 8
    && decide (cfgOffset b ≤ 31) && zeroAt b 5 3 && inRange false 16 1024 (cfgFlen b)
    && (if cfgMaster b then inRange false 2 4096 (cfgBdiv b) else cfgBdiv b = 0)
    && inRange false 1000 49152000 (cfgBclk b) && inRange false 1 4096 (cfgIfr b) && inRange false 1 4095 (cfgChunkif b)
    && inRange false 1 1024 (cfgLeadin b) && inRange false 1 1024 (cfgTail b)
    && cfgRxmask b / 2 ^ cfgNslot b = 0 && cfgTxmask b / 2 ^ cfgNslot b = 0
    && (cfgTxen b || (cfgTxjob b = 0)) && decide (cfgPrefill b ≤ 65535)
    && cfgRxdisc b / 2 ^ nch = 0 && zeroAt b 44 20
    && (List.range 32).all (fun c => (decide (c < nch) && !bitAt (cfgRxdisc b) c) || cfgRxch b c = 0)
    && decide (cfgOffset b + cfgNslot b * cfgWidth b ≤ cfgFlen b)
    && (!cfgMaster b || (familyOf b).isSome)

/-- Runs of channels with one stream: stream, first channel, channels. -/
def channelRuns (b : List Byte) : List (Nat × Nat × Nat) :=
  let cs := (List.range (maskSlots (cfgRxmask b)).length).filter (fun c => !bitAt (cfgRxdisc b) c)
  cs.foldl (fun (acc : List (Nat × Nat × Nat)) c =>
    match acc.getLast? with
    | some (st, f, n) => if st = cfgRxch b c && f + n = c then acc.dropLast ++ [(st, f, n + 1)] else acc ++ [(cfgRxch b c, c, 1)]
    | none => [(cfgRxch b c, c, 1)]) []

/-- The runs of a port that receives: none for one that only transmits. -/
def portRuns (b : List Byte) : List (Nat × Nat × Nat) := if cfgRxen b then channelRuns b else []

/-- Is a stream bound to another port? -/
def boundElsewhere (s : State) (n st : Nat) : Bool :=
  ((List.range 8).filter (· ≠ n)).any (fun m =>
    let q := getPort s m
    q.state ≠ .off && (portRuns q.cfg).any (fun r => r.1 = st && !q.unbound.elem st))

/-- The OUTPUT ring that a transmitting port names (R304, R473). -/
def txRing (s : State) (p : Nat) (b : List Byte) : Option Ring :=
  match getJob s (cfgTxjob b) with
  | some j => if j.part = p then (j.rings[cfgTxring b]?).bind (fun r => if r.kind = 2 then some r else none) else none
  | none => none

/-- Bytes of a transmitted frame. -/
def txFrame (b : List Byte) : Nat := (maskSlots (cfgTxmask b)).length * cfgSample b

/-- May a run of channels carry a stream (R473)? -/
def runOk (s : State) (p n : Nat) (b : List Byte) (r : Nat × Nat × Nat) : Bool :=
  match getStream s r.1 with
  | none => false
  | some st =>
    st.part = p && st.src && st.state ≠ .closing && st.state ≠ .faulted && !st.pclose && decide (r.2.2 ≤ 8) && !boundElsewhere s n r.1
      && (getJob s st.job).any (fun j => decide (cfgChunkif b ≤ j.hdr.frameMax)
          && decide (32 + cfgChunkif b * cfgIfr b * r.2.2 * cfgSample b ≤ j.hdr.chunkMax))

/-- The conditions of R473 that make a block INVALID. -/
def cfgBindOk (s : State) (p n : Nat) (b : List Byte) : Bool :=
  let rs := portRuns b
  rs.all (runOk s p n b) && decide ((dedup (rs.map Prod.fst)).length = rs.length)
    && (!cfgTxen b || (txRing s p b).any (fun r => txFrame b ≠ 0 && (r.recsz * r.nrec) % txFrame b = 0))

/-! ## Groups (R490 to R492) -/

/-- The members of a port's group; the port alone when it has none. -/
def portMembers (s : State) (n : Nat) : List Nat :=
  let g := (getPort s n).group
  if g = 0 then [n] else (List.range 8).filter (bitAt g)

def grouped (q : Port) : Bool := q.group ≠ 0

/-- Have two blocks the same RXEN, TXEN, T_F, IFR and CHUNKIF? -/
def cfgAgree (a b : List Byte) : Bool :=
  cfgRxen a = cfgRxen b && cfgTxen a = cfgTxen b && cfgFlen a * cfgBclk b = cfgFlen b * cfgBclk a && cfgIfr a = cfgIfr b
    && cfgChunkif a = cfgChunkif b

/-- A member leaves its group; a group of one is none. -/
def leaveGroup (s : State) (n : Nat) : State :=
  let ms := (portMembers s n).filter (· ≠ n)
  let g := if 2 ≤ ms.length then (ms.map (2 ^ ·)).sum else 0
  forAll (setPort s n (fun q => { q with group := 0, leader := 0 })) ms (fun s m =>
    setPort s m (fun q => { q with group := g, leader := if g = 0 then 0 else ms.headD 0 }))

/-- STATE of R496. -/
def portCode : PortState → Nat
  | .off => 0
  | .configured => 1
  | .locking => 2
  | .leadin => 3
  | .run => 4
  | .hold => 5
  | .tail => 6
  | .fault => 7

/-! ## Events (R489) -/

/-- The partition that holds a port. -/
def portPart (s : State) (n : Nat) : Option Nat := (List.range 12).find? (fun p => bitAt (getPart s p).portMask n)

/-- Post a GAP or SLIP of a port: class 0x04 or 0x05, direction 0 receive or 1 transmit. -/
def postGap (s : State) (n cls cause dir : Nat) (g : GapRun) : State :=
  match portPart s n with
  | none => s
  | some p => postPart s p { mkEvent cls p 0x06 n with
      cause := cause,
      detail := leBytes 1 dir ++ leBytes 8 g.first ++ leBytes 4 g.n ++ leBytes 8 g.tg ++ leBytes 8 g.dur }

/-- Post a GAP in each direction that a port runs. -/
def postBothWays (s : State) (n cls cause : Nat) (g : GapRun) : State :=
  let b := (getPort s n).cfg
  let s1 := if cfgRxen b then postGap s n cls cause 0 g else s
  if cfgTxen b then postGap s1 n cls cause 1 g else s1

/-- Post the RATE GAP of a FAULT: the incomplete input frame, which only a port that receives has (R487). -/
def postRateGap (s : State) (n : Nat) (g : GapRun) : State :=
  if cfgRxen (getPort s n).cfg then postGap s n 0x04 6 0 g else postGap s n 0x04 6 1 { g with n := 0 }

/-- The run of GROUP GAPs of a port's receive frames has ended: one GAP (R489, R492). -/
def flushGroup (s : State) (n : Nat) : State :=
  match (getPort s n).rxGroup with
  | none => s
  | some g => postGap (setPort s n (fun q => { q with rxGroup := none })) n 0x04 5 0 g

/-- A receive frame of a port closes: as a GROUP GAP it extends the run of them, otherwise it ends one. -/
def noteGroup (s : State) (n : Nat) (f : TdmFrame) : State :=
  if f.kind = 5 then setPort s n (fun q => { q with rxGroup := some (match q.rxGroup with
    | some g => { g with n := g.n + 1, dur := f.fin - g.tg }
    | none => { first := q.rxFidx, n := 1, tg := f.time, dur := f.fin - f.time }) })
  else flushGroup s n

/-- Add to a TDM_CNT_ counter. -/
def tdmAdd (s : State) (n i k : Nat) : State := setPort s n (fun q => { q with cnt := cntAt q.cnt i k })

/-! ## Received chunks (R474 to R477, R488) -/

/-- The sample of a slot of W bits in memory (R474). -/
def sampleBytes (w sz : Nat) (v : W32) : List Byte :=
  let x := v.toNat % 2 ^ w
  leBytes sz (if 8 * sz ≤ w then x / 2 ^ (w - 8 * sz) else x * 2 ^ (8 * sz - w))

/-- The samples of a run of channels in one frame. -/
def frameSamples (b : List Byte) (r : Nat × Nat × Nat) (f : TdmFrame) : List Byte :=
  let ss := maskSlots (cfgRxmask b)
  (List.range r.2.2).flatMap (fun i =>
    if f.kind ≠ 0 then List.replicate (cfgSample b) 0
    else sampleBytes (cfgWidth b) (cfgSample b) (f.slots.getD (ss.getD (r.2.1 + i) 0) 0))

/-- PERIOD of the audio header: the mean period of delivered frames in units of 2^−8 ns. -/
def meanPeriod (fs : List TdmFrame) : Nat :=
  let ds := fs.filter (fun f => f.kind = 0)
  if ds.isEmpty then 0 else min (256 * (ds.map (fun f => f.fin - f.time)).sum / ds.length) (2 ^ 32 - 1)

/-- The audio header of 32 bytes (R476). -/
def audioHeader (fs : List TdmFrame) (fidx0 : Nat) (part : Bool) : List Byte :=
  leBytes 8 ((fs.head?).elim 0 (·.time)) ++ leBytes 8 fidx0 ++ leBytes 4 fs.length
    ++ leBytes 4 ((fs.filter (fun f => f.kind ≠ 0)).length) ++ leBytes 4 (meanPeriod fs)
    ++ leBytes 4 (b2n (fs.any (fun f => f.kind = 1)) + 2 * b2n (fs.any (fun f => f.kind = 2)) + 4 * b2n part)

/-- Is input frame j of a chunk without a GAP? -/
def cleanIf (ifr : Nat) (fs : List TdmFrame) (j : Nat) : Bool := ((fs.drop (j * ifr)).take ifr).all (fun f => f.kind = 0)

/-- MARK of a chunk, and whether a mark stays due (R488). -/
def chunkMark (gaprst due : Bool) (ifr : Nat) (fs : List TdmFrame) : Nat × Bool :=
  let n := fs.length / ifr
  let dirty := (List.range n).filter (fun j => !cleanIf ifr fs j)
  let own := match dirty.getLast? with
    | some j => if j + 1 < n then some (j + 1) else none
    | none => none
  let clean := decide (dirty.length < n)
  if !gaprst then (0xFFFF, false)
  else match own with
    | some j => (j, false)
    | none => (if due && clean then 0 else 0xFFFF, !dirty.isEmpty || (due && !clean))

/-- Write one stream's chunk into its input ring; its payload is there at once (R302, R477). -/
def submitAudio (s : State) (i : Nat) (d : FeedDesc) (payload : List Byte) : State :=
  match getStream s i with
  | none => s
  | some st => match submitChunk s i st d with
    | (some _, s1) => s1
    | (none, s1) => match getStream s1 i with
      | none => s1
      | some st1 =>
        let k := st1.chunks.length - 1
        match st1.chunks[k]? with
        | some c => refresh (markLanded (writeChunk s1 st1 c payload) i k) i
        | none => s1

/-- The chunk boundary: the chunk in progress goes to every bound stream, and streams that close or fault are unbound
(R477, R479). -/
def endPortChunk (s : State) (n : Nat) (part : Bool) : State :=
  let q := getPort s n
  let b := q.cfg
  let fs := q.frames.take (q.frames.length / cfgIfr b * cfgIfr b)
  let fidx0 := q.rxFidx - q.frames.length
  let (mark, due) := chunkMark (cfgGaprst b) q.markDue (cfgIfr b) fs
  let runs := (portRuns b).filter (fun r => !q.unbound.elem r.1)
  let s1 := if fs.isEmpty then s else
    forAll s runs (fun s r =>
      let payload := audioHeader fs fidx0 part ++ fs.flatMap (frameSamples b r)
      let d : FeedDesc :=
        { stream := r.1, frames := fs.length / cfgIfr b, mark := mark, flags := 0, rsv := false, bytes := payload.length,
          tag := fidx0 % 2 ^ 32, addr := 0, arrival := (fs.getLast?).elim 0 (·.fin) }
      submitAudio s r.1 d payload)
  let gone := (runs.filter (fun r => match getStream s1 r.1 with
    | none => true
    | some st => st.state = .closing || st.state = .faulted)).map Prod.fst
  setPort s1 n (fun q => { q with
    frames := [], markDue := if fs.isEmpty then q.markDue else due, unbound := q.unbound ++ gone })

/-- Close one receive frame period (R493). -/
def closeRx (s : State) (n : Nat) (f : TdmFrame) : State :=
  let data := f.kind = 0
  let s1 := setPort (noteGroup s n f) n (fun q => { q with
    frames := q.frames ++ [f], rxFidx := q.rxFidx + 1, rxDelivered := q.rxDelivered + b2n data, rxGap := q.rxGap + b2n (!data) })
  let s2 := tdmAdd s1 n (if data then 0 else 2) 1
  let q := getPort s2 n
  if q.frames.length = cfgChunkif q.cfg * cfgIfr q.cfg then endPortChunk s2 n false else s2

/-- Does a member take part in closing receive frames? -/
def closes (q : Port) : Bool := cfgRxen q.cfg && (q.state = .run || q.state = .hold || !q.raw.isEmpty)

/-- Close the next frame index of a port's group once every receiving member has it: a GAP in one is a GAP in all, and restarts their
rate windows (R487, R492). -/
def closeOne (s : State) (n : Nat) : Option State :=
  let ms := (portMembers s n).filter (fun m => closes (getPort s m))
  if ms.isEmpty || ms.any (fun m => (getPort s m).raw.isEmpty) then none
  else
    let gap := ms.any (fun m => ((getPort s m).raw.head?).any (fun f => f.kind ≠ 0))
    some (forAll s ms (fun s m => match (getPort s m).raw with
      | [] => s
      | f :: r => if gap && f.kind = 0 then
          closeRx (setPort s m (fun q => { q with raw := r, win := q.win.filter (fun u => decide (f.fin ≤ u)) })) m { f with kind := 5 }
        else closeRx (setPort s m (fun q => { q with raw := r })) m f))

def closeN (s : State) (n : Nat) : Nat → State
  | 0 => s
  | k + 1 => match closeOne s n with
    | some s1 => closeN s1 n k
    | none => s

/-- A member whose data has ended and whose frames are all closed writes its last chunk (R484). -/
def lastChunk (s : State) (n : Nat) : State :=
  let q := getPort s n
  if (q.state = .tail || q.state = .off) && q.raw.isEmpty then
    let s1 := flushGroup s n
    if q.frames.isEmpty then s1 else endPortChunk s1 n true
  else s

def closeGroup (s : State) (n : Nat) : State :=
  let ms := portMembers s n
  forAll (closeN s n ((ms.map (fun m => (getPort s m).raw.length)).sum)) ms lastChunk

/-! ## Transmit (R480, R481) -/

/-- Committed bytes that a port has not consumed. -/
def txAvail (s : State) (q : Port) (r : Ring) (p : Nat) : Nat :=
  if isHost r.base && !hostReadOk s (p + 1) then 0
  else (r.tail + 2 ^ 32 - q.txPos / r.recsz % 2 ^ 32) % 2 ^ 32 * r.recsz - q.txPos % r.recsz

/-- Where the next frame's bytes hold a word that cannot be read (R649): the count of bytes consumed at its record's end. -/
def txBad (s : State) (q : Port) (r : Ring) : Option Nat :=
  let size := r.recsz * r.nrec
  ((List.range (txFrame q.cfg)).find? (fun i => isBad s (r.base + (q.txPos + i) % size))).map (fun i =>
    ((q.txPos + i) / r.recsz + 1) * r.recsz)

/-- The port with the bytes of the data frames counted out that it is to send before frame f: of the frame in progress and of those
decided after it (R480). -/
def beforeFrame (q : Port) (f : Nat) : Port :=
  { q with txPos := q.txPos + txFrame q.cfg * (q.txPlan.filter (fun e => e.2 = 0 && decide (q.idx ≤ e.1) && decide (e.1 < f))).length }

/-- What a transmitting port can send as frame f: 0 data, 3 UNDERRUN, 4 PREFILL, 1 while in HOLD, 7 bytes that cannot be read. -/
def txWish (s : State) (n f : Nat) : Nat :=
  let q := beforeFrame (getPort s n) f
  match portPart s n with
  | none => 3
  | some p => match txRing s p q.cfg with
    | none => 3
    | some r =>
      let a := txAvail s q r p
      if q.state = .hold then 1
      else if !q.prefilled && !q.txPlan.any (fun e => e.2 = 0) && decide (a / txFrame q.cfg < cfgPrefill q.cfg) then 4
      else if a < txFrame q.cfg then 3
      else if (txBad s q r).isSome then 7
      else 0

/-- Does a member take part in deciding transmit frames: it runs, or opens frame 0 with the group (R491)? -/
def sends (q : Port) : Bool := cfgTxen q.cfg && (q.state = .run || q.state = .hold || q.state = .leadin)

/-- Decide frame f for every transmitting member that has not passed it, when the first of them opens it: data in all or in none (R492;
DESIGN CHOICE, notes/assumptions/96.md). -/
def decideTx (s : State) (n f : Nat) : State :=
  if (tGet (getPort s n).txPlan f).isSome then s
  else
    let ms := (portMembers s n).filter (fun m => m = n || (sends (getPort s m) && decide ((getPort s m).idx ≤ f)))
    let ws := ms.map (fun m => (m, txWish s m f))
    let bad := ws.any (fun w => w.2 ≠ 0)
    forAll s ws (fun s w => setPort s w.1 (fun q => { q with txPlan := tPut q.txPlan f (if w.2 = 0 && bad then 5 else w.2) }))

/-- A transmit frame that a SLIP or HOLD makes a GAP in one member is one in the others that have not closed it (R492). -/
def groupCut (s : State) (n f : Nat) : State :=
  forAll s ((portMembers s n).filter (fun m => m ≠ n && sends (getPort s m) && decide ((getPort s m).idx ≤ f))) (fun s m =>
    setPort s m (fun q =>
      let p := tPut q.txPlan f 5
      if q.idx = f && q.state = .run && q.txKind = 0 then { q with txPlan := p, txKind := 5, dout := [] } else { q with txPlan := p }))

/-- The value that a slot of W bits drives for a sample. -/
def slotValue (w sz : Nat) (bs : List Byte) : W32 :=
  let x := leNat bs
  BitVec.ofNat 32 (if 8 * sz ≤ w then x * 2 ^ (w - 8 * sz) else x / 2 ^ (8 * sz - w))

/-- The slots that a data frame drives: its bytes at the port's place in the ring. -/
def txSlots (s : State) (q : Port) (r : Ring) (p : Nat) : List W32 :=
  let sz := cfgSample q.cfg
  let ss := maskSlots (cfgTxmask q.cfg)
  let size := r.recsz * r.nrec
  let byte (i : Nat) : Byte := (dpaRead s (funcRegions s (p + 1)) (r.base + (q.txPos + i) % size) 1).headD 0
  (List.range (cfgNslot q.cfg)).map (fun k =>
    let c := ss.takeWhile (· ≠ k) |>.length
    if bitAt (cfgTxmask q.cfg) k then slotValue (cfgWidth q.cfg) sz ((List.range sz).map (fun i => byte (sz * c + i))) else 0)

/-- DOUT in BCLK period k of a frame, none for high impedance: the bits of the slots in TXMASK, most significant first; elsewhere
TXHIZ decides; none in OFF, CONFIGURED and FAULT (R466, R468, R482). -/
def doutAt (q : Port) (k : Nat) : Option Bool :=
  let b := q.cfg
  let w := cfgWidth b
  let n := (k - cfgOffset b) / w
  if q.state = .off || q.state = .configured || q.state = .fault then none
  else if decide (cfgOffset b ≤ k) && decide (n < cfgNslot b) && bitAt (cfgTxmask b) n then
    some (bitAt (q.dout.getD n 0).toNat (w - 1 - (k - cfgOffset b) % w))
  else if cfgTxhiz b then none else some false

/-- DOUT as its pin shows it: nothing drives it without power, in reset and in a drain (R684). -/
def doutPin (s : State) (n k : Nat) : Option Bool :=
  if !s.pwr.powered || s.mgt.rstLow || s.pwr.draining then none else doutAt (getPort s n) k

/-- DOUT after an edge of BCLK, counted from the sampling edge of period 0: the sampling edge of period k finds bit k, and DOUT changes to
the next period's bit at the other edge, which EDGE names (R467). -/
def doutAfter (q : Port) (k : Nat) (rising : Bool) : Option Bool := if rising = cfgEdge q.cfg then doutAt q (k + 1) else doutAt q k

/-- A transmit frame begins: data, or zeros. -/
def beginTx (s0 : State) (n : Nat) : State :=
  if !cfgTxen (getPort s0 n).cfg then s0
  else
    let s := decideTx s0 n (getPort s0 n).idx
    let q := getPort s n
    let k := (tGet q.txPlan q.idx).getD 3
    let out := match (portPart s n).bind (fun p => (txRing s p q.cfg).map (fun r => (p, r))) with
      | some (p, r) => if k = 0 then txSlots s q r p else []
      | none => []
    setPort s n (fun q => { q with
      txKind := k, dout := out, txPlan := q.txPlan.filter (fun e => decide (q.idx ≤ e.1))
      prefilled := q.prefilled || k = 0 || k = 3 || k = 7 })

/-- The run of PREFILL frames has ended: one GAP. -/
def flushPrefill (s : State) (n t : Nat) : State :=
  match (getPort s n).prefill with
  | none => s
  | some g => postGap (setPort s n (fun q => { q with prefill := none })) n 0x04 4 1 { g with dur := t - g.tg }

/-- Consume bytes up to a place: the consumer head advances by every record consumed (R480). -/
def consumeTx (s : State) (n pos : Nat) : State :=
  let q := getPort s n
  let s1 := setPort s n (fun q => { q with txPos := pos })
  match (portPart s n).bind (fun p => (txRing s p q.cfg).map (fun r => (p, r))) with
  | none => s1
  | some (p, r) =>
    if pos / r.recsz = q.txPos / r.recsz then s1
    else dpaPut s1 (p + 1) r.ctl (leBytes 4 (pos / r.recsz % 2 ^ 32))

/-- A PREFILL frame closes: it begins or extends the run. -/
def notePrefill (s : State) (n t : Nat) : State :=
  setPort s n (fun q => { q with prefill := some (match q.prefill with
    | some g => { g with n := g.n + 1 }
    | none => { first := q.txFidx, n := 1, tg := q.edge.getD t, dur := 0 }) })

/-- Log the change of a port's state by a command: TDM_STATUS.STATE (R540, R581). -/
def logPort (s : State) (fn n op old : Nat) : State :=
  match portPart s n with
  | some p => logChange s fn p op n 0 (leBytes 1 old) (leBytes 1 (portCode (getPort s n).state))
  | none => s

/-- PORT_START of a port completes OK at its first data frame, with the time of frame 0, and is logged (R483, R540, R558). -/
def startDone (s : State) (n t : Nat) : State :=
  match s.waiters.find? (fun w => w.what = .portStart n) with
  | none => s
  | some w => completeWaiters (forAll s (portMembers s n) (fun s m => logPort s w.fn m 0x0601 1)) (fun w => w.what = .portStart n) stOk 0 t

/-- Close one transmit frame period: as data, as a GAP of a cause, or as an UNDERRUN that skips a record (R480, R481, R649). -/
def closeTx (s : State) (n kind t : Nat) : State :=
  let q := getPort s n
  if !cfgTxen q.cfg then s
  else if kind = 0 then
    let s1 := tdmAdd (consumeTx s n (q.txPos + txFrame q.cfg)) n 1 1
    let first := q.txDelivered = 0
    let s2 := setPort s1 n (fun q => { q with txFidx := q.txFidx + 1, txDelivered := q.txDelivered + 1 })
    let s3 := flushPrefill s2 n (q.edge.getD t)
    if first && !cfgRxen q.cfg then startDone s3 n q.zeroTs else s3
  else
    let s0 := if kind = 4 then notePrefill s n t else flushPrefill s n (q.edge.getD t)
    let s1 := tdmAdd (setPort s0 n (fun q => { q with txFidx := q.txFidx + 1, txGap := q.txGap + 1 })) n 3 1
    if kind = 7 then
      let bad := (portPart s n).bind (fun p => (txRing s p q.cfg).bind (txBad s q))
      let s2 := consumeTx s1 n (bad.getD q.txPos)
      postGap s2 n 0x04 3 1 { first := q.txFidx, n := 1, tg := q.edge.getD t, dur := t - q.edge.getD t }
    else if kind = 3 || kind = 5 then
      postGap s1 n 0x04 kind 1 { first := q.txFidx, n := 1, tg := q.edge.getD t, dur := t - q.edge.getD t }
    else s1

/-! ## Frames of the port's own clock -/

/-- T_F in ns, times k, rounded down (R471). -/
def tfTimes (b : List Byte) (k : Nat) : Nat := k * cfgFlen b * 1000000000 / cfgBclk b

/-- Push a received frame. -/
def pushRaw (s : State) (n : Nat) (f : TdmFrame) : State :=
  setPort s n (fun q => if cfgRxen q.cfg then { q with raw := q.raw ++ [f] } else q)

/-- One GAP frame of both directions passes on the port's clock. -/
def gapFrame (s : State) (n t fin kind : Nat) : State :=
  let s1 := pushRaw (groupCut s n (getPort s n).idx) n { time := t, fin := fin, slots := [], kind := kind }
  setPort (closeTx s1 n kind fin) n (fun q => { q with idx := q.idx + 1 })

/-- The pending SLIP event is posted (R489). -/
def flushSlip (s : State) (n : Nat) : State :=
  match (getPort s n).slip with
  | none => s
  | some g => postBothWays (setPort s n (fun q => { q with slip := none })) n 0x05 2 g

/-- Slips within 64 frames are one event. -/
def addSlip (s : State) (n k tg t : Nat) : State :=
  setPort s n (fun q => { q with slip := match q.slip with
    | some g => some { g with n := g.n + k, dur := g.dur + (t - tg) }
    | none => some { first := q.idx, n := k, tg := tg, dur := t - tg } })

/-- A PORT_STOP completes once every port that it stops is OFF, and is logged with the states that it found (R484, R540). -/
def stopDone (s : State) (n : Nat) : State :=
  forAll s s.waiters (fun s w => match w.what with
    | .portStop ms =>
      if ms.any (fun m => m.1 = n) && ms.all (fun m => (getPort s m.1).state = .off) then
        completeWaiters (forAll s ms (fun s m => logPort s w.fn m.1 0x0602 m.2)) (fun v => v = w) stOk 0 0
      else s
    | _ => s)

/-- A port is OFF: PORT_STOP completes once every member is. -/
def portOff (s : State) (n : Nat) : State :=
  stopDone (setPort s n (fun q => { q with state := .off, dout := [], stopAt := none, edge := none, hold := none })) n

/-- Data ends at an input-frame boundary of a stopping port: TAIL begins (R484). -/
def endData (s : State) (n t : Nat) : State :=
  let s1 := flushSlip (flushPrefill s n t) n
  let s2 := match (getPort s1 n).hold with
    | some g => postBothWays (setPort s1 n (fun q => { q with hold := none })) n 0x04 1 { g with dur := t - g.tg }
    | none => s1
  closeGroup (setPort s2 n (fun q => { q with state := .tail, left := cfgTail q.cfg, dout := [] })) n

/-- Has a stopping port reached the input-frame boundary at which its data ends? -/
def atStop (q : Port) : Bool := q.stopAt.any (fun k => decide (k ≤ q.idx))

/-- The streams of a port pause at a FAULT (R487). -/
def pauseBound (s : State) (n : Nat) : State :=
  let q := getPort s n
  forAll s ((portRuns q.cfg).filter (fun r => !q.unbound.elem r.1)) (fun s r =>
    setStream s r.1 (fun st => match st.state with
      | .open | .runnable => { st with state := .paused }
      | .waiting | .preempted => { st with ppause := true }
      | _ => st))

/-- FAULT: the window's frames stay delivered, the chunk ends with its whole input frames, the frames of an incomplete one
become GAP, the streams pause, the member leaves its group, which closes what it waited for; a PORT_STOP that waits moves the port to OFF
at once (R484, R487, R492). -/
def portFault (s : State) (n t : Nat) : State :=
  let stop := (getPort s n).stopAt.isSome
  let others := (portMembers s n).filter (· ≠ n)
  let s1 := flushSlip (flushPrefill (leaveGroup s n) n t) n
  let s2 := flushGroup (closeN s1 n (getPort s1 n).raw.length) n
  let q := getPort s2 n
  let m := q.frames.length % cfgIfr q.cfg
  let lost := q.frames.drop (q.frames.length - m)
  let d := (lost.filter (fun f => f.kind = 0)).length
  let g : GapRun := { first := q.rxFidx - m, n := m, tg := (lost.head?).elim t (·.time), dur := t - (lost.head?).elim t (·.time) }
  let s3 := endPortChunk s2 n true
  let s4 := tdmAdd (setPort s3 n (fun q => { q with
    rxDelivered := q.rxDelivered - d, rxGap := q.rxGap + d, state := .fault, dout := [], edge := none, win := [],
    stopAt := none })) n 2 d
  let s5 := completeWaiters (pauseBound (postRateGap s4 n g) n) (fun w => w.what = .portStart n) stFaulted 0 0
  let s6 := (others.head?).elim s5 (closeGroup s5)
  if stop then portOff s6 n else s6

/-- f_nominal ÷ f_measured of AUD_MCLK_IN as a fraction, for a master port whose audio PLL takes it as its reference; 1 for every other
port (R487). -/
def mclkScale (s : State) (b : List Byte) : Nat × Nat :=
  if cfgMaster b && s.clk.refsel && decide (0 < s.clk.mclkNum) && decide (0 < s.clk.mclkNom) then (s.clk.mclkNom * s.clk.mclkDen, s.clk.mclkNum)
  else (1, 1)

/-- e of R487 over a window of 65 stamps, as a fraction; T_F is scaled for a master on AUD_MCLK_IN. -/
def rateErr (s : State) (b : List Byte) (w : List Nat) : Int × Int :=
  let (num, den) := mclkScale s b
  let d : Int := ((w.getLast?.getD 0 : Nat) : Int) - ((w.headD 0 : Nat) : Int)
  let full : Int := 64 * (cfgFlen b : Int) * 1000000000 * (num : Int)
  (d * (cfgBclk b : Int) * (den : Int) - full, full)

/-- After a delivered frame: the window's 65th stamp gives RATE, and a FAULT when |e| exceeds 500 × 10⁻⁶. -/
def rateCheck (s : State) (n t : Nat) : State :=
  let q := getPort s n
  if q.win.length < 65 then s
  else
    let (num, den) := rateErr s q.cfg q.win
    let e := (num * 10000000).tdiv den
    let s1 := setPort s n (fun q => { q with win := [t], rate := max (-32767) (min 32767 e) })
    if den < 2000 * (num.natAbs : Int) then portFault s1 n t else s1

/-- A port enters RUN: its frame 0 opens (R475, R483). -/
def startRunning (s : State) (n t : Nat) : State :=
  let s1 := setPort s n (fun q => { q with state := .run, edge := some t, zeroTs := t, idx := 0, win := [t] })
  let s2 := if cfgRxen (getPort s1 n).cfg then startDone s1 n t else s1
  beginTx s2 n

/-- Is a member ready for frame 0: its lead-in over, or ending with its next frame? -/
def leadReady (q : Port) : Bool := q.state = .run || (q.state = .leadin && decide (q.left ≤ 1))

/-- Is a time within T_F ÷ 4 of another? -/
def quarter (b : List Byte) (t u : Nat) : Bool := decide (4 * ((t - u) + (u - t)) * cfgBclk b < cfgFlen b * 1000000000)

/-- When the leader's frame k opens: counted from the frame that it opened last, or, in HOLD, from its timebase (R485, R491). -/
def frameDue (l : Port) (k : Nat) : Option Nat :=
  let from_ (i u : Nat) : Nat := if i ≤ k then u + tfTimes l.cfg (k - i) else u - tfTimes l.cfg (i - k)
  match l.state with
  | .run => l.edge.map (from_ l.idx)
  | .hold => l.hold.map (fun g => from_ l.idx (g.tg + tfTimes l.cfg g.n))
  | _ => none

/-- Is every member of a group ready for frame 0? -/
def groupReady (s : State) (n : Nat) : Bool := (portMembers s n).all (fun m => leadReady (getPort s m))

/-- May a port open frame 0 at an edge (R491): alone when its lead-in is over; the leader when every member is ready; a member
with the leader, whose frame 0 has opened or opens at its next edge. -/
def mayRun (s : State) (n t : Nat) : Bool :=
  let q := getPort s n
  let l := getPort s q.leader
  if !grouped q then true
  else if q.leader = n then groupReady s n
  else match frameDue l 0 with
    | some u => quarter q.cfg t u
    | none => l.state = .leadin && groupReady s n && quarter q.cfg t (l.edge.getD 0 + tfTimes l.cfg 1)

/-- Does a member's edge keep the tolerance of R491? -/
def edgeAligned (s : State) (n t : Nat) : Bool :=
  let q := getPort s n
  if !grouped q || q.leader = n then true
  else (frameDue (getPort s q.leader) (q.idx + 1)).all (quarter q.cfg t)

/-- GAP frames of a slip, k to go. -/
def slipFrames (s : State) (n tg fin : Nat) (k i : Nat) : State :=
  match k with
  | 0 => s
  | k + 1 => slipFrames (gapFrame s n (tg + tfTimes (getPort s n).cfg i) fin 2) n tg fin k (i + 1)

/-- A SLIP of k frames at an edge: they are GAP, up to the boundary at which data ends, and a new frame starts at the edge (R484, R486). -/
def slipEdge (s : State) (n k t : Nat) : State :=
  let q := getPort s n
  let k := q.stopAt.elim k (fun e => min k (e - q.idx))
  let s1 := slipFrames (addSlip s n k (q.edge.getD 0) t) n (q.edge.getD 0) t k 0
  tdmAdd (setPort s1 n (fun q => { q with edge := some t, win := [t] })) n 4 1

/-- What an edge in RUN leaves to do: frames close, slips that are 64 frames old are posted, the rate is judged, and data ends or the next
frame begins (R484, R487, R489). -/
def afterEdge (s : State) (n t : Nat) : State :=
  let s1 := closeGroup s n
  let s2 := if (getPort s1 n).slip.any (fun g => decide (g.first + 64 ≤ (getPort s1 n).idx)) then flushSlip s1 n else s1
  let s3 := rateCheck s2 n t
  let q := getPort s3 n
  if q.state ≠ .run then s3
  else if atStop q then endData s3 n t
  else beginTx s3 n

/-- A member's edge outside the tolerance of the leader's frame 0, which opened at u: the member runs from then on, and the edge is a SLIP
(R491). -/
def lateStart (s : State) (n u t : Nat) : State :=
  let b := (getPort s n).cfg
  let k := max 1 ((2 * (t - u) * cfgBclk b + cfgFlen b * 1000000000) / (2 * cfgFlen b * 1000000000))
  afterEdge (slipEdge (setPort s n (fun q => { q with state := .run, edge := some u, zeroTs := u, idx := 0, win := [] })) n k t) n t

/-- An edge in LEADIN: the first opens a lead-in frame, each later one ends one (R483). -/
def leadEdge (s : State) (n t bclks : Nat) : State :=
  let q := getPort s n
  if q.edge.isNone || bclks ≠ cfgFlen q.cfg then setPort s n (fun q => { q with edge := some t })
  else
    let s1 := setPort s n (fun q => { q with edge := some t, left := q.left - 1 })
    if 1 < q.left then s1
    else if mayRun s1 n t then startRunning s1 n t
    else if grouped q && q.leader ≠ n then
      ((frameDue (getPort s1 q.leader) 0).filter (fun u => decide (u < t))).elim s1 (fun u => lateStart s1 n u t)
    else s1

/-- A port in RUN enters HOLD, and the frame in progress is its first GAP frame (R485). -/
def enterHold (s : State) (n t : Nat) : State :=
  let q := getPort s n
  let tg := q.edge.getD 0
  let s1 := flushPrefill (flushSlip s n) n tg
  let s2 := setPort s1 n (fun x => { x with
    state := .hold, hold := some { first := q.idx, n := 1, tg := tg, dur := 0 }, edge := none, win := [], dout := [] })
  let s3 := closeGroup (gapFrame (tdmAdd s2 n 5 1) n tg t 1) n
  if atStop (getPort s3 n) then endData s3 n t else s3

/-- Every master port in RUN enters HOLD: the audio PLL is not locked (R485, R613). -/
def holdMasters (s : State) : State :=
  forAll s (List.range 8) (fun s n =>
    if cfgMaster (getPort s n).cfg && (getPort s n).state = .run then enterHold s n (now s) else s)

/-- The timebase closes one more GAP frame of a port in HOLD (R485). -/
def holdTick (s : State) (n : Nat) : State :=
  let q := getPort s n
  match q.state, q.hold with
  | .hold, some g =>
    let t := g.tg + tfTimes q.cfg g.n
    let s1 := closeGroup (setPort (gapFrame s n t t 1) n (fun x => { x with hold := some { g with n := g.n + 1 } })) n
    if atStop (getPort s1 n) then endData s1 n t else s1
  | _, _ => s

/-- Those of its GAP frames that come before a time, k at most. -/
def ticksBefore (s : State) (n t : Nat) : Nat → State
  | 0 => s
  | k + 1 =>
    let q := getPort s n
    if q.state = .hold && q.hold.any (fun g => decide (g.tg + tfTimes q.cfg g.n < t)) then ticksBefore (holdTick s n) n t k else s

/-- Leave HOLD at an edge: the frames before it are GAP, the HOLD is posted, and the frame that opens here is data (R485, R489). -/
def leaveHold (s : State) (n t : Nat) : State :=
  let q := getPort s n
  let s1 := ticksBefore s n t ((t - (q.hold.elim t (·.tg))) * cfgBclk q.cfg / (cfgFlen q.cfg * 1000000000) + 1)
  match (getPort s1 n).state, (getPort s1 n).hold with
  | .hold, some g =>
    beginTx (setPort (postBothWays s1 n 0x04 1 { g with dur := t - g.tg }) n (fun q => { q with
      state := .run, hold := none, edge := some t, win := [t] })) n
  | _, _ => s1

/-- An edge in HOLD: a slave locks at its second edge FLEN periods after the first, a master with its PLL (R485). -/
def holdEdge (s : State) (n t bclks : Nat) : State :=
  let q := getPort s n
  if cfgMaster q.cfg then leaveHold s n t
  else if q.edge.isSome && bclks = cfgFlen q.cfg then leaveHold s n t
  else setPort s n (fun q => { q with edge := some t })

/-- An edge in RUN: the frame it ends is delivered, or slips; one that comes more than 2 × FLEN BCLK periods after the last finds the port
in HOLD (R485 to R487). -/
def runEdge (s : State) (n t bclks : Nat) (slots : List W32) : State :=
  let q := getPort s n
  let fl := cfgFlen q.cfg
  let tg := q.edge.getD 0
  if 2 * fl < bclks then
    let s1 := enterHold s n (tg + (t - tg) * (2 * fl) / bclks)
    if (getPort s1 n).state = .hold then holdEdge s1 n t bclks else s1
  else if bclks ≠ fl || !edgeAligned s n t then afterEdge (slipEdge s n (max 1 ((2 * bclks + fl) / (2 * fl))) t) n t
  else
    let s1 := closeTx (pushRaw s n { time := tg, fin := t, slots := slots, kind := 0 }) n q.txKind t
    afterEdge (setPort s1 n (fun q => { q with
      idx := q.idx + 1, edge := some t, win := if !cfgRxen q.cfg && q.txKind ≠ 0 then [t] else q.win ++ [t] })) n t

/-- A tail frame ends. -/
def tailFrame (s : State) (n : Nat) : State :=
  let s1 := setPort s n (fun q => { q with left := q.left - 1 })
  if (getPort s1 n).left = 0 then portOff s1 n else s1

/-- The TIMEOUT of a PORT_START returns a member that has not reached data to CONFIGURED: what it has recorded is posted (R483, R489,
R558). -/
def cancelStart (s : State) (n : Nat) : State :=
  let q := getPort s n
  if q.state = .locking || q.state = .leadin || q.state = .run || q.state = .hold then
    let s1 := flushSlip (flushPrefill s n (q.edge.getD (now s))) n
    let s2 := match q.hold with
      | some g => postBothWays s1 n 0x04 1 { g with dur := now s - g.tg }
      | none => s1
    setPort s2 n (fun q => { q with state := .configured, hold := none, edge := none, dout := [], txPlan := [], stopAt := none })
  else s

end Sys2Proof.Machine
end

