-- ==== Sys2Proof/Machine/Tdm.lean ====
section
/-! DEFINITION. The serial audio ports' events and commands (R464 to R493, R557 to R560). -/

namespace Sys2Proof.Machine

/-- Is an FSYNC edge an active one of the port: of the polarity that FSPOL names, and, of a master, one that it drives itself, FLEN BCLK
periods after the one before, while its clocks run (R467, R469, R482)? -/
def edgeTaken (s : State) (q : Port) (bclks : Nat) (rising : Bool) : Bool :=
  rising != cfgFspol q.cfg && clocksRun s q && (!cfgMaster q.cfg || q.edge.isNone || bclks = cfgFlen q.cfg)

/-- TDM_FRAME: an FSYNC edge at a device time, `bclks` BCLK periods after the active one before, with the levels of DIN at the rising and
at the falling edges of BCLK in the frame that it ends. An edge that is not an active one of the port changes nothing
(R466, R467, R469, R470, R483 to R487). -/
def execTdmFrame (port : Nat) (time : Nat) (bclks : Nat) (pins : TdmPins) (s : State) : Out :=
  let slots := sampledSlots (getPort s port).cfg pins.dinRise pins.dinFall
  let s1 := setPort s port (fun q => { q with lastTs := time % 2 ^ 64 })
  let q := getPort s port
  .next (if !edgeTaken s q bclks pins.rising then s else match q.state with
    | .off | .configured | .fault => s
    | .locking =>
      if q.edge.isSome && bclks = cfgFlen q.cfg then
        setPort s1 port (fun q => { q with state := .leadin, left := cfgLeadin q.cfg, edge := some time })
      else setPort s1 port (fun q => { q with edge := some time })
    | .leadin => leadEdge s1 port time bclks
    | .run => runEdge s1 port time bclks slots
    | .hold => holdEdge s1 port time bclks
    | .tail => tailFrame s1 port)

/-- TDM_HOLD: a running port enters HOLD: a master while the audio PLL is not locked; a slave at a time at which 4 periods of BCLK_NOM can
have passed without an edge of BCLK since the frame in progress opened (R485). -/
def execTdmHold (port : Nat) (time : Nat) (s : State) : Out :=
  let q := getPort s port
  let due := if cfgMaster q.cfg then !s.clk.audLock else decide (4 * 1000000000 ≤ (time - q.edge.getD 0) * cfgBclk q.cfg)
  .next (if q.state = .run && due then enterHold s port time else s)

/-- GAP_TICK: the timebase closes one more GAP frame of a port in HOLD, or counts a tail frame without a clock (R485). -/
def execGapTick (port : Nat) (s : State) : Out :=
  .next (if (getPort s port).state = .tail then tailFrame s port else holdTick s port)

/-- Does the issuing function hold a port (R465)? -/
def holdsPort (s : State) (h : DciHdr) (n : Nat) : Bool := h.fn ≠ 0 && portPart s n = some (h.fn - 1)

/-- PORT_CONFIG (R472, R473, R612). -/
def execPortConfig (h : DciHdr) (port : Nat) (buf : W64) (s : State) : Out :=
  let p := partOf h
  let q := getPort s port
  .next (dciRun s (.portConfig h port buf) h (partCheck s h false false false false false) (fun _ =>
    if 8 ≤ port then .fail stInvalid
    else if !holdsPort s h port then .fail stDenied
    else match readBuf s h (some p) buf.toNat 128 with
      | .error r => r
      | .ok b =>
        if !cfgTableOk b || !cfgBindOk s p port b then .fail stInvalid
        else if !(q.state = .off || q.state = .configured || q.state = .fault) || grouped q then .fail stBusy
        else if cfgMaster b && familyOf b ≠ some s.clk.family && mastersRun s then .fail stBusy
        else
          let s1 := setPort (takeFamily s b) port (fun q => { q with cfg := b, state := .configured, unbound := [] })
          let s2 := { s1 with time := { s1.time with noStep := true } }
          .done (logChange s2 h.fn p 0x0600 port 0 q.cfg b) stOk 0 0))

/-- A port's start: totals at 0, a slave locks first, a master's clock runs (R483, R493). -/
def startPort (s : State) (n : Nat) : State :=
  setPort s n (fun q => { q with
    state := if cfgMaster q.cfg then .leadin else .locking
    left := cfgLeadin q.cfg, edge := none, hold := none, win := [], raw := [], frames := [], markDue := false, idx := 0
    rxFidx := 0, rxDelivered := 0, rxGap := 0, txFidx := 0, txDelivered := 0, txGap := 0, zeroTs := 0
    txPos := match (portPart s n).bind (fun p => (txRing s p q.cfg).map (fun r => (p, r))) with
      | some (p, r) => leNat (dpaRead s (funcRegions s (p + 1)) r.ctl 4) * r.recsz
      | none => 0
    prefilled := false, txKind := 4, txPlan := [], rxGroup := none, prefill := none, slip := none, dout := [], stopAt := none })

/-- PORT_START (R483, R491, R558). -/
def execPortStart (h : DciHdr) (port : Nat) (s : State) : Out :=
  let q := getPort s port
  .next (dciRun s (.portStart h port) h (partCheck s h false true false false false) (fun _ =>
    if 8 ≤ port then .fail stInvalid
    else if !holdsPort s h port then .fail stDenied
    else if (grouped q && q.leader ≠ port) || q.state ≠ .configured then .fail stInvalid
    else
      let s1 := dciWait s h.fn h.tag (.portStart port) (if h.timeout = 0 then none else some (timeoutAt s h))
      .wait (forAll s1 (portMembers s1 port) startPort)))

/-- The frame index at which the data of a stopped group ends: the input-frame boundary after every frame in progress; 0 when no member runs
(R484, R492). -/
def stopIndex (s : State) (ms : List Nat) : Nat :=
  (ms.map (fun m =>
    let q := getPort s m
    if q.state = .run || q.state = .hold then (q.idx / cfgIfr q.cfg + 1) * cfgIfr q.cfg else 0)).foldl max 0

/-- A port is asked to stop: at frame index e, or at once where no member carries data. -/
def stopPort (e : Nat) (s : State) (n : Nat) : State :=
  let q := getPort s n
  match q.state with
  | .run | .hold => setPort s n (fun q => { q with stopAt := some e })
  | .leadin => if 0 < e then setPort s n (fun q => { q with stopAt := some e })
    else setPort s n (fun q => { q with state := .tail, left := cfgTail q.cfg })
  | .locking | .fault => portOff s n
  | _ => s

/-- PORT_STOP (R465, R484, R559). -/
def execPortStop (h : DciHdr) (port : Nat) (s : State) : Out :=
  let q := getPort s port
  .next (dciRun s (.portStop h port) h (partCheck s h false false false false false) (fun _ =>
    if 8 ≤ port then .fail stInvalid
    else if h.fn ≠ 0 && !holdsPort s h port then .fail stDenied
    else if q.state = .off || q.state = .configured then .done s stOk 0 0
    else
      let ms := portMembers s port
      let s1 := completeWaiters s (fun w => ms.any (fun m => w.what = .portStart m)) stBusy 0 0
      let olds := ms.map (fun m => (m, portCode (getPort s m).state))
      .wait (forAll (dciWait s1 h.fn h.tag (.portStop olds) none) ms (stopPort (stopIndex s ms)))))

/-- PORT_GROUP (R490, R560). -/
def execPortGroup (h : DciHdr) (members : Byte) (op : Byte) (s : State) : Out :=
  let p := partOf h
  let m := members.toNat
  let ms := (List.range 8).filter (bitAt m)
  let l := ms.headD 0
  .next (dciRun s (.portGroup h members op) h (partCheck s h false false false false false) (fun _ =>
    if decide (ms.length < 2) || decide (1 < op.toNat) then .fail stInvalid
    else if op = 0 && !ms.all (fun n => cfgAgree (getPort s l).cfg (getPort s n).cfg) then .fail stInvalid
    else if !ms.all (holdsPort s h) then .fail stDenied
    else if op = 0 then
      if ms.any (fun n => (getPort s n).state ≠ .configured || grouped (getPort s n)) then .fail stBusy
      else
        let s1 := forAll s ms (fun s n => setPort s n (fun q => { q with group := m, leader := l }))
        .done (logChange s1 h.fn p 0x0603 l 17 (leBytes 1 0) (leBytes 1 m)) stOk l 0
    else if ms.any (fun n => (getPort s n).group ≠ m
        || !((getPort s n).state = .off || (getPort s n).state = .configured || (getPort s n).state = .fault)) then .fail stBusy
    else
      let s1 := forAll s ms (fun s n => setPort s n (fun q => { q with group := 0, leader := 0 }))
      .done (logChange s1 h.fn p 0x0603 l 17 (leBytes 1 m) (leBytes 1 0)) stOk 0 0))

end Sys2Proof.Machine
end

