-- ==== Sys2Proof/Machine/StreamCmd.lean ====
section
/-! DEFINITION. The stream commands and the KV cache commands (R292 to R297, R394 to R410, R550 to R556). -/

namespace Sys2Proof.Machine

/-! ## Entries (R293) -/

/-- A stream's KVW field: its window's address in units of 128 bytes. -/
def kvwField (s : State) (st : Stream) : Nat :=
  match st.kvw, getKv s st.job with
  | some w, some k => (k.winTab + 128 * w) / 128
  | _, _ => 0xFFFFFFFF

/-- The 128 bytes of a stream's entry. -/
def entryBytes (s : State) (st : Stream) : List Byte :=
  let c := headChunk st
  let flags := b2n st.rstPend + 2 * b2n st.sr + 4 * b2n st.check + 8 * b2n st.src + 16 * b2n st.ppause + 32 * b2n st.pclose
    + 64 * b2n st.discard + 128 * b2n st.ppreempt
  leBytes 2 st.job ++ leBytes 1 (stCode st.state + 16 * st.part) ++ leBytes 1 (st.home + 128 * b2n st.rstNext)
    ++ leBytes 1 flags ++ leBytes 1 (st.dclass + 4 * st.prio + 64 * st.replays) ++ leBytes 2 (queued st).length
    ++ leBytes 4 (st.slot / 4096) ++ leBytes 4 st.step ++ leBytes 4 (kvwField s st) ++ leBytes 4 st.kvlen
    ++ leBytes 2 st.irbase ++ leBytes 2 st.irunits ++ leBytes 4 st.irhead ++ leBytes 4 st.irtail ++ leBytes 2 st.cring
    ++ leBytes 1 (st.slot / 4096 / 2 ^ 32 % 16) ++ leBytes 1 0 ++ leBytes 4 st.driftSat ++ leBytes 2 st.driftNan
    ++ leBytes 2 st.exitThr ++ leBytes 4 st.driftLimit ++ leBytes 2 (c.elim 0 (·.frames)) ++ leBytes 2 (c.elim 0xFFFF (·.mark))
    ++ leBytes 8 (headDead st) ++ leBytes 32 st.exphist ++ leBytes 4 st.nskip ++ leBytes 4 st.nexit ++ leBytes 8 st.last
    ++ leBytes 8 st.tag ++ leBytes 8 0

/-! ## STREAM_OPEN (R292, R294, R379, R396, R551) -/

/-- The tile of a job's share with the fewest homed streams of the job, the lowest on a tie. -/
def homeTile (s : State) (j : Nat) (x : Job) : Nat :=
  let n (t : Nat) : Nat := (s.streams.filter (fun e => e.2.job = j && e.2.home = t)).length
  (x.share.foldl (fun (b : Option Nat) t => match b with
    | some u => if n t < n u || (n t = n u && decide (t < u)) then some t else b
    | none => some t) none).getD 0

/-- First fit of a ring of n units in the job's input area of a tile, in 64 B units of its Caldera. -/
def ringFit (x : Job) (t n : Nat) : Option Nat :=
  let lo := (x.base + x.hdr.inoff) / 64
  let hi := lo + x.hdr.inlen / 64
  let used := (tGet x.inUse t).getD []
  let fits (a : Nat) : Bool := inside a n lo (hi - lo) && !used.any (fun u => overlap a n u.1 u.2)
  ((lo :: used.map (fun u => u.1 + u.2)).filter fits).foldl (fun (b : Option Nat) a => match b with
    | some c => some (min a c)
    | none => some a) none

/-- The lowest-numbered FREE window of a job. -/
def freeWin (k : KvJob) : Option Nat := tFree k.wins 0 k.hdr.maxwin

/-- A FREE window made RESIDENT with no page mapped. -/
def newWindow (i : Nat) : Window :=
  { state := .resident, flushPend := false, auto := false, waitFrames := false, ssel := false, stream := i, swap := 0,
    swapLen := 0, order := 0, flushFrom := 0, flushDue := 0, victim := none, pages := [], moving := [] }

/-- The operands of STREAM_OPEN. -/
structure OpenArgs where
  dclass : Nat
  sr : Bool
  src : Bool
  prio : Nat
  irunits : Nat
  cring : Nat
  exitThr : Nat
  driftLimit : Nat
  tag : Nat
  deriving DecidableEq, Repr

/-- A new entry. -/
def newStream (j p home slot irbase : Nat) (kvw : Option Nat) (a : OpenArgs) : Stream :=
  { job := j, state := .open, part := p, home := home, rstNext := false, rstPend := true, sr := a.sr, check := false,
    src := a.src, ppause := false, pclose := false, discard := false, ppreempt := false, dclass := a.dclass, prio := a.prio,
    replays := 0, slot := slot, step := 0, kvw := kvw, kvlen := 0, irbase := irbase, irunits := a.irunits, irhead := 0,
    irtail := 0, cring := a.cring, driftSat := 0, driftNan := 0, exitThr := a.exitThr, driftLimit := a.driftLimit,
    exphist := 0, nskip := 0, nexit := 0, last := 0, tag := a.tag, committed := false, cont := false, chunks := [] }

/-- The INVALID conditions of STREAM_OPEN. -/
def openOk (x : Job) (a : OpenArgs) (tok ntok : Nat) : Bool :=
  (x.state = .loaded || x.state = .running) && decide (a.dclass < 3) && (a.dclass = 2 || x.hdr.chunkBound ≠ 0)
    && decide (2 ≤ a.irunits) && decide (a.irunits < 65536) && (x.rings[a.cring]?).any (fun r => r.kind = 1)
    && decide (ntok ≤ 2 ^ 20) && (x.kv.isSome || ntok = 0) && (ntok ≠ 0 || tok = 0)

/-- A stream id that is opened again no longer binds the channels of an earlier stream (R479). -/
def unbindOld (s : State) (i : Nat) : State :=
  { s with ports := s.ports.map (fun q =>
      if (portRuns q.cfg).any (fun r => r.1 = i) && !q.unbound.elem i then { q with unbound := q.unbound ++ [i] } else q) }

/-- Open a stream: the entry, its slot, its ring, its window with the prefix attached; RESULT and DETAIL. -/
def openStream (s : State) (p j : Nat) (x : Job) (a : OpenArgs) (toks : List W32) : DciRes :=
  let home := homeTile s j x
  let slots := getPool s j (home / 8)
  let room := match x.decl with
    | none => true
    | some d => slots.any (fun q => decide (2 * d.spare < q.free.length))
  let win := x.kv.bind freeWin
  match tFree s.streams 0 65536, ringFit x home a.irunits with
  | some i, some ir =>
    if (getPart s p).quota ≤ partUsed s p || (x.kv.isSome && win.isNone) || !room then .fail stNoResource
    else
      let (slot, s1) := if x.decl.isSome then takeSlot s j (home / 8) else (none, s)
      let s2 := setPart { unbindOld s1 i with streams := tPut s1.streams i (newStream j p home (slot.getD 0) ir win a) } p
        (fun y => { y with entFree := y.entFree - 1 })
      let s3 := setJob s2 j (fun y => { y with
        inUse := tPut y.inUse home ((tGet y.inUse home).getD [] ++ [(ir, a.irunits)]) })
      match win with
      | none => .done s3 stOk 0 (i + 2 ^ 16 * home + 2 ^ 32 * 0xFFFFFFFF)
      | some w =>
        let s4 := setKv s3 j (fun k => { k with wins := tPut k.wins w (newWindow i) })
        let (n, s5) := prefixAttach s4 j w p x.hdr.seed toks
        let s6 := setStream s5 i (fun st => { st with kvlen := n })
        .done s6 stOk n (i + 2 ^ 16 * home + 2 ^ 32 * ((getStream s6 i).elim 0 (kvwField s6)))
  | _, _ => .fail stNoResource

/-- A buffer of n 32-bit tokens as words. -/
def tokenList (b : List Byte) : List W32 := (List.range (b.length / 4)).map (fun i => BitVec.ofNat 32 (leAt b (4 * i) 4))

/-- STREAM_OPEN (R551). -/
def execStreamOpen (h : DciHdr) (dclass : BitVec 2) (sr : Bool) (src : Bool) (prio : BitVec 4) (job : Nat)
    (irunits : BitVec 16) (cring : BitVec 16) (exitThr : BitVec 16) (driftLimit : W32) (tag : W64) (tokAddr : W64)
    (ntok : W32) (s : State) : Out :=
  let p := partOf h
  let a : OpenArgs :=
    { dclass := dclass.toNat, sr := sr, src := src, prio := prio.toNat, irunits := irunits.toNat, cring := cring.toNat,
      exitThr := exitThr.toNat, driftLimit := driftLimit.toNat, tag := tag.toNat }
  .next (dciRun s (.streamOpen h dclass sr src prio job irunits cring exitThr driftLimit tag tokAddr ntok) h (partCheck s h false false false false false) (fun _ =>
    match jobOf s p job with
    | none => .fail stNotFound
    | some x =>
      if !openOk x a tokAddr.toNat ntok.toNat then .fail stInvalid
      else match (if ntok = 0 then (.ok [] : Except DciRes (List Byte)) else readBuf s h (some p) tokAddr.toNat (4 * ntok.toNat)) with
        | .error r => r
        | .ok b => openStream s p job x a (tokenList b)))

/-! ## Commands that name a stream (R552 to R555) -/

/-- STATE of a stream id, FREE when no entry holds it. -/
def stateOf (s : State) (i : Nat) : Nat := (getStream s i).elim 0 (stCode ·.state)

/-- Run a command on a stream of the partition. -/
def streamRun (s : State) (c : Instr) (h : DciHdr) (i : Nat) (faulted : Bool) (f : Stream → DciRes) : State :=
  dciRun s c h (partCheck s h false false false false faulted) (fun _ =>
    match feedStream s (partOf h) i with
    | none => .fail stNotFound
    | some st => f st)

/-- STREAM_FEED (R552). -/
def execStreamFeed (h : DciHdr) (desc : List Byte) (s : State) : Out :=
  let d := parseFeed desc (submitted s h.fn h.tag)
  .next (streamRun s (.streamFeed h desc) h d.stream false (fun st =>
    if d.malformed then .fail stInvalid
    else if d.reset then
      if st.state = .closing || st.state = .faulted then .fail stInvalid
      else .done (setStream s d.stream resetRequest) stOk 0 0
    else
      let (cause, s1) := submitChunk s d.stream st d
      .done s1 stOk 0 (cause.getD 0)))

/-- CLOSING or FAULTED. -/
def closedState (st : Stream) : Bool := st.state = .closing || st.state = .faulted

/-- STREAM_PAUSE (R296, R297, R554). -/
def execStreamPause (h : DciHdr) (stream : Nat) (s : State) : Out :=
  .next (streamRun s (.streamPause h stream) h stream false (fun st =>
    if closedState st then .fail stInvalid
    else match st.state with
      | .waiting => .wait (dciWait (setStream s stream (fun x => { x with ppause := true })) h.fn h.tag (.pause stream) none)
      | .preempted => .done (setStream s stream (fun x => { x with ppause := true })) stOk (stCode .preempted) 0
      | _ => .done (setStream s stream (fun x => { x with state := .paused })) stOk (stCode .paused) 0))

/-- STREAM_RESUME (R296, R297, R554). -/
def execStreamResume (h : DciHdr) (stream : Nat) (s : State) : Out :=
  .next (streamRun s (.streamResume h stream) h stream false (fun st =>
    if closedState st then .fail stInvalid
    else
      let s1 := setStream s stream (fun x => match x.state with
        | .waiting | .preempted => { x with ppause := false }
        | .paused => { x with state := openState x }
        | _ => x)
      .done s1 stOk (stateOf s1 stream) 0))

/-- STREAM_CLOSE; while a flush is pending the command waits for it (R296, R297, R389, R410, R554). -/
def execStreamClose (h : DciHdr) (stream : Nat) (discard : Bool) (s : State) : Out :=
  .next (streamRun s (.streamClose h stream discard) h stream false (fun st =>
    let s1 := closeStream s stream discard
    if flushing s st && !closedState st && st.state ≠ .waiting then .wait (dciWait s1 h.fn h.tag (.close stream) none)
    else .done s1 stOk (stateOf s1 stream) 0))

/-- STREAM_QUERY (R553, R555). -/
def execStreamQuery (h : DciHdr) (stream : Nat) (clrDrift : Bool) (buf : W64) (s : State) : Out :=
  let p := partOf h
  .next (streamRun s (.streamQuery h stream clrDrift buf) h stream true (fun st =>
    if buf ≠ 0 && (outFn s h (some p) buf.toNat 128).isNone then .fail stInvalid
    else if buf ≠ 0 && !bufOpen s h (some p) buf.toNat 128 then .hold
    else
      let s1 := if buf = 0 then s else writeBuf s h (some p) buf.toNat (entryBytes s st)
      let s2 := if clrDrift then setStream s1 stream (fun x => { x with driftSat := 0, driftNan := 0 }) else s1
      .done s2 stOk (stCode st.state) (st.driftSat + 2 ^ 32 * st.driftNan + 2 ^ 48 * st.replays)))

/-! ## The prefix tree (R398 to R400) -/

/-- Read a buffer that must lie in a host region of the partition (R505, R513). -/
def readPart (s : State) (p a n : Nat) : Except DciRes (List Byte) :=
  let rs := funcRegions s (p + 1)
  if (regionAt rs a n).isNone then .error (.fail stInvalid)
  else if !hostReadOk s (p + 1) then .error (.fail stFaulted)
  else if !tagFree s (p + 1) then .error .hold
  else .ok (dpaRead s rs a n)

/-- A change of the background tree waits for the switch, which comes at once in a partition that runs no job. -/
def waitSwitch (s : State) (h : DciHdr) (p result : Nat) : DciRes :=
  .wait (idleSwitch (setPart s p (fun x => { x with
    treeOps := x.treeOps ++ [{ fn := h.fn, tag := h.tag, result := result }] })) p)

/-- An open stream of the partition with its window: neither FREE nor FAULTED. -/
def openWin (s : State) (p i : Nat) : Option (Stream × Nat × KvJob) :=
  match feedStream s p i with
  | some st => if st.state = .faulted then none else match st.kvw, getKv s st.job with
    | some w, some k => some (st, w, k)
    | _, _ => none
  | none => none

/-- PREFIX_INSERT (R398, R400). -/
def execPrefixInsert (h : DciHdr) (stream : Nat) (n : W32) (tokAddr : W64) (s : State) : Out :=
  let p := partOf h
  .next (dciRun s (.prefixInsert h stream n tokAddr) h (partCheck s h false false false false false) (fun _ =>
    if (levelAt n.toNat).isNone then .fail stInvalid
    else match readPart s p tokAddr.toNat (4 * n.toNat), openWin s p stream with
      | .error r, _ => r
      | .ok _, none => .fail stNotFound
      | .ok b, some (st, w, k) =>
        if st.kvlen / 64 * 64 < n.toNat then .fail stInvalid
        else
          let plan := insertPlan s k st.job w (tokenList b) 0 262 none (rootHash ((getJob s st.job).elim 0 (·.hdr.seed))) []
          let new := plan.filter (fun e => e.2.2.2.isSome)
          let words := (new.map (fun e => e.2.2.1.length)).sum
          if k.hdr.nodes < (treeNodes k).length + new.length || k.hdr.tokwords < treeToks k + words then .fail stNoResource
          else
            let deep := plan.getLast?.elim 0 (fun e => levelStart e.1 + levelSize e.1)
            waitSwitch (makeNodes st.job plan none s) h p deep))

/-- PREFIX_DROP (R399, R400). -/
def execPrefixDrop (h : DciHdr) (job : Nat) (n : W32) (tokAddr : W64) (s : State) : Out :=
  let p := partOf h
  .next (dciRun s (.prefixDrop h job n tokAddr) h (partCheck s h false false false false false) (fun _ =>
    match levelAt n.toNat, readPart s p tokAddr.toNat (4 * n.toNat) with
    | none, _ => .fail stInvalid
    | some _, .error r => r
    | some l, .ok b => match jobOf s p job, getKv s job with
      | some x, some k =>
        let (ns, _, _) := matchFrom k.bg (fun _ => false) (tokenList b) none (rootHash x.hdr.seed) 0 (l + 1)
        match (if ns.length = l + 1 then ns.getLast? else none) with
        | some e => waitSwitch (removeNode s job e.1) h p (subtree k.bg e.1).length
        | none => .fail stNotFound
      | _, _ => .fail stNotFound))

/-! ## Swaps (R406 to R410) -/

/-- KV_SWAP_OUT; the stream becomes PREEMPTED after any step in flight and any pending flush (R406, R409). -/
def execKvSwapOut (h : DciHdr) (stream : Nat) (s : State) : Out :=
  let p := partOf h
  .next (streamRun s (.kvSwapOut h stream) h stream false (fun st0 =>
    if st0.state = .closing then .fail stInvalid
    else match openWin s p stream with
      | none => .fail stNotFound
      | some (st, w, k) => match tGet k.wins w with
        | none => .fail stNotFound
        | some v =>
          if v.state ≠ .resident then .fail stInvalid
          else if (swapFit s p (winImage k v)).isNone then .fail stNoResource
          else
            let s1 := setStream (dciWait s h.fn h.tag (.kvOut stream) none) stream (fun x =>
              if st.state = .waiting || v.flushPend then { x with ppreempt := true } else preemptStream x)
            .wait (startSwapOut s1 stream)))

/-- KV_SWAP_IN (R408, R409). -/
def execKvSwapIn (h : DciHdr) (stream : Nat) (s : State) : Out :=
  let p := partOf h
  .next (streamRun s (.kvSwapIn h stream) h stream false (fun st0 =>
    if st0.state = .closing then .fail stInvalid
    else match openWin s p stream with
      | none => .fail stNotFound
      | some (st, w, k) =>
        if (tGet k.wins w).all (fun v => v.state ≠ .swapped) then .fail stInvalid
        else match startSwapIn s st.job w with
          | none => .fail stNoResource
          | some (s1, n) => .wait (dciWait s1 h.fn h.tag (.kvIn stream n) none)))

end Sys2Proof.Machine
end

