-- ==== Sys2Proof/Machine/TableCmd.lean ====
section
/-! DEFINITION. TABLE_LOAD, timeouts of commands, and the checking commands (R163 to R168, R345, R536, R566 to R568, R574,
R656 to R663). -/

namespace Sys2Proof.Machine

/-! ## Decode tables (R163 to R167) -/

/-- What a TABLE_LOAD comes to: a status with RESULT and DETAIL, a wait, or another try once a tag is free. -/
inductive TableRes where
  | fin (s : State) (status result detail : Nat)
  | wait (s : State) (w : WaitFor)
  | retry
  deriving DecidableEq, Repr

/-- The slots of a codec: 1 Quince, 2 Sloe. -/
def codecSlots (x : Job) (kind : Nat) : List DecSlot := if kind = 1 then x.quince else x.sloe

def modSlots (s : State) (j kind : Nat) (f : List DecSlot → List DecSlot) : State :=
  setJob s j (fun x => if kind = 1 then { x with quince := f x.quince } else { x with sloe := f x.sloe })

/-- Is a generation of a codec in the reference set of one of a job's tasks? -/
def genHeld (s : State) (j kind gen : Nat) : Bool :=
  s.tasks.any (fun e => e.2.job = j && (if kind = 1 then e.2.refQ else e.2.refS).any (fun r => r.1 = gen))

/-- The slot that a load takes: EMPTY, or RETIRED with no references held; slot 0 before slot 1. -/
def freeTableSlot (s : State) (j : Nat) (x : Job) (kind : Nat) : Option Nat :=
  (List.range 2).find? (fun n => match (codecSlots x kind)[n]? with
    | some d => d.cond = .empty || (d.cond = .retired && !genHeld s j kind d.gen)
    | none => false)

/-- State and generation of a slot as the log shows them. -/
def slotLog (d : DecSlot) : List Byte :=
  leBytes 1 (match d.cond with | .empty => 0 | .live => 1 | .retired => 2) ++ leBytes 1 d.gen

/-- A table fills a slot: LIVE, its state and generation and its table logged (R581). -/
def loadSlot (s : State) (fn p j kind n gen : Nat) (table : List Byte) (retired : Bool) : State :=
  let old := ((getJob s j).bind (fun x => (codecSlots x kind)[n]?)).getD emptySlot
  let s1 := modSlots s j kind (fun l => l.set n { cond := .live, gen := gen, table := table, order := (getJob s j).elim 0 (·.loads) })
  let s2 := setJob s1 j (fun x => { x with loads := x.loads + 1 })
  let s3 := if retired then logChange s2 fn p 0x0C00 j 21 (leBytes 1 1) (leBytes 1 2) else s2
  let s4 := logChange s3 fn p 0x0C00 j 22 (slotLog old) (leBytes 1 1 ++ leBytes 1 gen)
  logChange s4 fn p 0x0C00 j 24 old.table table

/-- The slot that holds a generation becomes RETIRED. -/
def retireSlot (s : State) (j kind rgen : Nat) : State :=
  modSlots s j kind (fun l => l.map (fun d => if d.cond = .live && d.gen = rgen then { d with cond := .retired } else d))

def noSlot : Nat := 0xFFFFFFFF

/-- A codec's TABLE_LOAD at its turn (R166, R167). -/
def takeCodec (s : State) (h : DciHdr) (late : Bool) (kind job flags rgen gen : Nat) (table : List Byte) : TableRes :=
  let p := partOf h
  let retire := bitAt flags 0
  let load := bitAt flags 1
  if flags = 0 || decide (4 ≤ flags) || decide (4 ≤ rgen) || decide (4 ≤ gen) || (load && !tabValid table) || (load && retire && rgen = gen) then
    .fin s stInvalid noSlot 0
  else match jobOf s p job with
    | none => .fin s stNotFound noSlot 0
    | some x =>
      let l := codecSlots x kind
      if x.state = .tornDown then .fin s stNotFound noSlot 0
      else if load && l.any (fun d => d.cond ≠ .empty && d.gen = gen) then .fin s stInvalid noSlot 0
      else if retire && !l.any (fun d => d.cond = .live && d.gen = rgen) then .fin s stNotFound noSlot 0
      else
        let s1 := if retire then retireSlot s job kind rgen else s
        if !load then .fin (logChange s1 h.fn p 0x0C00 job 21 (leBytes 1 1) (leBytes 1 2)) stOk noSlot 1
        else if late then .fin s1 stTimeout noSlot (b2n retire)
        else match (getJob s1 job).bind (fun y => freeTableSlot s1 job y kind) with
          | some n => .fin (loadSlot s1 h.fn p job kind n gen table retire) stOk n (b2n retire)
          | none =>
            if h.timeout = 0 then .fin s1 stTableBusy noSlot (b2n retire)
            else .wait s1 (.tableLoad kind job gen table retire)

/-! ## Bias tables (R345) -/

/-- Does a task hold the copy of a job that is not live? -/
def idleCopyHeld (s : State) (j : Nat) (x : Job) : Bool :=
  s.tasks.any (fun e => e.2.job = j && (e.2.state ≠ .built || e.2.replay || e.2.kills ≠ 0) && e.2.biasCopy = !x.biasLive)

/-- Copy the live copy into the other, write the named heads over it on every tile of the share, and make it live; the entries and the
live copy are logged (R345, R581). -/
def loadBias (s : State) (fn j : Nat) (x : Job) (head0 : Nat) (data : List Byte) : State :=
  let idle := !x.biasLive
  let size := 1024 * x.hdr.nbh
  let at_ (t : Nat) (c : Bool) : Nat := calAddr t (x.base + x.hdr.biasoff) + size * b2n c
  let s1 := forAll s x.share (fun s t =>
    setTile (devWrite (devWrite s (asWrites (at_ t idle) (devRead s (at_ t x.biasLive) size)))
      (asWrites (at_ t idle + 1024 * head0) data)) t
      (fun y => if y.bias0 = (x.base + x.hdr.biasoff) / 64 then { y with biasLive := idle } else y))
  let old := devRead s (at_ (x.share.headD 0) x.biasLive + 1024 * head0) data.length
  logChange (logChange (setJob s1 j (fun y => { y with biasLive := idle })) fn x.part 0x0C00 j 0 (leBytes 1 (b2n x.biasLive))
    (leBytes 1 (b2n idle))) fn x.part 0x0C00 j 32 old data

/-- A BIAS TABLE_LOAD at its turn. -/
def takeBias (s : State) (h : DciHdr) (late : Bool) (job flags rgen gen : Nat) (table : List Byte) : TableRes :=
  let p := partOf h
  let head0 := leAt table 0 2
  let n := leAt table 2 2
  match jobOf s p job with
  | none => .fin s stNotFound 0 0
  | some x =>
    if x.state = .tornDown then .fin s stNotFound 0 0
    else if flags ≠ 0 || rgen ≠ 0 || gen ≠ 0 || !zeroAt table 4 4 || n = 0 || decide (x.hdr.nbh < head0 + n) then
      .fin s stInvalid 0 0
    else match readPart s p (leAt table 8 8) (1024 * n) with
      | .error (.fail st) => .fin s st 0 0
      | .error _ => .retry
      | .ok data =>
        if late then .fin s stTimeout 0 0
        else if !idleCopyHeld s job x then .fin (loadBias s h.fn job x head0 data) stOk (b2n !x.biasLive) 0
        else if h.timeout = 0 then .fin s stTableBusy 0 0
        else .wait s (.bias job head0 n data)

/-! ## TABLE_LOAD -/

/-- Codec kind and job of a waiting TABLE_LOAD. -/
def tableKey : WaitFor → Option (Nat × Nat)
  | .tableLoad kind j _ _ _ => some (kind, j)
  | .bias j _ _ _ => some (3, j)
  | .tableQueued _ kind j _ _ _ _ => some (kind, j)
  | _ => none

/-- A TABLE_LOAD at its turn, with the checks that come before its own (R537); `late`: its timeout expired while an earlier one held it, so
it loads nothing (R166 to R168). -/
def takeTable (s : State) (h : DciHdr) (late : Bool) (kind job flags rgen gen : Nat) (table : List Byte) : TableRes :=
  let empty := if kind = 1 || kind = 2 then noSlot else 0
  match partCheck s h false true false false false with
  | some st => .fin s st empty 0
  | none =>
    if kind = 0 || decide (3 < kind) then .fin s stInvalid 0 0
    else if kind = 3 then takeBias s h late job flags rgen gen table
    else takeCodec s h late kind job flags rgen gen table

/-- TABLE_LOAD: held behind an earlier one of the same job and codec, else taken (R166 to R168, R345, R574). -/
def execTableLoad (h : DciHdr) (kind : Byte) (job : Nat) (flags : Byte) (rgen : Byte) (gen : Byte) (table : List Byte)
    (s : State) : Out :=
  let k := kind.toNat
  let dl := if h.timeout = 0 then none else some (timeoutAt s h)
  .next (dciRun s (.tableLoad h kind job flags rgen gen table) h none (fun _ =>
    if s.waiters.any (fun w => tableKey w.what = some (k, job)) then
      .wait (dciWait s h.fn h.tag (.tableQueued h k job flags.toNat rgen.toNat gen.toNat table) dl)
    else match takeTable s h false k job flags.toNat rgen.toNat gen.toNat table with
      | .fin s1 st r d => .done s1 st r d
      | .wait s1 w => .wait (dciWait s1 h.fn h.tag w dl)
      | .retry => .hold))

/-- The waiter of a command. -/
def isWaiter (fn : Nat) (tag : W32) (w : Waiter) : Bool := w.fn = fn && w.tag = tag

/-- Complete one waiting command. -/
def endWaiter (s : State) (fn : Nat) (tag : W32) (status result detail : Nat) : State :=
  completeWaiters s (isWaiter fn tag) status result detail

/-- Carry a waiting TABLE_LOAD on: it finds its slot or copy, or its turn has come. -/
def resumeTable (s : State) (fn : Nat) (tag : W32) (w0 : Waiter) : State :=
  match w0.what with
  | .tableLoad kind job gen table retired => match getJob s job with
    | none => s
    | some x => match freeTableSlot s job x kind with
      | some n => endWaiter (loadSlot s fn x.part job kind n gen table retired) fn tag stOk n (b2n retired)
      | none => s
  | .bias job head0 _ data => match getJob s job with
    | none => s
    | some x =>
      if idleCopyHeld s job x then s
      else endWaiter (loadBias s fn job x head0 data) fn tag stOk (b2n !x.biasLive) 0
  | .tableQueued h kind job flags rgen gen table =>
    if (s.waiters.takeWhile (fun v => !isWaiter fn tag v)).any (fun v => tableKey v.what = some (kind, job)) then s
    else match takeTable s h (w0.deadline.any (fun t => decide (t ≤ now s))) kind job flags rgen gen table with
      | .retry => s
      | .fin s1 st r d => endWaiter s1 fn tag st r d
      | .wait s1 w2 => { s1 with waiters := s1.waiters.map (fun v => if isWaiter fn tag v then { v with what := w2 } else v) }
  | _ => s

/-- TABLE_LOAD_RESUME; while Tyrax does not run the command waits on (R166, R168, R345, R594). -/
def execTableLoadResume (fn : Nat) (tag : W32) (s : State) : Out :=
  .next (if !tyraxUp s then s
    else match s.waiters.find? (isWaiter fn tag) with
      | some w => resumeTable s fn tag w
      | none => s)

/-! ## Timeouts (R536) -/

/-- The TIMEOUT of a waiting command has expired: a table that found no room, a port that reached no data frame. A TABLE_LOAD
that is held behind an earlier one waits for its turn, at which it is late (R168). -/
def expireWaiter (s : State) (w : Waiter) : State :=
  match w.what with
  | .tableLoad .. | .bias .. => endWaiter s w.fn w.tag stTimeout (noTable w.what).1 (noTable w.what).2
  | .tableQueued .. => { s with waiters := s.waiters.map (fun v => if isWaiter w.fn w.tag v then { v with deadline := some 0 } else v) }
  | .portStart n =>
    endWaiter (forAll s (portMembers s n) cancelStart) w.fn w.tag stTimeout 0 0
  | _ => s

/-- The TIMEOUT of a CHECK_STEP whose row was not placed has expired: CHECK is cleared (R567). -/
def expireCheck (s : State) (c : StepCheck) : State :=
  let s1 := { s with checks := s.checks.filter (fun q => q.stream ≠ c.stream) }
  dciComplete (setStream s1 c.stream (fun st => { st with check := false })) c.fn c.tag stTimeout 0 0

/-- COMMAND_TIMEOUT; while Tyrax does not run the command waits on (R536, R483, R567, R594). -/
def execCommandTimeout (fn : Nat) (tag : W32) (s : State) : Out :=
  .next (if !tyraxUp s then s
    else match s.waiters.find? (fun w => isWaiter fn tag w && w.deadline.isSome),
        s.checks.find? (fun c => c.fn = fn && c.tag = tag && !c.placed && c.deadline.isSome) with
      | some w, _ => expireWaiter s w
      | none, some c => expireCheck s c
      | none, none => s)

/-! ## CHECK_STEP and CHECK_TILE (R566 to R568, R661 to R663) -/

/-- CHECK_STEP (R566). -/
def execCheckStep (h : DciHdr) (stream : Nat) (fum : Bool) (s : State) : Out :=
  .next (dciRun s (.checkStep h stream fum) h (partCheck s h false true false false false) (fun _ =>
    match feedStream s (partOf h) stream with
    | none => .fail stNotFound
    | some st =>
      if st.check || s.checks.any (fun c => c.stream = stream) then .fail stBusy
      else if closedState st then .fail stInvalid
      else
        let c : StepCheck :=
          { fn := h.fn, tag := h.tag, stream := stream, fum := fum, placed := false, step := 0, firstTile := 0,
            checkTile := none, thirdTile := none, result1 := none, result2 := none, mismatch := false,
            deadline := if h.timeout = 0 then none else some (timeoutAt s h) }
        .wait (setStream { s with checks := s.checks ++ [c] } stream (fun x => { x with check := true }))))

/-- The tests of R661. -/
def allTests : Nat := 0x3FF

/-- Is a tile the last one in service of a live job's share? -/
def lastInService (s : State) (t : Nat) : Bool :=
  s.jobs.any (fun e => e.2.state ≠ .tornDown && e.2.share.elem t && e.2.share.all (fun u => u = t || !tileInService s u))

/-- CHECK_TILE: the tile is withdrawn at its next command boundary (R568, R653). -/
def execCheckTile (h : DciHdr) (tile : Nat) (mask : W32) (keep : Bool) (s : State) : Out :=
  let held := partOfSlice s (tile / 8)
  .next (dciRun s (.checkTile h tile mask keep) h (partCheck s h false false true false false) (fun _ =>
    if decide (96 ≤ tile) || decide (allTests < mask.toNat) then .fail stInvalid
    else if held ≠ (if devScope h then none else some (partOf h)) then .fail (if h.fn = 0 then stInvalid else stDenied)
    else if (getTile s tile).withdrawn || (getTile s tile).withdrawNext then .fail stBusy
    else if lastInService s tile then .fail stNoResource
    else
      let c : TileTest := { fn := h.fn, tag := h.tag, tile := tile, mask := mask, keep := keep }
      .wait (settle (setTile (wakeSlice { s with tests := s.tests ++ [c] } (tile / 8)) tile (fun x => { x with withdrawNext := true, power := .run })))))

/-- Does the Caldera test leave an address of a tile as it is: allocated to a job, and in none of its WORK ranges (R662)? -/
def testKeeps (s : State) (t a : Nat) : Bool :=
  let inR (r : Nat × Nat) : Bool := decide (r.1 ≤ a) && decide (a < r.1 + r.2)
  let work := s.jobs.any (fun e => e.2.share.elem t && inR (calAddr t (e.2.base + e.2.hdr.workoff), e.2.hdr.worklen))
  let used := s.jobs.any (fun e => (jobRanges e.2).any inR) || s.geys.any (fun g => g.place.any (fun e => inR (e.dest, 2 ^ e.k)))
  used && !work

/-- The march test's zeros and fresh codes over WORK ranges and unallocated Caldera. -/
def zeroTested (s : State) (t : Nat) : State :=
  let goes (a : Nat) : Bool := decide (calAddr t 0 ≤ a) && decide (a < calAddr t 0x400000) && !testKeeps s t a
  { s with mem := s.mem.filter (fun e => !goes e.1), badWords := s.badWords.filter (fun a => !goes a) }

/-- CHECK_TILE_DONE: the tile returns to service, or stays withdrawn and its failure is posted (R568, R654, R656, R663). -/
def execCheckTileDone (tile : Nat) (failed : W32) (s : State) : Out :=
  .next (match s.tests.find? (fun c => c.tile = tile) with
    | none => s
    | some c =>
      if !(getTile s tile).withdrawn then s
      else
        let m := if c.mask = 0 then allTests else c.mask.toNat
        let bad := failed.toNat &&& m
        let s1 := { s with tests := s.tests.filter (fun c => c.tile ≠ tile) }
        let s2 := if bitAt m 0 then zeroTested s1 tile else s1
        let s3 := if bitAt bad 9 then setDie s2 (tile / 48) (fun d => { d with fumOk := false }) else s2
        let stay := bad ≠ 0 || c.keep
        let s4 := setTile s3 tile (fun x => { x with
          failed := x.failed || bad ≠ 0, withdrawn := stay || x.failed })
        let sc := (partOfSlice s (tile / 8)).getD 0xF0
        let s5 := if (getTile s4 tile).withdrawn then logChange s4 c.fn sc 0x0801 tile 0 (leBytes 1 0) (leBytes 1 1) else s4
        let s6 := if bad = 0 then s5
          else raiseErr s5 [(ErrClass.engine, tile)] true none
            { mkEvent 0x02 0xF0 0x01 tile with detail := mismatchDetail 0 0 tile 0xFF 0xFF (Config.freeByte s5.freeCtr) bad }
        let s7 := if bad = 0 then s6 else { s6 with freeCtr := s6.freeCtr + 1 }
        dciComplete s7 c.fn c.tag stOk bad 0)

end Sys2Proof.Machine
end

