-- ==== Sys2Proof/Machine/Cfg.lean ====
section
/-! DEFINITION. Configuration sets: staging, commit and revert (R507, R561 to R565). -/

namespace Sys2Proof.Machine

/-! ## The layout (R561, R562) -/

/-- Region entry k of a set's bytes, when it is used. -/
def parseRegion (b : List Byte) (k : Nat) : Option Region :=
  let e := (b.drop (0x80 + 32 * k)).take 32
  if zeroAt e 0 32 then none
  else some { dpa := leAt e 0 8, len := leAt e 8 8, bus := leAt e 16 8, hpa := leAt e 24 6, flags := leAt e 30 2 }

/-- DEPTH entry k: job and depth, when it is used. -/
def parseDepth (b : List Byte) (k : Nat) : Option (Nat × Nat) :=
  let e := (b.drop (0x2C0 + 4 * k)).take 4
  if zeroAt e 0 4 then none else some (leAt e 0 2, leAt e 2 1)

/-- Feed-ring entry n, when it is used. -/
def parseFeedCfg (b : List Byte) (n : Nat) : Option FeedCfg :=
  let e := (b.drop (0x300 + 32 * n)).take 32
  if zeroAt e 0 32 then none else some { base := leAt e 0 8, entries := leAt e 8 4, headwb := leAt e 16 8 }

/-- A size under R298. -/
def feedSize (n : Nat) : Bool := (List.range 17).any (fun k => decide (4 ≤ k) && n = 2 ^ k)

/-- Does feed-ring entry n keep R562? -/
def feedEntryOk (b : List Byte) (n : Nat) : Bool :=
  let e := (b.drop (0x300 + 32 * n)).take 32
  leAt e 0 8 % 32 = 0 && (leAt e 8 4 = 0 || feedSize (leAt e 8 4)) && zeroAt e 12 4 && leAt e 16 8 % 4 = 0 && zeroAt e 24 8

/-- Does DEPTH entry k keep R561? -/
def depthEntryOk (b : List Byte) (k : Nat) : Bool :=
  let e := (b.drop (0x2C0 + 4 * k)).take 4
  zeroAt e 0 4 || (inRange false 1 8 (leAt e 2 1) && zeroAt e 3 1)

/-- Do the bytes of a set keep the layout for a scope? -/
def cfgLayoutOk (b : List Byte) (scope : Nat) : Bool :=
  leAt b 4 1 = scope && zeroAt b 5 0x3B && zeroAt b 0x45 0x3B
    && (if scope = 0xF0 then zeroAt b 0x40 5 && zeroAt b 0x280 0x880
      else inRange false 1 65536 (leAt b 0x40 4) && decide (leAt b 0x280 1 < 16) && inRange false 10 24 (leAt b 0x281 1)
        && decide (leAt b 0x282 1 ≤ 63) && inRange false 1 255 (leAt b 0x283 1) && decide (leAt b 0x284 1 < 2)
        && zeroAt b 0x285 0x3B && (List.range 16).all (depthEntryOk b) && (List.range 64).all (feedEntryOk b))

/-- A table from what is used of n entries. -/
def entriesTab {α : Type} (f : Nat → Option (Nat × α)) (n : Nat) : Tab α :=
  ((List.range n).filterMap f).foldl (fun t e => tPut t e.1 e.2) []

/-- The fields of a set. -/
def parseCfg (b : List Byte) : CfgSet :=
  { raw := b, version := leAt b 0 4, scope := leAt b 4 1, quota := leAt b 0x40 4, ports := leAt b 0x44 1,
    regions := (List.range 16).filterMap (parseRegion b), chkEn := bitAt (leAt b 0x280 1) 0,
    chkSlack := bitsAt (leAt b 0x280 1) 1 3, wdogExp := leAt b 0x281 1, mergeWait := leAt b 0x282 1,
    bgSlack := leAt b 0x283 1, dropLate := bitAt (leAt b 0x284 1) 0, depth := entriesTab (parseDepth b) 16,
    feeds := entriesTab (fun n => (parseFeedCfg b n).map (fun e => (n, e))) 64 }

/-- The 2,816 bytes of a set. -/
def cfgBytes (c : CfgSet) : List Byte := leBytes 4 c.version ++ c.raw.drop 4

/-- The scope that a command names: 0 to 11, or 12 for the scope 0xF0. -/
def cfgScope (h : DciHdr) : Nat := if devScope h then 12 else partOf h
def scopeCode (sc : Nat) : Nat := if sc = 12 then 0xF0 else sc
def getScope (s : State) (sc : Nat) : ScopeSt := s.scopes.getD sc ScopeSt.reset

/-- CFG_STAGE (R563). -/
def execCfgStage (h : DciHdr) (buf : W64) (s : State) : Out :=
  let sc := cfgScope h
  .next (dciRun s (.cfgStage h buf) h (partCheck s h false false true false false) (fun _ =>
    match readBuf s h (if sc = 12 then none else some sc) buf.toNat 2816 with
    | .error r => r
    | .ok b =>
      if !cfgLayoutOk b (scopeCode sc) then .fail stInvalid
      else
        let c := parseCfg b
        let old := if h.fn = 0 then (getScope s sc).stagedPf else (getScope s sc).stagedVf
        let s1 := setScope s sc (fun x => if h.fn = 0 then { x with stagedPf := some c } else { x with stagedVf := some c })
        .done (logChange s1 h.fn (scopeCode sc) 0x0700 0 0 (old.elim [] (fun o => cfgBytes o)) (cfgBytes c)) stOk 0 0))

/-! ## Checks of a commit (R564) -/

/-- Does a region keep the table of R507? -/
def regionOk (r : Region) : Bool :=
  r.dpa % 0x200000 = 0 && decide (hostBase ≤ r.dpa) && r.len ≠ 0 && r.len % 0x200000 = 0 && decide (r.dpa + r.len ≤ 2 ^ 48)
    && r.bus % 0x200000 = 0 && decide (r.flags < 8) && (regCoherent r || r.hpa = 0)

/-- No two regions of a list overlap. -/
def regionsApart : List Region → Bool
  | [] => true
  | r :: l => l.all (fun q => !overlap r.dpa r.len q.dpa q.len) && regionsApart l

/-- R507 for a scope's incoming set beside the sets in force of the other scopes. -/
def regionsOk (s : State) (sc : Nat) (c : CfgSet) : Bool :=
  let others := ((List.range 13).filter (· ≠ sc)).flatMap (fun k => (curSet s k).elim [] (·.regions))
  c.regions.all regionOk && decide ((c.regions.filter regSwap).length ≤ 1) && regionsApart c.regions
    && c.regions.all (fun r => !others.any (fun q => overlap r.dpa r.len q.dpa q.len))

/-- Does the incoming set change a feed ring that is enabled, other than to disable it? -/
def feedsKept (old new : CfgSet) : Bool :=
  old.feeds.all (fun e => e.2.entries = 0
    || (match tGet new.feeds e.1 with
      | none => true
      | some f => f.entries = 0 || (f.base = e.2.base && f.entries = e.2.entries)))

/-- Ranges in host regions that a partition's jobs, rings, images and feed rings hold. -/
def hostHeld (s : State) (p : Nat) (old : CfgSet) : List (Nat × Nat) :=
  let js := partJobs s p
  js.flatMap (fun e => e.2.rings.flatMap (fun r => [(r.base, r.recsz * r.nrec), (r.ctl, 8)]))
    ++ js.flatMap (fun e => jobRanges e.2) ++ swapUsed s p
    ++ old.feeds.flatMap (fun e => if e.2.entries = 0 then [] else [(e.2.base, 32 * e.2.entries), (e.2.headwb, 4)])

/-- Does a region that the incoming set removes or changes hold something? -/
def regionsBusy (s : State) (sc : Nat) (old new : CfgSet) : Bool :=
  let gone := old.regions.filter (fun r => !new.regions.elem r)
  sc < 12 && (nonEmpty (hostHeld s sc old)).any (fun u => gone.any (fun r => overlap u.1 u.2 r.dpa r.len))

/-- The PF section's bytes. -/
def pfSection (c : CfgSet) : List Byte := (c.raw.drop 0x40).take 0x240

/-- Ports of a mask that are not OFF. -/
def portsOn (s : State) (m : Nat) : Bool := (List.range 8).any (fun n => bitAt m n && (getPort s n).state ≠ .off)

/-- The conditions of R564 after VERSION, in order. -/
def commitCheck (s : State) (fn sc : Nat) (old new : CfgSet) : Option Nat :=
  let p := getPart s sc
  let otherPorts := ((List.range 12).filter (· ≠ sc)).any (fun q => (getPart s q).portMask &&& new.ports ≠ 0)
  if !regionsOk s sc new || !feedsKept old new
      || (sc < 12 && !new.depth.all (fun e => (getJob s e.1).any (fun j => j.part = sc))) then some stInvalid
  else if fn ≠ 0 && pfSection old ≠ pfSection new then some stDenied
  else if regionsBusy s sc old new || (sc < 12 && (portsOn s (p.portMask - (p.portMask &&& new.ports))
      || decide (new.quota < partUsed s sc))) then some stBusy
  else if sc < 12 && (decide (65536 < otherQuotas s sc + new.quota) || otherPorts) then some stNoResource
  else none

/-! ## Applying a set (R565) -/

/-- The fields of R561: offset and length. -/
def cfgFields : List (Nat × Nat) :=
  [(0, 4), (4, 1), (0x40, 4), (0x44, 1), (0x80, 512), (0x280, 1), (0x281, 1), (0x282, 1), (0x283, 1), (0x284, 1), (0x2C0, 64),
   (0x300, 2048)]

/-- Log the fields that differ between two sets (R581). -/
def logCfg (s : State) (fn code sc : Nat) (old new : CfgSet) : State :=
  let a := cfgBytes old
  let b := cfgBytes new
  forAll s cfgFields (fun s f =>
    logChange s fn (scopeCode sc) code 0 f.1 ((a.drop f.1).take f.2) ((b.drop f.1).take f.2))

/-- A feed ring whose entry changes starts afresh. -/
def keepFeeds (old new : CfgSet) (t : Tab FeedRing) : Tab FeedRing :=
  t.filter (fun e => match tGet old.feeds e.1, tGet new.feeds e.1 with
    | some a, some b => a.base = b.base && a.entries = b.entries
    | _, _ => false)

/-- Install a set as the current one: regions, ports and feed rings at once; tile and Geyser fields under R210; DROP_LATE
pending until the job-wide fields are live, a pending SCHED_EN as it is (R210, R334, R565). -/
def installSet (s : State) (sc : Nat) (old new : CfgSet) : State :=
  let s1 := setScope s sc (fun x => { x with cur := some new, prev := some old })
  if 12 ≤ sc then s1
  else
    let s2 := setFunc s1 (sc + 1) (fun f => { f with feeds := keepFeeds old new f.feeds })
    let s3 := setPart s2 sc (fun x => { x with
      portMask := new.ports, pendOrc := x.pendOrc.map (fun e => (e.1, new.dropLate)) })
    writeCfg s3 sc (maskSlices (getPart s3 sc).slices)

/-- Carry out a commit or a revert with a set to install. -/
def commitSet (s : State) (h : DciHdr) (code sc base : Nat) (staged : Bool) (incoming : Option CfgSet) : DciRes :=
  match incoming, curSet s sc with
  | some c, some old =>
    if base ≠ old.version then .fail stVersion
    else match commitCheck s h.fn sc old c with
      | some st => .fail st
      | none =>
        let new := { c with version := (old.version + 1) % 2 ^ 32 }
        let s1 := if !staged then s
          else setScope s sc (fun x => if h.fn = 0 then { x with stagedPf := none } else { x with stagedVf := none })
        let s2 := logCfg (installSet s1 sc old new) h.fn code sc old new
        if 12 ≤ sc then .done s2 stOk new.version 0
        else .wait (settleCfg (dciWait s2 h.fn h.tag (.cfg sc new.version true) none))
  | _, _ => .fail stNotFound

/-- Order with the commands of R425, for a partition's scope. -/
def cfgRun (s : State) (i : Instr) (h : DciHdr) (f : Unit → DciRes) : State :=
  shapeRun s i h false (partCheck s h false false true false false) f

/-- CFG_COMMIT (R564, R565). -/
def execCfgCommit (h : DciHdr) (base : W32) (s : State) : Out :=
  let sc := cfgScope h
  let staged := if h.fn = 0 then (getScope s sc).stagedPf else (getScope s sc).stagedVf
  .next (cfgRun s (.cfgCommit h base) h (fun _ => commitSet s h 0x0701 sc base.toNat true staged))

/-- CFG_REVERT (R564, R565). -/
def execCfgRevert (h : DciHdr) (base : W32) (s : State) : Out :=
  let sc := cfgScope h
  .next (cfgRun s (.cfgRevert h base) h (fun _ => commitSet s h 0x0702 sc base.toNat false (getScope s sc).prev))

end Sys2Proof.Machine
end

