-- ==== Sys2Proof/Machine/HostOps.lean ====
section
/-! DEFINITION. The host interface: rings of BAR0, event records, function resets, device time (R502 to R506, R514 to R530,
R664 to R672). -/

namespace Sys2Proof.Machine

/-! ## Event records (R526, R665, R670, R672) -/

/-- The event queue of a function: the device-wide queue or its partition's. -/
def evQueue (s : State) (fn : Nat) : EvQueue := if fn = 0 then s.devQueue else (getPart s (fn - 1)).queue

def setEvQueue (s : State) (fn : Nat) (f : EvQueue → EvQueue) : State :=
  if fn = 0 then { s with devQueue := f s.devQueue } else setPart s (fn - 1) (fun p => { p with queue := f p.queue })

/-- SCOPE of a function's records. -/
def evScope (fn : Nat) : Nat := if fn = 0 then 0xF0 else fn - 1

/-- The OVERFLOW record that reports what a disabled ring lost (R526). -/
def lossRecord (s : State) (fn : Nat) (l : RingLoss) : Event :=
  { mkEvent 0x0C (evScope fn) 0 0 with
    time := now s, seq := l.seq,
    detail := leBytes 4 l.count ++ leBytes 2 l.mask ++ leBytes 8 l.first ++ leBytes 8 l.last }

/-- The record a function's ring takes next, and the state without it in its queue. -/
def nextEvent (s : State) (fn : Nat) : Option (Event × State) :=
  match (getFunc s fn).evtLost with
  | some l => some (lossRecord s fn l, setFunc s fn (fun f => { f with evtLost := none }))
  | none => match (evQueue s fn).ents with
    | e :: r => some (e, setEvQueue s fn (fun q => { q with ents := r }))
    | [] => none

/-- Put one record into a function's event ring, and fire its vector. -/
def putEvent (s : State) (fn : Nat) (e : Event) : State :=
  let f := getFunc s fn
  let s1 := hostWrite s (f.evtBase + 64 * (f.evtTail % f.evtSize)) (eventBytes e)
  let s2 := setFunc s1 fn (fun f => { f with evtTail := (f.evtTail + 1) % 2 ^ 32, evtRing := f.evtRing ++ [e] })
  if f.evtIrq then fireVector s2 fn f.evtVec else s2

/-- Entries between two free-running counts. -/
def countDiff (a b : Nat) : Nat := (a + 2 ^ 32 - b) % 2 ^ 32

/-- Has an event ring room? -/
def evtRoom (f : Func) : Bool := decide (countDiff f.evtTail f.evtHead < f.evtSize)

/-- The records that HEAD has passed acknowledge their errors (R670). -/
def ackEvents (s : State) (fn : Nat) (es : List Event) : State :=
  { s with errors := s.errors.filter (fun x => !(x.fn = fn && es.any (fun e => e.cls ≠ 0 && x.seq = some e.seq))) }

/-- Records that were written and not consumed are lost: noted, and their errors wait for the OVERFLOW record (R526). -/
def loseRing (s : State) (fn : Nat) : State :=
  let f := getFunc s fn
  let es := f.evtRing
  match es.head?, es.getLast? with
  | some a, some z =>
    let sq := match f.evtLost with | some l => l.seq | none => (evQueue s fn).seq
    let s1 := if f.evtLost.isSome then s else setEvQueue s fn (fun q => { q with seq := (q.seq + 1) % 2 ^ 32 })
    let errs := s1.errors.map (fun x =>
      if x.fn = fn && es.any (fun e => e.cls ≠ 0 && x.seq = some e.seq) then { x with seq := some sq } else x)
    let old : RingLoss := f.evtLost.getD { seq := sq, count := 0, mask := 0, first := a.time, last := 0 }
    let l : RingLoss :=
      { old with count := old.count + es.length, mask := es.foldl (fun m e => m ||| 2 ^ e.cls) old.mask, last := z.time }
    setFunc { s1 with errors := errs } fn (fun f => { f with evtRing := [], evtLost := some l })
  | _, _ => s

/-! ## Ring enables (R518, R520) -/

/-- Is a size a power of two from lo to 4,096? -/
def sizeOk (lo n : Nat) : Bool := decide (lo ≤ n) && decide (n ≤ 4096) && (List.range 13).any (fun k => 2 ^ k = n)

/-- Set SQ_EN: refused without CQ_EN or a valid size. -/
def enableSq (s : State) (fn : Nat) : State :=
  setFunc s fn (fun f =>
    if f.sqEn then f
    else if !f.cqEn || !sizeOk 16 f.sqSize then { f with cfgErr := true }
    else { f with sqEn := true, sqHead := 0, sqTail := 0 })

def disableSq (s : State) (fn : Nat) : State := setFunc s fn (fun f => { f with sqEn := false })

/-- Set CQ_EN: held completions are written. -/
def enableCq (s : State) (fn : Nat) : State :=
  cqDrain (setFunc s fn (fun f =>
    if f.cqEn then f
    else if !sizeOk 16 f.cqSize then { f with cfgErr := true }
    else { f with cqEn := true, cqHead := 0, cqTail := 0 })) fn

def disableCq (s : State) (fn : Nat) : State := setFunc s fn (fun f => { f with cqEn := false })

def enableEvt (s : State) (fn : Nat) : State :=
  setFunc s fn (fun f =>
    if f.evtEn then f
    else if !sizeOk 64 f.evtSize then { f with cfgErr := true }
    else { f with evtEn := true, evtHead := 0, evtTail := 0 })

def disableEvt (s : State) (fn : Nat) : State :=
  if (getFunc s fn).evtEn then loseRing (setFunc s fn (fun f => { f with evtEn := false })) fn else s

/-! ## Counts written by the host (R521, R522) -/

def writeSqTail (s : State) (fn v : Nat) : State :=
  setFunc s fn (fun f => if countDiff v f.sqHead ≤ f.sqSize then { f with sqTail := v } else { f with sqErr := true })

def writeCqHead (s : State) (fn v : Nat) : State :=
  let f := getFunc s fn
  if countDiff v f.cqHead ≤ countDiff f.cqTail f.cqHead then cqDrain (setFunc s fn (fun f => { f with cqHead := v })) fn else s

def writeEvtHead (s : State) (fn v : Nat) : State :=
  let f := getFunc s fn
  let n := countDiff v f.evtHead
  if n ≤ countDiff f.evtTail f.evtHead then
    ackEvents (setFunc s fn (fun f => { f with evtHead := v, evtRing := f.evtRing.drop n })) fn (f.evtRing.take n)
  else s

/-- Unmask a vector: its pending message is sent when the function may write. -/
def unmaskVector (s : State) (fn v : Nat) : State :=
  releaseMsix (setMsix s fn v (fun e => { e with masked := false })) fn

/-! ## Submissions (R524, R531) -/

/-- Room reserved for one more completion, and fewer than 256 commands outstanding. -/
def fetchRoom (f : Func) : Bool :=
  decide (countDiff f.cqTail f.cqHead + f.outstanding.length + f.cqHeld.length < f.cqSize) && decide (f.outstanding.length < 256)

/-- The outstanding command of a fetched entry (R531, R539). -/
def parseSubmission (fn : Nat) (b : List Byte) (t seq : Nat) : DciOut :=
  { tag := BitVec.ofNat 32 (leAt b 4 4), cmd := decodeEntry fn b, fence := bitAt (leAt b 2 2) 0, fetched := t, seq := seq, stage := .fetched }

/-- The first outstanding command that no FENCE holds and whose opcode R539 does not list completes INVALID (R537). -/
def rejectUnknown (s : State) (fn : Nat) : State :=
  let l := (getFunc s fn).outstanding
  match ((List.range l.length).zip l).find? (fun e => e.2.cmd.isNone && !((l.take e.1).any (·.fence)) && !(e.2.fence && e.1 ≠ 0)) with
  | some e => dciComplete s fn e.2.tag stInvalid 0 0
  | none => s

/-- Fetch one entry: its read may fail (R521). -/
def fetchEntry (s : State) (fn : Nat) (r : HostRead) : State :=
  let f := getFunc s fn
  if r = .failed || !hostReadOk s fn then setFunc s fn (fun f => { f with sqErr := true, sqEn := false })
  else
    let (b, s1) := entryContents s r (hostRead s (f.sqBase + 64 * (f.sqHead % f.sqSize)) 64)
    rejectUnknown (setFunc { s1 with fetchSeq := s.fetchSeq + 1 } fn (fun f => { f with
      sqHead := (f.sqHead + 1) % 2 ^ 32, outstanding := f.outstanding ++ [parseSubmission fn b (now s) s.fetchSeq] })) fn

/-! ## Resets of functions (R502, R506) -/

/-- FLR: BAR0 and Bus Master Enable return to their reset values; what the device holds for the function stays. -/
def flrFunc (s : State) (fn : Nat) : State :=
  let s1 := disableEvt s fn
  setFunc s1 fn (fun f => { Func.reset with
    outstanding := f.outstanding, cqHeld := f.cqHeld, feeds := f.feeds, evtLost := f.evtLost })

/-- Link-down or hot reset: every function, the IDE keys, the device cache. -/
def resetHostIf (s : State) : State :=
  let s1 := forAll s (List.range 13) flrFunc
  { s1 with cache := [], link := { s1.link with width := 0, speed := 0, degraded := false, ideSecure := [], ideKeys := [] } }

/-! ## Device time (R528) -/

/-- A change that Tyrax logs without a command: a bit of its own. -/
def logBit (s : State) (code : Nat) (old new : Bool) : State :=
  logChange s 0xFE 0xF0 code 0 0 (leBytes 1 (b2n old)) (leBytes 1 (b2n new))

def setTime (s : State) (f : TimeSt → TimeSt) : State := { s with time := f s.time }

/-- PTM_VALID changes, and the change is logged. -/
def setPtm (s : State) (v : Bool) : State :=
  if s.time.ptmValid = v then s else logBit (setTime s (fun t => { t with ptmValid := v })) 0 (!v) v

/-- Step device time, and the audit instants with it. -/
def stepTime (s : State) (off : Int) : State :=
  setTime s (fun t => { t with
    acc := ((t.acc : Int) + off * 2 ^ 40).toNat, auditNext := ((t.auditNext : Int) + off).toNat })

/-- Slew the counter: any rate within 50 ppm of the crystal's, towards the offset. -/
def slewTime (s : State) (off : Int) : State :=
  let (n, s1) := takeFree s
  let d := Config.freeNat n % 34359739
  setTime s1 (fun t => { t with
    incr := if off = 0 then 687194767360 else if 0 < off then 687194767360 + d else 687194767360 - d })

/-- A valid dialog with an offset in ns: a step while nothing has started, else a slew; beyond 1 ms time runs on at its last rate; PTM_VALID
follows the offset. -/
def ptmUpdate (s : State) (off : Int) : State :=
  let big := decide (1000 < off.natAbs)
  let s1 := setTime s (fun t => { t with ptmSeen := true })
  if !s.time.noStep && (!s.time.ptmSeen || big) then setPtm (stepTime s1 off) true
  else if 1000000 < off.natAbs then setPtm s1 false
  else if off.natAbs < 1000 then setPtm (slewTime s1 off) true
  else slewTime s1 off

end Sys2Proof.Machine
end

