-- ==== Sys2Proof/Machine/HostIf.lean ====
section
/-! DEFINITION. The host interface's commands: ring registers, submissions and event records, resets, configuration requests,
the link, time (R499 to R530). -/

namespace Sys2Proof.Machine

/-- SUBMISSION_FETCH: waits for a tag (R513, R521, R524). -/
def execSubmissionFetch (fn : Nat) (r : HostRead) (s : State) : Out :=
  let s1 := if tyraxUp s then rejectUnknown s fn else s
  let f := getFunc s1 fn
  .next (if !f.sqEn || f.sqHead = f.sqTail || !funcReady s1 fn || !funcServed s1 fn || !fetchRoom f || !tagFree s1 fn then s1
    else fetchEntry s1 fn r)

/-- EVENT_RING_WRITE (R526). -/
def execEventRingWrite (fn : Nat) (s : State) : Out :=
  let f := getFunc s fn
  .next (if !f.evtEn || !hostWriteOk s fn || !evtRoom f then s
    else match nextEvent s fn with
      | some (e, s1) => putEvent s1 fn e
      | none => s)

/-- SQ_ENABLE (R518). -/
def execSqEnable (fn : Nat) (s : State) : Out := .next (enableSq s fn)

/-- SQ_DISABLE (R518). -/
def execSqDisable (fn : Nat) (s : State) : Out := .next (disableSq s fn)

/-- CQ_ENABLE (R518). -/
def execCqEnable (fn : Nat) (s : State) : Out := .next (enableCq s fn)

/-- CQ_DISABLE (R518). -/
def execCqDisable (fn : Nat) (s : State) : Out := .next (disableCq s fn)

/-- EVT_ENABLE (R518, R526). -/
def execEvtEnable (fn : Nat) (s : State) : Out := .next (enableEvt s fn)

/-- EVT_DISABLE (R526). -/
def execEvtDisable (fn : Nat) (s : State) : Out := .next (disableEvt s fn)

/-- DCI_SQ_TAIL (R521). -/
def execDciSqTail (fn : Nat) (value : W32) (s : State) : Out := .next (writeSqTail s fn value.toNat)

/-- DCI_CQ_HEAD (R522). -/
def execDciCqHead (fn : Nat) (value : W32) (s : State) : Out := .next (writeCqHead s fn value.toNat)

/-- EVT_RING_HEAD (R522, R670). -/
def execEvtRingHead (fn : Nat) (value : W32) (s : State) : Out := .next (writeEvtHead s fn value.toNat)

/-- MSIX_UNMASK (R527). -/
def execMsixUnmask (fn : Nat) (vec : Nat) (s : State) : Out := .next (unmaskVector s fn vec)

/-- FLR (R506). -/
def execFlr (fn : Nat) (s : State) : Out := .next (flrFunc s fn)

/-- LINK_DOWN (R502). -/
def execLinkDown (s : State) : Out := .next (resetHostIf s)

/-- HX_PERST_N asserted: as a link-down (R628). -/
def execHxPerstN (s : State) : Out := .next (resetHostIf s)

/-- May the link train to a width and a rate of R516 (R499, R500): ×16 or ×8 at 16 GT/s or more, 68 B flits at 16 and 32 GT/s only, or, for
the physical function alone, any width and rate below. -/
def linkOk (width speed : Nat) (flit68 : Bool) : Bool :=
  [1, 2, 4, 8, 16].elem width && decide (1 ≤ speed) && decide (speed ≤ 6) && (!flit68 || speed = 1 || speed = 2)

/-- LINK_TRAINED: negotiated width, rate and flits, degraded below ×8 or 16 GT/s; a link that the BN1 does not support does not train
(R499, R500, R516). -/
def execLinkTrained (width : Nat) (rate : LinkRate) (s : State) : Out :=
  .next (if !linkOk width rate.speed rate.flit68 then s
    else
      let d := decide (width < 8) || decide (4 ≤ rate.speed)
      releaseAll { s with cache := if d then [] else s.cache, link := { s.link with
        width := width, speed := rate.speed, flit68 := rate.flit68, degraded := d } })

/-- What a configuration read returns (R499, R503, R505). -/
def cfgRead (s : State) : CfgReg → Nat
  | .totalVFs | .initialVFs => 12
  | .firstVfOffset | .vfStride => 1
  | .numVFs => s.link.numVFs
  | .vfEnable => b2n s.link.vfEnable
  | .ptmEnable => b2n s.time.ptmEnable
  | .busMaster fn => b2n (getFunc s fn).bme
  | .maxPayload => s.link.maxPayload
  | .maxReadRequest => s.link.maxReadRequest
  | .completionTimeout => match s.link.timeout with | .a => 0 | .b => 1 | .c => 2

/-- Is a payload size one that PCIe gives up to the 4,096 B of R499? -/
def payloadOk (n : Nat) : Bool := [128, 256, 512, 1024, 2048, 4096].elem n

def setLink (s : State) (f : LinkSt → LinkSt) : State := { s with link := f s.link }

/-- CONFIGURATION_REQUEST: retried until a slice has come online; Bus Master Enable, VF Enable (setting it has no effect while the link is
degraded), NumVFs, PTM Enable, the sizes and the completion timeout of R499, and reads (R500, R503, R505, R528, R630). -/
def execConfigurationRequest (r : CfgRequest) (s : State) : Out :=
  .next (
    if !s.slices.any (·.online) then s
    else match r with
      | .busMaster fn on =>
        if funcServed s fn then releaseHeld (setFunc s fn (fun f => { f with bme := on })) fn else s
      | .vfEnable on => if s.link.degraded && on then s else releaseAll (setLink s (fun l => { l with vfEnable := on }))
      | .numVFs n => if n ≤ 12 then releaseAll (setLink s (fun l => { l with numVFs := n })) else s
      | .ptmEnable on => setTime s (fun t => { t with ptmEnable := on })
      | .maxPayload n => if payloadOk n then setLink s (fun l => { l with maxPayload := n }) else s
      | .maxReadRequest n => if payloadOk n then setLink s (fun l => { l with maxReadRequest := n }) else s
      | .completionTimeout t => setLink s (fun l => { l with timeout := t })
      | .read reg => setLink s (fun l => { l with cfgData := cfgRead s reg })
      | .other => s)

/-- Write a host physical address: the bytes go to the bus address at which a region of a function shows it. Host memory is held by bus
address; a host physical address that no COHERENT region shows is no memory that the BN1 reads (R508, notes/assumptions/92.md). -/
def hpaWrite (s : State) (addr : Nat) (bs : List Byte) : State :=
  let rs := (List.range 13).flatMap (funcRegions s)
  forAll s (asWrites addr bs) (fun s w =>
    match rs.find? (fun r => regCoherent r && decide (r.hpa ≤ w.1) && decide (w.1 < r.hpa + r.len)) with
    | some r => hostWrite s (r.bus + (w.1 - r.hpa)) [w.2]
    | none => s)

/-- H2D_SNOOP: the line of a host physical address leaves the device cache; a host write that caused it is in host memory (R510). -/
def execH2dSnoop (addr : Nat) (data : List Byte) (s : State) : Out :=
  .next (hpaWrite { s with cache := s.cache.filter (fun l =>
    l ≠ addr / 64 * 64 && !overlap addr data.length l 64) } addr data)

/-- PTM_DIALOG (R528). -/
def execPtmDialog (ok : Bool) (offset : Int) (s : State) : Out :=
  .next (if ok && s.time.ptmEnable && s.clk.xtalOk && tyraxUp s then ptmUpdate s offset else s)

/-- PTM_TIMEOUT: no dialog has succeeded for 1 s (R528). -/
def execPtmTimeout (s : State) : Out := .next (setPtm s false)

/-- IDE_FAILURE: the stream is insecure, and Tyrax logs it (R530). -/
def execIdeFailure (stream : Nat) (s : State) : Out :=
  .next (if s.link.ideSecure.elem stream then
      logBit { s with link := { s.link with ideSecure := s.link.ideSecure.filter (· ≠ stream) } } 0 true false
    else s)

end Sys2Proof.Machine
end

