-- ==== Sys2Proof/Machine/RegOps.lean ====
section
/-! DEFINITION. What every register reads as (R107 to R112, R139 to R143, R213 to R223, R253 to R261, R332 to R338, R371 to
R375, R413 to R418, R457 to R463, R494 to R498, R514 to R527, R601 to R605, R634 to R642). -/

namespace Sys2Proof.Machine

/-- A register from its fields: lowest bit and value. -/
def fields (l : List (Nat × Nat)) : Nat := (l.map (fun f => f.2 * 2 ^ f.1)).sum

/-- STEPPING in the identification registers. -/
def stepping : Nat × Nat := (16, 1)

/-- The i-th counter of a run of registers from an offset. -/
def cntReg (l : List Nat) (base off : Nat) : Nat :=
  if base ≤ off && (off - base) % 8 = 0 then l.getD ((off - base) / 8) 0 else 0

/-! ## Tiles -/

/-- TLE_STATUS.STATE (R216); phase 2 withdraws a whole cluster (R631). -/
def tileState (s : State) (t : Nat) : Nat :=
  let x := getTile s t
  match x.cmd with
  | none => if x.withdrawn || (getGey s (t / 8)).phase2 then 5 else 0
  | some c => match c.phase with
    | .start => 1
    | .execute => 2
    | .commitWait => 3
    | .commit => 4

/-- Class of a bank (R109). -/
def classCode : Option MxClass → Nat
  | none => 0
  | some .c16 => 1
  | some .c8 => 2
  | some .c4 => 3

/-- Is a tile's command in its execute phase? -/
def executing (x : Tile) : Bool := match x.cmd with | some c => c.phase = .execute | none => false

/-- A register of a tile. INFLIGHT reads 0: an instruction is one command of the model. -/
def readTile (s : State) (t off : Nat) : Nat :=
  let x := getTile s t
  let g := x.eng
  let run := x.cmd.isSome
  let onlyRun (v : Nat) : Nat := if run then v else 0
  match off with
  | 0x0000 => fields [(0, t), (7, t / 8), (11, t / 48), stepping]
  | 0x0008 => fields [(0, x.pendWdogExp.getD x.wdogExp), (31, b2n x.pendWdogExp.isSome)]
  | 0x0010 => fields [(0, tileState s t), (8, x.cmd.elim 0 (·.job)), (24, x.cmd.elim 0 (·.stage))]
  | 0x0018 => x.cmd.elim 0 (fun c => fields [(0, c.pc), (16, c.task)])
  | 0x0020 => fields [(0, x.flagSticky.toNat), (8, x.flagLast.toNat)]
  | 0x0028 => fields [(0, b2n x.abort.valid), (8, x.abort.cause), (16, x.abort.aux), (32, x.abort.task)]
  | 0x0030 => min x.commitMax 65535
  | 0x0038 => fields [(0, x.workBase), (32, x.workUnits)]
  | 0x0400 => fields [(0, b2n (x.pendMxe.elim x.chkEn Prod.fst)), (1, x.pendMxe.elim x.chkSlack Prod.snd),
      (31, b2n x.pendMxe.isSome)]
  | 0x0408 => onlyRun (fields [(0, b2n (executing x)), (1, b2n g.plane0.isSome), (2, b2n g.plane1.isSome),
      (3, classCode g.bank0.cls), (5, classCode g.bank1.cls)])
  | 0x0410 => fields [(0, b2n x.chkstat.mismatch), (1, b2n x.chkstat.skipped), (16, x.chkstat.instr), (32, x.chkstat.row)]
  | 0x0500 => onlyRun (fields [(0, b2n (executing x)), (5, g.flags.toNat)])
  | 0x0600 => fields [(0, x.bias0), (16, x.bias1), (32, x.nbh), (48, b2n x.biasLive)]
  | 0x0608 => onlyRun (fields [(0, b2n g.ctx0.isSome), (1, b2n g.ctx1.isSome), (2, b2n (g.ctx0.any (·.bwd))),
      (3, b2n (g.ctx1.any (·.bwd))), (4, b2n (x.cmd.any (fun c => c.queue.any (·.started)))),
      (5, b2n ((x.cmd.bind (fun c => getTask s c.task)).any (·.biasCopy)))])
  | _ =>
    if decide (0x48 ≤ off) && decide (off < 0x70) then cntReg x.cnt 0x48 off
    else if decide (0x420 ≤ off) && decide (off < 0x460) then cntReg x.mxeCnt 0x420 off
    else if decide (0x510 ≤ off) && decide (off < 0x540) then cntReg x.vecCnt 0x510 off
    else if decide (0x618 ≤ off) && decide (off < 0x638) then cntReg x.attCnt 0x618 off
    else 0

/-! ## Geyser -/

/-- STREAM and ROTATE transfers that are not finished. -/
def openStreams (g : Gey) : Nat := (g.xfers.filter (fun x => !x.cancelled && (x.desc.kind = 2 || x.desc.kind = 3))).length

def readGey (s : State) (c off : Nat) : Nat :=
  let g := getGey s c
  match off with
  | 0x0000 => fields [(0, c), (4, c / 6), stepping]
  | 0x0008 => fields [(0, g.pend.elim g.mergeWait Prod.fst), (8, g.pend.elim g.bgSlack Prod.snd), (31, b2n g.pend.isSome)]
  | 0x0010 => fields [(0, b2n (getSlice s c).online), (1, b2n g.held), (8, openStreams g)]
  | 0x0018 => fields [(0, cmdEntries g), (12, drainEntries g), (24, sysUsed g), (36, usedCredits g)]
  | 0x0020 => fields [(0, b2n g.fault.valid), (8, g.fault.cause), (16, g.fault.aux), (32, g.fault.task)]
  | 0x0028 => fields [(0, g.lateMax), (32, g.lateStream)]
  | _ => if decide (0x38 ≤ off) && decide (off < 0x70) then cntReg g.cnt 0x38 off else 0

/-! ## Orchard -/

/-- Streams of a partition, or of the device, in a state. -/
def countState (s : State) (p : Option Nat) (st : StreamState) : Nat :=
  (s.streams.filter (fun e => e.2.state = st && p.all (fun q => e.2.part = q))).length

/-- KV jobs of a partition. -/
def partKv (s : State) (p : Nat) : List KvJob := (partJobs s p).filterMap (fun e => e.2.kv)

/-- Windows of a partition of which a test holds. -/
def countWins (s : State) (p : Nat) (f : Window → Bool) : Nat :=
  ((partKv s p).map (fun k => (k.wins.filter (fun w => f w.2)).length)).sum

/-- DROP_LATE of a set that is not yet live throughout (R447, R565). -/
def dropComing (s : State) (p : Nat) : Option Bool :=
  if s.waiters.any (fun w => match w.what with | .cfg sc _ b => b && sc = p | _ => false) then (curSet s p).map (·.dropLate)
  else none

def readOrc (s : State) (p off : Nat) : Nat :=
  let x := getPart s p
  let ks := partKv s p
  match off with
  | 0x0000 => fields [(0, p), stepping]
  | 0x0008 => fields [(0, b2n (x.pendOrc.elim x.schedEn Prod.fst)),
      (1, b2n (x.pendOrc.elim ((dropComing s p).getD x.dropLate) Prod.snd)), (31, b2n (x.pendOrc.isSome || (dropComing s p).isSome))]
  | 0x0010 => fields [(0, countState s (some p) .runnable), (32, countState s (some p) .waiting)]
  | 0x0018 => fields [(0, x.quota), (32, partUsed s p)]
  | 0x0100 => fields [(0, (ks.map kvTotal).sum), (32, (ks.map kvFreeFrames).sum)]
  | 0x0108 => fields [(0, (ks.map kvMapped).sum), (32, (ks.map kvStaging).sum)]
  | 0x0110 => fields [(0, countWins s p (fun w => w.state = .resident)),
      (32, countWins s p (fun w => w.state = .swappingOut || w.state = .swapped || w.state = .swappingIn) % 65536),
      (48, min 255 (countWins s p (·.waitFrames))), (56, min 255 (countWins s p (·.flushPend)))]
  | _ =>
    if decide (0x28 ≤ off) && decide (off < 0x80) then cntReg x.orcCnt 0x28 off
    else if decide (0x120 ≤ off) && decide (off < 0x160) then cntReg x.kvCnt 0x120 off
    else 0

/-- The device block: figures of the whole device (R332, R336). -/
def readOrcDev (s : State) (off : Nat) : Nat :=
  match off with
  | 0x0000 => fields [(4, 1), stepping]
  | 0x0010 => fields [(0, countState s none .runnable), (32, countState s none .waiting)]
  | 0x0018 => fields [(0, 65536), (32, s.streams.length)]
  | _ => 0

/-! ## Partitions -/

/-- STATE of R458. -/
def partCode : PartState → Nat
  | .none => 0
  | .empty => 1
  | .active => 2
  | .faulted => 3

/-- Periods begun under the table in force. -/
def periodsBegun (s : State) (x : Part) : Nat :=
  x.table.elim 0 (fun t => min ((now s - x.periodStart) / (1000 * t.period) + 1) (2 ^ 32 - 1))

def readPart_ (s : State) (p off : Nat) : Nat :=
  let x := getPart s p
  match off with
  | 0x0000 => fields [(0, p), (4, partCode x.state), (7, b2n x.table.isSome), (8, (partJobs s p).length)]
  | 0x0008 => fields [(0, x.slices), (12, x.portMask), (32, if x.state = .none then 0 else 340 * popMask x.slices)]
  | 0x0010 => fields [(0, x.table.elim 0 (·.period)), (17, x.table.elim 0 (·.wins.length)), (24, b2n x.tableNext.isSome),
      (32, periodsBegun s x)]
  | 0x0018 => fields [(0, b2n x.audit.mismatch), (8, x.audit.qty), (16, x.audit.unit), (32, x.audit.serial)]
  | _ => if decide (0x28 ≤ off) && decide (off < 0x50) then cntReg x.mgtCnt 0x28 off else 0

/-! ## Ports -/

/-- RATE: signed, holding at ±32,767. -/
def rateField (r : Int) : Nat := (BitVec.ofInt 16 (max (-32767) (min 32767 r))).toNat

def readTdm (s : State) (n off : Nat) : Nat :=
  let q := getPort s n
  match off with
  | 0x0000 => fields [(0, n), (8, (portPart s n).getD 0xF), stepping]
  | 0x0088 => fields [(0, portCode q.state), (4, b2n (grouped q)), (5, q.leader), (16, rateField q.rate)]
  | 0x0090 => q.rxFidx % 2 ^ 64
  | 0x0098 => q.lastTs
  | _ =>
    if decide (0x08 ≤ off) && decide (off < 0x88) then (if off % 8 = 0 then leAt q.cfg (off - 8) 8 else 0)
    else if decide (0xA8 ≤ off) && decide (off < 0xD8) then cntReg q.cnt 0xA8 off
    else 0

/-! ## BAR0 -/

/-- Are some tiles in reduced service: a cluster that is online and not at full rate? -/
def reducedService (s : State) : Bool := (List.range 12).any (fun n => (getSlice s n).online && !(getGey s n).full)

/-- Is every configured IDE stream secure? -/
def ideOk (s : State) : Bool := !s.link.ideConfigured.isEmpty && s.link.ideConfigured.all s.link.ideSecure.elem

def hifStatus (s : State) (fn : Nat) : Nat :=
  let f := getFunc s fn
  fields [(0, b2n (funcReady s fn)), (1, b2n (fn ≠ 0 && (getPart s (fn - 1)).state = .faulted)), (2, b2n s.link.degraded),
    (3, b2n (reducedService s)), (4, b2n s.time.ptmValid), (5, b2n (ideOk s)), (8, s.link.width), (13, s.link.speed),
    (16, b2n f.sqErr), (17, b2n f.cfgErr)]

def hifCtrl (f : Func) : Nat :=
  fields [(0, b2n f.sqEn), (1, b2n f.cqEn), (2, b2n f.evtEn), (8, f.cqVec), (14, b2n f.cqIrq), (16, f.evtVec), (22, b2n f.evtIrq)]

/-- An MSI-X table entry as two registers. -/
def msixReg (f : Func) (off : Nat) : Nat :=
  let e := f.msix.getD (off / 16) MsixEnt.reset
  if off % 16 = 0 then e.addr.toNat else fields [(0, e.data.toNat), (32, b2n e.masked)]

def readBar0 (s : State) (fn off : Nat) : Nat :=
  let f := getFunc s fn
  match off with
  | 0x0000 => fields [(0, fn), (4, if fn = 0 then 0xF else fn - 1), (8, 1), stepping]
  | 0x0008 => hifStatus s fn
  | 0x0010 => hifCtrl f
  | 0x0100 => f.sqBase
  | 0x0108 => f.sqSize
  | 0x0110 => fields [(0, f.sqTail), (32, f.sqHead)]
  | 0x0118 => f.cqBase
  | 0x0120 => f.cqSize
  | 0x0128 => fields [(0, f.cqHead), (32, f.cqTail)]
  | 0x0400 => f.evtBase
  | 0x0408 => f.evtSize
  | 0x0410 => fields [(0, f.evtHead), (32, f.evtTail)]
  | 0x3000 => ((List.range 64).map (fun v => b2n (f.msix.getD v MsixEnt.reset).pendingBit * 2 ^ v)).sum
  | _ => if decide (0x2000 ≤ off) && decide (off < 0x2400) then msixReg f (off - 0x2000) else 0

/-- What a host read of a number of bytes of BAR0 returns: aligned 32-bit and 64-bit reads read the register or its half, every other one
reads 0 (R514). A read changes nothing, and the table has no row for it. -/
def hostReadBar0 (s : State) (fn off bytes : Nat) : Nat :=
  if bytes = 8 && off % 8 = 0 then readBar0 s fn off
  else if bytes = 4 && off % 4 = 0 then readBar0 s fn (off / 8 * 8) / 2 ^ (32 * (off / 4 % 2)) % 2 ^ 32
  else 0

/-! ## Tyrax, clocks, power -/

/-- STATE of R603. -/
def tyCode : TyState → Nat
  | .boot => 0
  | .recovery => 1
  | .ready => 2
  | .updating => 3
  | .draining => 4

/-- The cap in force: the lower of the two (R586). -/
def capInForce (s : State) : Nat := min s.mgt.capPf s.mgt.capMp

/-- The power that Tyrax holds the module to: the cap in force, and 1,200 W through the window in which the power-stage controller
switches (R594, R627). -/
def heldPower (s : State) : Nat :=
  if s.fw.op.any (fun o => o.todo.head? = some 5) then min 1200 (capInForce s) else capInForce s

/-- A bank by its number: false A, true B. -/
def bankOf (f : FwSt) (b : Bool) : FwBank := if b then f.bankB else f.bankA

/-- The MGT_ registers (R601 to R605). MGT_FW reports banks once an image has run since the reset; until then VERSION and STAGED read
their reset values. -/
def readMgt (s : State) (off : Nat) : Nat :=
  match off with
  | 0x0000 => fields [(0, 0xB401), stepping, (32, Config.serialFused.toNat)]
  | 0x0008 => fields [(0, tyCode s.mgt.state), (3, b2n s.fw.running), (4, b2n s.fw.onTrial), (5, s.fw.tries),
      (16, capInForce s), (32, s.mgt.capMp)]
  | 0x0010 =>
    if s.fw.booted then
      fields [(0, (bankOf s.fw s.fw.active).version), (32, s.fw.floor % 128), (39, b2n (bankOf s.fw (!s.fw.active)).verified)]
    else fields [(32, s.fw.floor % 128)]
  | 0x0018 => fields [(0, s.log.seq), (32, s.log.buffer.length), (48, min s.log.lost 65535)]
  | _ => 0

/-- Bits of a list of lock flags. -/
def lockBits (l : List Bool) : Nat := ((List.range l.length).map (fun i => b2n (l.getD i false) * 2 ^ i)).sum

def tileClock (x : Tile) : Nat :=
  fields [(0, x.runEn), (4, x.sleepEn), (8, x.dsleepEn), (12, match x.power with | .run => 0 | .sleep => 1 | .deep => 2)]

def readClk (s : State) (off : Nat) : Nat :=
  let c := s.clk
  let die (d : Nat) : Nat :=
    let x := getDie s d
    fields [(0, x.csel), (8, b2n x.fsel), (9, b2n x.fumsel)]
  match off with
  | 0x0000 => fields [(0, b2n c.xtalOk), (1, b2n c.onOsc), (2, b2n c.mgtLock), (3, b2n c.xfabLock), (4, b2n c.cxlLock),
      (5, b2n c.audLock), (6, lockBits c.die0), (9, lockBits c.die1), (12, lockBits c.hbm)]
  | 0x0008 => die 0
  | 0x0010 => die 1
  | 0x0018 => fields [(0, b2n c.family), (1, b2n c.refsel), (2, b2n c.mclkOk), (3, c.mclkMul), (5, b2n c.audLock)]
  | 0x0020 => fields [(0, c.fRef), (8, c.fTgt), (16, c.fIdx), (24, c.fWexp), (32, b2n c.fDone)]
  | 0x0028 => c.fCount
  | _ => if decide (0x100 ≤ off) && decide (off < 0x400) && off % 8 = 0 then tileClock (getTile s ((off - 0x100) / 8)) else 0

/-- Mean power in W of input samples (R627), and mean voltage of the last 1 ms in units of 10 mV (R641). -/
def meanPower (l : List (Nat × Nat)) : Nat := if l.isEmpty then 0 else (l.map (fun x => x.1 * x.2)).sum / (1000000 * l.length)
def meanVolts (l : List (Nat × Nat)) : Nat :=
  let w := l.take 1000
  if w.isEmpty then 0 else (w.map Prod.fst).sum / (10 * w.length)

def readPwr (s : State) (off : Nat) : Nat :=
  let p := s.pwr
  match off with
  | 0x0000 => fields [(0, if p.draining then 5 else p.supply), (3, (getDie s 0).therm), (6, (getDie s 1).therm), (9, p.capLevel),
      (13, effLevel s 0), (17, effLevel s 1), (32, min 8191 (meanPower p.samples))]
  | 0x0008 => fields [(0, p.vmin), (16, p.vmax), (32, min 65535 (meanVolts p.samples))]
  | 0x0018 => p.cntThrottle
  | 0x0020 => p.cntSupply
  | _ => 0

/-- The value of a register at an offset of a block; 0 where the block has none. -/
def readReg (s : State) : RegBlock → Nat → Nat
  | .bar0 fn, off => readBar0 s fn off
  | .tile t, off => readTile s t off
  | .geyser c, off => readGey s c off
  | .orchard p, off => readOrc s p off
  | .orchardDev, off => readOrcDev s off
  | .mgtPart p, off => readPart_ s p off
  | .tdm n, off => readTdm s n off
  | .mgt, off => readMgt s off
  | .clk, off => readClk s off
  | .pwr, off => readPwr s off

/-- The 4 KiB of a block. -/
def blockBytes (s : State) (b : RegBlock) : List Byte := (List.range 512).flatMap (fun i => leBytes 8 (readReg s b (8 * i)))

end Sys2Proof.Machine
end

