-- ==== Sys2Proof/Machine/PowerOps.lean ====
section
/-! DEFINITION. What the clock, power and reset events share: events of the supply and of temperature, sensors, PLLs, the
controlled drain, the module reset, slices that come online (R577 to R583, R606 to R633). -/

namespace Sys2Proof.Machine

/-- Does Tyrax serve the management port: it runs its firmware, or is in RECOVERY (R585, R597)? -/
def portUp (s : State) : Bool := tyraxUp s || s.mgt.state = .recovery

/-- Is the package powered and out of reset? -/
def running (s : State) : Bool := s.pwr.powered && !s.mgt.rstLow

def setMgt (s : State) (f : Mgt → Mgt) : State := { s with mgt := f s.mgt }
def setPwr (s : State) (f : PwrSt → PwrSt) : State := { s with pwr := f s.pwr }
def setClk (s : State) (f : ClkSt → ClkSt) : State := { s with clk := f s.clk }
def setFw (s : State) (f : FwSt → FwSt) : State := { s with fw := f s.fw }

/-! ## The log in flash (R575, R583) -/

/-- Records the log region holds, and those of one sector. -/
def logMax : Nat := 196608
def logSector : Nat := 1024

/-- Write records to a log in flash: a full log loses its oldest sector. -/
def flashAdd (l r : List LogRec) : List LogRec :=
  r.foldl (fun l x => if logMax ≤ l.length then l.drop logSector ++ [x] else l ++ [x]) l

/-- Write the buffer to flash. -/
def flushLog (s : State) : State :=
  { s with log := { s.log with flash := flashAdd s.log.flash s.log.buffer, buffer := [] } }

/-- Records of Tyrax's own: FIRMWARE 4, SENSOR 5, BOOT 3; `what` selects the code that the manual does not number. -/
def logOwn (s : State) (kind what : Nat) (new : List Byte) : State :=
  logAdd s { mkLog kind 0xFE 0xF0 (Config.kindCode what % 65536) 0 with new := pad16 new }

/-! ## SUPPLY and THERMAL (R579, R624 to R626, R664 to R666) -/

/-- Conditions of R624 in its order, then those of temperature. -/
inductive Cond where
  | underVolt
  | overVolt
  | opened
  | ripple
  | drain
  | sensor
  | level
  | junction
  | inlet
  | flow
  deriving DecidableEq, Repr

def Cond.num : Cond → Nat
  | .underVolt => 0 | .overVolt => 1 | .opened => 2 | .ripple => 3 | .drain => 4
  | .sensor => 5 | .level => 6 | .junction => 7 | .inlet => 8 | .flow => 9

/-- A SUPPLY (0x09) or THERMAL (0x0A) event: condition, least and greatest sample, duration in µs. -/
def supplyEvent (cls unit : Nat) (c : Cond) (lo hi : Int) (us : Nat) : Event :=
  let code := Config.condCode c.num % 256
  { mkEvent cls 0xF0 0x0A (unit % 65536) with
    cause := code,
    detail := leBytes 1 code ++ leBytes 2 (BitVec.ofInt 16 lo).toNat ++ leBytes 2 (BitVec.ofInt 16 hi).toNat ++ leBytes 4 us }

/-- Post SUPPLY and count it (R634). -/
def supplyPost (s : State) (unit : Nat) (c : Cond) (lo hi : Int) (us : Nat) : State :=
  setPwr (postDev s (supplyEvent 0x09 unit c lo hi us)) (fun p => { p with cntSupply := cntAdd p.cntSupply 1 })

/-- Post SUPPLY for a condition of the input: one within 100 ms of the last of its condition joins that event. -/
def postSupply (s : State) (c : Cond) (lo hi us : Nat) : State :=
  let joins := (tGet s.pwr.lastSupply c.num).any (fun t => decide (now s < t + 100000000))
  let s1 := setPwr s (fun p => { p with lastSupply := tPut p.lastSupply c.num (now s) })
  if joins then s1 else supplyPost s1 (Config.sensorUnit 0) c lo hi us

def postThermal (s : State) (unit : Nat) (c : Cond) (v : Int) : State := postDev s (supplyEvent 0x0A unit c v v 0)

/-! ## Sensors (R578, R579) -/

/-- Number of a sensor in the order of R578. -/
def sensorNum : Sensor → Nat
  | .inputVoltage => 0
  | .inputCurrent => 1
  | .inputPower => 2
  | .junction d k => 3 + 12 * d + k
  | .ioJunction k => 27 + k
  | .stack n => 31 + n
  | .rail k => 43 + k
  | .coolantIn => 46
  | .coolantOut => 47

/-- Range of a sensor in units of its resolution. -/
def sensorRange : Sensor → Int × Int
  | .inputVoltage => (0, 8000)
  | .inputCurrent => (0, 6000)
  | .inputPower => (0, 4800)
  | .junction _ _ | .ioJunction _ => (-160, 600)
  | .stack _ => (0, 125)
  | .rail _ => (0, 1500)
  | .coolantIn | .coolantOut => (0, 1000)

/-- Is a sensor one of voltage? Its worst value is the bottom of its range; of the others, the top. -/
def isVolts : Sensor → Bool
  | .inputVoltage | .rail _ => true
  | _ => false

/-- Does a failure of the sensor post SUPPLY rather than THERMAL? -/
def isSupply : Sensor → Bool
  | .inputVoltage | .inputCurrent | .inputPower | .rail _ => true
  | _ => false

def worst (x : Sensor) : Int := if isVolts x then (sensorRange x).1 else (sensorRange x).2

/-- The record of a sensor, if it has been sampled. -/
def sensorOf (s : State) (x : Sensor) : Option SensorSt := s.sensors.find? (fun e => e.sensor = x)

/-- What Tyrax takes a sensor to read. -/
def reading (e : SensorSt) : Int := if e.failed then worst e.sensor else e.value

/-- Is a sensor failed? -/
def sensorFailed (s : State) (x : Sensor) : Bool := (sensorOf s x).any (·.failed)

/-- The samples of the input as Tyrax takes them: a failed sensor reads its worst value in mV or mA (R579). -/
def takenSamples (s : State) (l : List (Nat × Nat)) : List (Nat × Nat) :=
  let v := sensorFailed s .inputVoltage
  let i := sensorFailed s .inputCurrent
  l.map (fun e => (if v then 0 else e.1, if i then 60000 else e.2))

/-- The mean input power in W over samples, as Tyrax takes them. -/
def inputPower (s : State) (l : List (Nat × Nat)) : Nat := meanPower (takenSamples s l)

/-- The mean of numbers. -/
def meanOf (l : List Nat) : Nat := l.sum / l.length

/-- What Tyrax reports of a sensor: of the input the mean over the last 1 ms, in the sensor's resolution, of the input power that of its
samples, else the latest value (R578). -/
def readSensor (s : State) (x : Sensor) : Option Int :=
  let w := takenSamples s (s.pwr.samples.take 1000)
  match x with
  | .inputPower => if w.isEmpty then none else some (meanPower w)
  | .inputVoltage => if w.isEmpty then (sensorOf s x).map reading else some (meanOf (w.map Prod.fst) / 10)
  | .inputCurrent => if w.isEmpty then (sensorOf s x).map reading else some (meanOf (w.map Prod.snd) / 10)
  | _ => (sensorOf s x).map reading

def putSensor (s : State) (e : SensorSt) : State :=
  { s with sensors := if s.sensors.any (fun y => y.sensor = e.sensor)
      then s.sensors.map (fun y => if y.sensor = e.sensor then e else y) else s.sensors ++ [e] }

/-- A sensor that has not been sampled. -/
def freshSensor (x : Sensor) : SensorSt := { sensor := x, value := 0, lo := 0, hi := 0, failed := false, missed := 0, valid := 0, high := 0 }

/-- A value within a sensor's range: the latest, and of the extremes since the last read. -/
def keepValue (e : SensorSt) (v : Int) : SensorSt := { e with value := v, lo := min e.lo v, hi := max e.hi v, missed := 0 }

/-- One sample, or a missed one: a value out of range or four missed samples fail the sensor; sixteen valid samples in a row
return it. -/
def sampleSensor (e : SensorSt) (v : Option Int) : SensorSt :=
  let (lo, hi) := sensorRange e.sensor
  match v with
  | none => { e with missed := e.missed + 1, valid := 0, failed := e.failed || decide (3 ≤ e.missed) }
  | some v =>
    if lo ≤ v ∧ v ≤ hi then
      if e.failed then
        { keepValue e v with valid := if 15 ≤ e.valid then 0 else e.valid + 1, failed := decide (e.valid < 15) }
      else keepValue e v
    else { e with missed := 0, valid := 0, failed := true }

/-- Take a sample of a sensor: a failure is logged and posts SUPPLY or THERMAL (R579). The first value starts its extremes. -/
def takeSample (s : State) (x : Sensor) (v : Option Int) : State :=
  let e0 := (sensorOf s x).getD (match v with | some v => { freshSensor x with lo := v, hi := v } | none => freshSensor x)
  let e1 := sampleSensor e0 v
  let s1 := putSensor s e1
  let u := Config.sensorUnit (sensorNum x)
  if e1.failed && !e0.failed then
    let s2 := logOwn s1 0x05 5 (leBytes 2 (u % 65536))
    if isSupply x then supplyPost s2 u .sensor (worst x) (worst x) 0 else postThermal s2 u .sensor (worst x)
  else s1

/-- A sensor is read: its extremes start again (R578). -/
def clearExtremes (s : State) (x : Sensor) : State :=
  match sensorOf s x with
  | some e => putSensor s { e with lo := e.value, hi := e.value }
  | none => s

/-- The numeric thresholds of a sensor, least first (R619, R624 to R626, R677): of the outlet, the inlet's reading + 12 °C. -/
def sensorLimits (s : State) (x : Sensor) : List Int :=
  match x with
  | .inputVoltage => [3800, 4200, 6000]
  | .junction _ _ => [388, 400, 420, 500]
  | .ioJunction _ => [420, 500]
  | .stack _ => [95]
  | .coolantIn => [450]
  | .coolantOut => ((readSensor s .coolantIn).map (· + 120)).toList
  | .inputPower => [capInForce s]
  | _ => []

/-- Readings of the junctions of a die. -/
def junctions (s : State) (d : Nat) : List Int := (List.range 12).filterMap (fun k => readSensor s (.junction d k))

/-- Readings of the stacks of a die. -/
def stacksOf (s : State) (d : Nat) : List Int := (List.range 6).filterMap (fun k => readSensor s (.stack (6 * d + k)))

/-! ## The controlled drain (R621, R622) -/

/-- The commit phases of tasks that have begun run to their end (R195, R621). -/
def endCommits (s : State) : State :=
  forAll s s.tasks (fun s e => match getJob s e.2.job with
    | some j => if inCommit s e.2 j then commitTask s e.1 e.2 j else s
    | none => s)

/-- Start a drain: commands are killed but for commit phases, the commands of a final stage that has not committed with them; tiles are
gated, Geyser stops, the DRAIN record is made, and the log goes to flash at once (R223, R583, R621). -/
def startDrain (s : State) (mp : Bool) : State :=
  if s.pwr.draining || !running s then s
  else
    let v := (s.pwr.samples.headD (0, 0)).1 / 10
    let s1 := setPwr (endCommits s) (fun p => { p with draining := true, mpReset := mp })
    let s2 := forAll (setMgt s1 (fun m => { m with state := .draining })) (s1.tasks.map Prod.fst) (fun s k => countFinals s k 1)
    let s3 := forAll s2 (List.range 96) (fun s t => killCmd s t 1)
    let s4 := { s3 with
      tasks := [], tiles := s3.tiles.map (fun x => { x with power := .deep })
      geys := s3.geys.map (fun g => { g with xfers := [] }) }
    flushLog (logOwn (postSupply s4 .drain v v 0) 0x05 6 [])

/-! ## The module reset (R577, R622, R628, R629) -/

/-- What the configuration store and a reset keep of a partition: its definition, its key generation. -/
def storedPart (x : Part) : Part :=
  { Part.reset with
    keyGen := x.keyGen, stored := x.stored, storedSlices := x.storedSlices, storedQuota := x.storedQuota
    storedTable := if x.stored then x.table.or x.storedTable else none }

/-- The log after a reset: what flash holds. -/
def storedLog (l : LogSt) : LogSt :=
  match l.flash.getLast? with
  | some r => { flash := l.flash, buffer := [], seq := (r.seq + 1) % 2 ^ 32, lost := 0, chk := r.chk }
  | none => LogSt.reset

/-- The control record that the ROM uses: the copy with the higher sequence number (R595). -/
def lastRecord (f : FwSt) : CtrlRec := if f.ctrlA.seq < f.ctrlB.seq then f.ctrlB else f.ctrlA

/-- The firmware state after a reset: banks, control record, fuses. -/
def storedFw (f : FwSt) : FwSt :=
  let r := lastRecord f
  { f with running := false, onTrial := false, op := none, verifiedBoot := false, fromReset := true, booted := false
           active := r.active, tryBank := r.tryBank, tries := r.tries }

/-- A module reset: every register of the package at its reset value; flash, fuses and the latched trip stay. -/
def moduleReset (s : State) : State :=
  { State.reset with
    pending := s.pending, host := s.host, freeCtr := s.freeCtr
    scopes := s.scopes.map (fun x => { x with stagedPf := none, stagedVf := none })
    parts := s.parts.map storedPart
    geys := s.geys.map (fun _ => { Gey.reset with setVer := s.fw.compVer.getD 2 0 })
    fw := storedFw s.fw
    log := storedLog s.log
    mgt := { Mgt.reset with rstLow := s.mgt.rstLow }
    pwr := { PwrSt.reset with powered := s.pwr.powered, tripped := s.pwr.tripped, switchOpen := s.pwr.switchOpen } }

/-- A module reset that leaves the package without power. -/
def powerOff (s : State) : State := setPwr (moduleReset s) (fun p => { p with powered := false })

/-! ## Partitions come back (R577) -/

/-- May a stored definition be recreated: its slices are online and no other partition holds them, its ports or so much quota that the
sum passes 65,536 (R420, R422; notes/assumptions/77.md)? -/
def recreatable (s : State) (p : Nat) (x : Part) : Bool :=
  x.stored && x.state = .none && x.shapeOp.isNone && tyraxUp s && slicesFree s p x.storedSlices
    && decide (otherQuotas s p + x.storedQuota ≤ 65536)
    && ((List.range 12).filter (· ≠ p)).all (fun q => (getPart s q).portMask &&& (curSet s p).elim 0 (·.ports) = 0)

/-- Recreate one stored partition whose slices are all online: EMPTY after PART_ZERO_DONE, with its sets, a new key, and no
cycle table; a discarded table is logged. -/
def recreatePart (s : State) (p : Nat) : State :=
  let x := getPart s p
  if !recreatable s p x then s
  else
    let s1 := logTable s 0xFE p x.storedTable none
    let s2 := beginCreate s1 p x.storedSlices x.storedQuota .recreate
    setPart s2 p (fun y => { y with
      portMask := (curSet s p).elim 0 (·.ports), dropLate := (curSet s p).any (·.dropLate) })

def recreateAll (s : State) : State := forAll s (List.range 12) recreatePart

/-- A slice comes online in reduced service once its stack is trained and a tile of its cluster has passed phase 1 (R630). -/
def tryOnline (s : State) (n : Nat) : State :=
  let x := getSlice s n
  if x.online || x.bad || !x.trained || !(clusterTiles s n).any (fun t => t.phase1 && !t.failed) then s
  else settle (recreateAll (setSlice s n (fun x => { x with online := true })))

/-! ## PLLs (R609, R615, R635, R655) -/

/-- Set a PLL's lock bit. -/
def lockBit (c : ClkSt) (p : Pll) (on : Bool) : ClkSt :=
  let die (d i : Nat) : ClkSt := if d = 0 then { c with die0 := c.die0.set i on } else { c with die1 := c.die1.set i on }
  match p with
  | .coreA d => die d 0
  | .coreB d => die d 1
  | .fab d => die d 2
  | .xfab => { c with xfabLock := on }
  | .hbm n => { c with hbm := c.hbm.set n on }
  | .management => { c with mgtLock := on, onOsc := c.onOsc && !on }
  | .audio => { c with audLock := on }
  | .cxl => { c with cxlLock := on }

/-- A PLL loses lock: its bit clears; with the audio PLL running master ports enter HOLD. -/
def loseLock (s : State) (p : Pll) : State :=
  let s1 := setClk s (fun c => lockBit c p false)
  match p with
  | .audio => holdMasters s1
  | _ => s1

/-- A PLL locks; for CORE_A the time is kept (R655). -/
def gainLock (s : State) (p : Pll) : State :=
  let s1 := setClk s (fun c => lockBit c p true)
  match p with
  | .coreA d => if isLocked s.clk p then s1 else setClk s1 (fun c => { c with relock := tPut c.relock d (now s) })
  | _ => s1

/-! ## AUD_MCLK_IN (R613) -/

/-- Frequencies of AUD_MCLK_IN that a family takes, with MCLK_MUL. -/
def mclkRates (family : Bool) : List (Nat × Nat) :=
  if family then [(11289600, 0), (22579200, 1), (45158400, 2)] else [(12288000, 0), (24576000, 1), (49152000, 2)]

/-- Judge a measured frequency of AUD_MCLK_IN, num ÷ den Hz, and move the reference of the audio PLL: to the crystal when the clock
fails, to the clock only while no master port is running. -/
def judgeMclk (s : State) (num den : Nat) : State :=
  let ok := (mclkRates s.clk.family).find? (fun r =>
    decide ((((num : Int) - ((r.1 * den : Nat) : Int)) * 1000).natAbs ≤ r.1 * den))
  let s1 := setClk s (fun c => { c with
    mclkOk := ok.isSome, mclkMul := ok.elim 0 Prod.snd, mclkNom := ok.elim 0 Prod.fst, mclkNum := num, mclkDen := den })
  if s.clk.refsel && ok.isNone then loseLock (setClk s1 (fun c => { c with refsel := false })) .audio
  else if !s.clk.refsel && ok.isSome && !mastersRun s then loseLock (setClk s1 (fun c => { c with refsel := true })) .audio
  else s1

end Sys2Proof.Machine
end

