-- ==== Sys2Proof/Machine/Err.lean ====
section
/-! DEFINITION. Scrubbing, corrected errors, and the training of stacks (R452, R599, R630, R643 to R650, R668). -/

namespace Sys2Proof.Machine

/-- The partition whose page-unit tables or work-list buffers hold an address (R312, R384, R648). -/
def tablesAt (s : State) (a : Nat) : Option Nat :=
  (s.jobs.find? (fun e =>
    e.2.state ≠ .tornDown
      && ((e.2.kv.elim [] kvTables
          ++ e.2.share.map (fun t => (calAddr t (e.2.base + e.2.hdr.wloff), 2 * (256 + 64 * e.2.hdr.rowmax)))).any
        (fun r => decide (r.1 ≤ a) && decide (a < r.1 + r.2))))).map (·.2.part)

/-- A scrub meets an uncorrectable word: UNCORRECTED, and a fault of the partition whose tables it holds (R648, R649). -/
def scrubBad (s : State) (a : Nat) (syn : W32) (source : Nat) : State :=
  let p := tablesAt s a
  let seq := (p.bind (partSeq s)).getD 0
  let s1 := raiseUncorrected s a syn.toNat source
  match p with
  | some q => partFault s1 q 0 seq
  | none => s1

/-- Is the scrub of a tile clocked at a unit: in run and sleep by its branch, in deep-sleep over the retention bank only
(R616, R639, R644)? -/
def scrubs (x : Tile) : Bool :=
  match x.power with
  | .run => bitAt x.runEn 3
  | .sleep => bitAt x.sleepEn 3
  | .deep => bitAt x.dsleepEn 3

/-- The unit after one, of the whole Caldera or of the retention bank. -/
def nextUnit (x : Tile) : Nat :=
  let n := (x.scrubPos + 1) % 65536
  if x.power = .deep then max n 61440 else n

/-- PATROL_SCRUB: the tile reads its next unit of 64 B; which of its words is bad is free (R643, R644, R649). -/
def execPatrolScrub (t : Nat) (found : EccResult) (s : State) : Out :=
  let x := getTile s t
  let pos := if x.power = .deep then max x.scrubPos 61440 else x.scrubPos
  let s1 := setTile s t (fun x => { x with scrubPos := nextUnit { x with scrubPos := pos } })
  let (n, s2) := takeFree s1
  let a := calAddr t (64 * pos) + 8 * (Config.freeNat n % 8)
  .next (if !scrubs x then s
    else match found with
      | .clean => s1
      | .corrected syn => addCorr s2 0x01 t a syn
      | .uncorrectable syn => scrubBad s2 a syn 1)

/-- HBM_SCRUB: the controller reads one sector (R646, R647, R649). -/
def execHbmScrub (stack : Nat) (sector : Nat) (found : EccResult) (s : State) : Out :=
  let a := stack * hbmBytes + 64 * sector
  .next (if hbmBytes / 64 ≤ sector || !(getSlice s stack).trained || (getSlice s stack).bad then s
    else match found with
      | .clean => s
      | .corrected syn => noteCorrected s a syn
      | .uncorrectable syn => scrubBad s a syn 2)

/-- CORRECTED_REPORT: one coalesced event of a unit, at most one each second (R666, R668). -/
def execCorrectedReport (utype : Nat) (unit : Nat) (s : State) : Out :=
  .next (match s.corr.find? (fun c => c.utype = utype && c.unit = unit) with
    | none => s
    | some c =>
      if c.count = 0 || c.lastPost.any (fun t => decide (now s < t + 1000000000)) || !tyraxUp s then s
      else
        let s1 := { s with corr := s.corr.map (fun d => if d.utype = utype && d.unit = unit
            then { d with count := 0, lastPost := some (now s) } else d) }
        postDev s1 { mkEvent 0x01 0xF0 utype unit with
          detail := leBytes 4 c.count ++ leBytes 8 c.addr ++ leBytes 4 c.syndrome.toNat })

/-- The version of training tables that a stack awaits, if any (R594, R599). -/
def awaitsTables (s : State) (x : Slice) : Bool := x.phyVer ≠ s.fw.compVer.getD 3 0

/-- May Tyrax retrain a stack now (R599, R647)? -/
def mayRetrain (s : State) (n : Nat) : Bool :=
  let x := getSlice s n
  let worn := decide (256 < (recent s x.corrected).length)
  tyraxUp s && x.trained && !x.bad && !s.geys.any (·.held)
    && (worn || (decide (x.trainTime + 10000000000 ≤ now s)
        && (decide (15 ≤ (x.temp - x.trainTemp).natAbs) || awaitsTables s x)))

/-- STACK_RETRAIN: new requests of the stack wait (R599). -/
def execStackRetrain (stack : Nat) (s : State) : Out :=
  .next (if mayRetrain s stack then setGey s stack (fun g => { g with held := true }) else s)

/-- A stack's training has passed. -/
def trainPass (s : State) (n : Nat) : State :=
  setSlice s n (fun x => { x with
    trained := true, trainTime := now s, trainTemp := x.temp, corrected := [], phyVer := s.fw.compVer.getD 3 0 })

/-- Has an engine transactions in flight that were issued to a stack: training waits for them (R599)? -/
def stackBusy (s : State) (n : Nat) : Bool :=
  let here (a : Nat) : Bool := match placeOf a with | .hbm m _ => m = n | _ => false
  s.geys.any (fun g => g.xfers.any (fun x => (addrs (oldest x) (inFlight x)).any (fun j => here (slabAt s x j)
    || (!x.topair && here (placedAt s (x.tile / 8) x.desc.dst)))))

/-- RETRAIN_DONE: the end of a retraining, or of the first training at bring-up (R599, R630, R654). -/
def execRetrainDone (stack : Nat) (ok : Bool) (s : State) : Out :=
  let s1 := setGey s stack (fun g => { g with held := false })
  .next (
    if (getGey s stack).held && stackBusy s stack then s
    else if (getGey s stack).held then (if ok then trainPass s1 stack else sliceOffline s1 stack 0)
    else if !tyraxUp s || (getSlice s stack).trained || (getSlice s stack).bad then s
    else if ok then settle (tryOnline (trainPass s stack) stack)
    else settle (setSlice s stack (fun x => { x with bad := true })))

end Sys2Proof.Machine
end

