-- ==== Sys2Proof/Machine/FwOps.lean ====
section
/-! DEFINITION. Firmware: the image format, staging, activation, and the boot of Tyrax (R571, R572, R575, R586, R593 to
R598). -/

namespace Sys2Proof.Machine

/-! ## Images (R593) -/

/-- A component of an image: type, offset, length, digest. -/
structure FwComp where
  typ : Nat
  off : Nat
  len : Nat
  digest : List Byte
  deriving DecidableEq, Repr

/-- Component c of an image's header. -/
def parseComp (b : List Byte) (c : Nat) : Option FwComp :=
  let e := (b.drop (16 + 80 * c)).take 80
  if zeroAt e 1 3 && zeroAt e 12 4 then
    some { typ := leAt e 0 1, off := leAt e 4 4, len := leAt e 8 4, digest := (e.drop 16).take 64 }
  else none

/-- Bytes of the signature of an image. -/
def fwSigLen : Nat := 29792

/-- The end of an image's last component. -/
def compsEnd (cs : List FwComp) : Nat := cs.foldl (fun m c => max m (c.off + c.len)) 4096

/-- Does a component lie in the image, of a listed type, with its digest? -/
def compOk (b : List Byte) (c : FwComp) : Bool :=
  inRange false 1 6 c.typ && decide (4096 ≤ c.off) && decide (c.off + c.len ≤ b.length)
    && (c.typ ≠ 1 || decide (c.len ≤ 1572864)) && c.digest = (Config.shake256 ((b.drop c.off).take c.len) 64)

/-- No two ranges of a list of components overlap. -/
def compsApart : List FwComp → Bool
  | [] => true
  | c :: r => r.all (fun d => !overlap c.off c.len d.off d.len) && compsApart r

/-- The components of an image that keeps the format. -/
def parseFwImage (b : List Byte) : Option (List FwComp) :=
  if leAt b 0 4 ≠ 0x46574E42 || leAt b 4 4 = 0 || decide (64 < leAt b 8 1) || !inRange false 1 8 (leAt b 9 1) || !zeroAt b 10 6 then
    none
  else match (List.range (leAt b 9 1)).mapM (parseComp b) with
    | none => none
    | some cs =>
      let ts := cs.map (·.typ)
      if cs.all (compOk b) && compsApart cs && ts.elem 1 && (dedup ts).length = ts.length
        && decide (compsEnd cs + fwSigLen ≤ b.length) then some cs else none

/-- The bank of an image. -/
def imageBank (b : List Byte) (cs : List FwComp) : FwBank :=
  { image := b, verified := true, version := leAt b 4 4, rbc := leAt b 8 1, comps := cs.map (·.typ), digests := cs.map (·.digest) }

def setBank (s : State) (b : Bool) (x : FwBank) : State :=
  setFw s (fun f => if b then { f with bankB := x } else { f with bankA := x })

/-- Log a FIRMWARE record (R598): staging 0, activation 1, rollback 2, failed switch 3, floor change 4. -/
def logFw (s : State) (what version : Nat) : State := logOwn s 0x04 what (leBytes 4 version)

/-- The bank that staging writes: the inactive one; bank A in RECOVERY (R597). -/
def stageBank (s : State) : Bool := s.mgt.state ≠ .recovery && !s.fw.active

/-- Stage an image: a status, RESULT, the state (R571, R593, R596). -/
def stageImage (s : State) (b : List Byte) : Nat × Nat × State :=
  if b.length % 4096 ≠ 0 || b.isEmpty || decide (25165824 < b.length) then (stInvalid, 0, s)
  else match parseFwImage b with
    | none => (stInvalid, 0, s)
    | some cs =>
      if s.fw.op.isSome then (stBusy, 0, s)
      else
        let x := imageBank b cs
        let t := stageBank s
        if !Config.verifyImage b then (stDenied, 0, logFw (setBank s t FwBank.empty) 0 x.version)
        else if x.rbc < s.fw.floor then (stVersion, 0, logFw (setBank s t FwBank.empty) 0 x.version)
        else (stOk, x.version, logFw (setBank s t x) 0 x.version)

/-! ## Activation (R572, R594, R595) -/

/-- Write the boot control record: the copy with the lower sequence number takes it, with a sequence one above the other copy (R595). -/
def writeRecord (s : State) (f : FwSt → FwSt) : State :=
  setFw s (fun x =>
    let y := f x
    let r (n : Nat) : CtrlRec := { active := y.active, tryBank := y.tryBank, tries := y.tries, seq := n + 1 }
    if y.ctrlA.seq < y.ctrlB.seq then { y with ctrlA := r y.ctrlB.seq } else { y with ctrlB := r y.ctrlA.seq })

/-- The version of a component in the bank that runs it: replaced for the types of a list. -/
def putVers (l : List Nat) (ts : List Nat) (v : Nat) : List Nat := l.mapIdx (fun i x => if ts.elem (i + 1) then v else x)

/-- What a request to make the other bank active comes to. -/
inductive FwRes where
  | status (st : Nat)
  | marked (s : State) (version : Nat)
  | started (s : State)
  deriving DecidableEq, Repr

/-- FW_ACTIVATE and FW_ROLLBACK, from the physical function or the management port. -/
def beginFw (s : State) (fn : Option Nat) (tag : W32) (rollback defer : Bool) : FwRes :=
  let other := bankOf s.fw (!s.fw.active)
  if s.fw.op.isSome then .status stBusy
  else if !other.verified then .status stNotFound
  else if other.rbc < s.fw.floor then .status stVersion
  else if defer then
    .marked (logFw (writeRecord s (fun f => { f with tryBank := some (!f.active), tries := 0 })) (if rollback then 2 else 1)
      other.version) other.version
  else
    .started (setMgt (setFw s (fun f => { f with
      op := some { fn := fn, tag := tag, rollback := rollback, todo := [1, 2, 3, 5].filter other.comps.elem, done := [] } }))
      (fun m => { m with state := .updating }))

/-- Answer the requester of a firmware operation. -/
def fwAnswer (s : State) (o : FwOp) (st result : Nat) : State :=
  match o.fn with
  | some fn => dciComplete s fn o.tag st result 0
  | none => setMgt s (fun m => { m with replies := m.replies ++ [Config.mctpReply (leBytes 4 st)] })

/-- Tyrax is READY with an image: the rollback floor rises to its counter (R596). -/
def raiseFloor (s : State) : State :=
  let b := bankOf s.fw s.fw.running
  if s.fw.floor < b.rbc then logFw (setFw s (fun f => { f with floor := b.rbc })) 4 b.rbc else s

/-- Every component has switched: the other bank is active, and the command completes (R572, R594). -/
def endFw (s : State) (o : FwOp) : State :=
  let n := !s.fw.active
  let v := (bankOf s.fw n).version
  let s1 := writeRecord s (fun f => { f with
    active := n, tryBank := none, tries := 0, op := none
    compVer := if (bankOf f n).comps.elem 4 then putVers f.compVer [4] v else f.compVer })
  let s2 := raiseFloor (setMgt s1 (fun m => { m with state := .ready }))
  let s3 := logChange (logFw s2 (if o.rollback then 2 else 1) v) (o.fn.getD 0xFD) 0xF0 (if o.rollback then 0x0A02 else 0x0A01) 0 0
    (leBytes 1 (b2n !n)) (leBytes 1 (b2n n))
  fwAnswer s3 o stOk v

/-- A switch fails: what has switched returns to the old bank's version, which stays active (R594). -/
def failFw (s : State) (o : FwOp) : State :=
  let v := (bankOf s.fw s.fw.active).version
  let s1 := setFw s (fun f => { f with op := none, running := f.active, compVer := putVers f.compVer o.done v })
  let s2 := { s1 with geys := s1.geys.map (fun g => if g.setVer = (bankOf s.fw (!s.fw.active)).version then { g with setVer := v, setNext := none }
                                                    else { g with setNext := none }) }
  fwAnswer (logFw (setMgt s2 (fun m => { m with state := .ready })) 3 (bankOf s.fw (!s.fw.active)).version) o stFaulted 0

/-- Every engine takes new settings at its own boundary, the arrival of a work list; one whose cluster runs no task is at it now (R253,
R594; notes/assumptions/94.md). -/
def switchGeysers (s : State) (v : Nat) : State :=
  { s with geys := s.geys.mapIdx (fun c g =>
      if s.tasks.any (fun e => e.2.cluster = c && e.2.state = .executing) then { g with setNext := if g.setVer = v then none else some v }
      else { g with setVer := v, setNext := none }) }

/-- A component has switched; type 0x01 by a restart of Tyrax into the new bank. -/
def switchDone (s : State) (o : FwOp) (ctype : Nat) : State :=
  let v := (bankOf s.fw (!s.fw.active)).version
  let o1 := { o with todo := o.todo.drop 1, done := o.done ++ [ctype] }
  let s1 := setFw s (fun f => { f with op := some o1, compVer := putVers f.compVer [ctype] v })
  if ctype = 1 then
    setMgt (writeRecord s1 (fun f => { f with running := !f.active, verifiedBoot := false })) (fun m => { m with state := .boot })
  else if o1.todo.isEmpty then endFw s1 o1
  else s1

/-! ## Boot (R597) -/

/-- The bank that the ROM runs next: the one being switched to; after a module reset the one on trial; else the active one (R572, R597). -/
def bootBank (f : FwSt) : Bool :=
  match f.op, f.tryBank with
  | some o, _ => if o.done.elem 1 then !f.active else f.active
  | none, some b => if f.fromReset then b else f.active
  | none, none => f.active

/-- A trial fails: TRIES rises, and at 3 TRY is cleared. -/
def trialFails (s : State) : State :=
  let s1 := writeRecord s (fun f =>
    if 2 ≤ f.tries then { f with tries := 3, tryBank := none } else { f with tries := f.tries + 1 })
  setMgt (setFw s1 (fun f => { f with verifiedBoot := false, onTrial := false })) (fun m => { m with state := .boot })

/-- The keys of a boot: the identity key from the device secret, and the wrapping key, which lives from the first boot to the next reset
(R587; notes/assumptions/95.md). -/
def bootKeys (s : State) : State :=
  let id := Config.shake256 (Config.deviceSecret ++ [0x42, 0x4E, 0x31, 0x2D, 0x49, 0x44]) 96
  if s.mgt.wrapKey.isSome then setMgt s (fun m => { m with identity := id })
  else
    let (n, s1) := takeFree s
    setMgt s1 (fun m => { m with identity := id, wrapKey := some ((Config.random n).setWidth 256) })

/-- A BOOT record: the bank and TRIES (R598). -/
def logBoot (s : State) (b : Bool) : State := logOwn s 0x03 9 (leBytes 1 (b2n b) ++ leBytes 1 s.fw.tries)

/-- The ROM verifies the image that it is about to run: it runs, or a trial fails, or the other bank runs, or RECOVERY. -/
def verifyBoot (s : State) : State :=
  let b := bootBank s.fw
  let trial := s.fw.op.isNone && s.fw.tryBank.isSome && s.fw.fromReset
  let run (b : Bool) (s : State) : State :=
    logBoot (setFw (bootKeys s) (fun f => { f with verifiedBoot := true, booted := true, running := b, onTrial := trial })) b
  if (bankOf s.fw b).verified then run b s
  else if trial then trialFails (logBoot s b)
  else if (bankOf s.fw (!b)).verified then run (!b) s
  else setMgt (logBoot s b) (fun m => { m with state := .recovery })

/-- A trial that reaches READY makes its bank active; the boots of the reset are over. -/
def endTrial (s0 : State) : State :=
  let s := setFw s0 (fun f => { f with fromReset := false })
  if s.fw.onTrial then
    let v := (bankOf s.fw s.fw.running).version
    let s1 := { s with geys := s.geys.map (fun g => { g with setVer := v, setNext := none }) }
    logFw (writeRecord s1 (fun f => { f with
      active := f.running, tryBank := none, tries := 0, onTrial := false, compVer := List.replicate 6 v })) 1 v
  else s

/-- Log what could not be logged before: a thermal trip, a failure of the crystal (R608, R626). -/
def logDeferred (s : State) : State :=
  let s1 := if s.pwr.tripped then logOwn (setPwr s (fun p => { p with tripped := false })) 0x05 7 [] else s
  if s1.fw.deferred then logOwn (setFw s1 (fun f => { f with deferred := false })) 0x05 8 [] else s1

/-- The strap of the management port's address is sampled once (R685); the audits start at the first start after a reset
(R453). -/
def firstStart (s : State) : State :=
  if s.mgt.strap.isSome then s
  else
    let (n, s1) := takeFree s
    setTime (setMgt s1 (fun m => { m with strap := some (Config.freeNat n % 2 = 1) })) (fun t => { t with auditNext := now s, auditSerial := 0 })

end Sys2Proof.Machine
end

