-- ==== Sys2Proof/Machine/Mgmt.lean ====
section
/-! DEFINITION. Tyrax: boot, firmware, identity, quotes, the log and the management port (R569 to R573, R583 to R598). -/

namespace Sys2Proof.Machine

/-! ## Boot and firmware -/

/-- BOOT_VERIFY (R597, R598, R630). -/
def execBootVerify (s : State) : Out :=
  .next (if running s && s.clk.mgtLock && s.mgt.state = .boot && !s.fw.verifiedBoot then verifyBoot s else s)

/-- TYRAX_READY: Tyrax runs its firmware; a trial ends, the floor rises, a firmware operation goes on, stored partitions return
(R577, R596, R597). -/
def execTyraxReady (s : State) : Out :=
  .next (if !(running s && s.mgt.state = .boot && s.fw.verifiedBoot) then s
    else
      let s1 := logDeferred (firstStart s)
      match s1.fw.op with
      | some o =>
        if o.done.elem 1 && s1.fw.running = s1.fw.active then failFw s1 o
        else
          let s2 := setMgt s1 (fun m => { m with state := .updating })
          if o.todo.isEmpty then endFw s2 o else s2
      | none => settle (recreateAll (raiseFloor (endTrial (setMgt s1 (fun m => { m with state := .ready }))))))

/-- TRIAL_BOOT_TIMEOUT (R597). -/
def execTrialBootTimeout (s : State) : Out :=
  .next (if s.mgt.state = .boot && s.fw.onTrial then trialFails s else s)

/-- TYRAX_WATCHDOG: Tyrax alone restarts; fast paths run on (R594, R628). -/
def execTyraxWatchdog (s : State) : Out :=
  .next (if tyraxUp s then setMgt (setFw s (fun f => { f with verifiedBoot := false })) (fun m => { m with state := .boot }) else s)

/-- FW_COMPONENT_SWITCH: types 0x01, 0x02, 0x03 and 0x05 in order; types 0x02 and 0x03 check their new version; type 0x03
is done once every engine has taken it at its own boundary; type 0x06 at a CHECK_TILE after the activation (R594). -/
def execFwComponentSwitch (ctype : Nat) (ok : Bool) (s : State) : Out :=
  let busy := s.tiles.any (fun x => x.cmd.any committing)
  let other := (bankOf s.fw (!s.fw.active)).version
  .next (
    if ctype = 6 && s.fw.op.isNone && !s.tests.isEmpty && (bankOf s.fw s.fw.active).comps.elem 6 then
      setFw s (fun f => { f with compVer := putVers f.compVer [6] (bankOf f f.active).version })
    else match s.fw.op with
      | none => s
      | some o =>
        if o.todo.head? ≠ some ctype || s.mgt.state ≠ .updating || (ctype = 2 && busy) then s
        else if !ok && (ctype = 2 || ctype = 3) then failFw s o
        else
          let s1 := if ctype = 3 then switchGeysers s other else s
          if ctype = 3 && s1.geys.any (fun g => g.setVer ≠ other) then s1 else switchDone s1 o ctype)

/-- FW_STAGE (R571). -/
def execFwStage (h : DciHdr) (img : W64) (len : W32) (s : State) : Out :=
  .next (dciRun s (.fwStage h img len) h (plainCheck h true) (fun _ =>
    if len.toNat % 4096 ≠ 0 || len = 0 || decide (25165824 < len.toNat) then .fail stInvalid
    else match readBuf s h none img.toNat len.toNat with
      | .error r => r
      | .ok b =>
        let (st, res, s1) := stageImage s b
        if st = stOk then
          .done (logChange s1 h.fn 0xF0 0x0A00 0 0 (leBytes 4 (bankOf s.fw (!s.fw.active)).version) (leBytes 4 res)) stOk res 0
        else .done s1 st 0 0))

/-- The answer of FW_ACTIVATE and FW_ROLLBACK. -/
def fwCommand (s : State) (i : Instr) (h : DciHdr) (rollback defer : Bool) : State :=
  dciRun s i h (plainCheck h true) (fun _ =>
    match beginFw s (some h.fn) h.tag rollback defer with
    | .status st => .fail st
    | .marked s1 v =>
      .done (logChange s1 h.fn 0xF0 (if rollback then 0x0A02 else 0x0A01) 0 20 (leBytes 1 0) (leBytes 1 1)) stPending v 0
    | .started s1 => .wait s1)

/-- FW_ACTIVATE (R572, R594). -/
def execFwActivate (h : DciHdr) (defer : Bool) (s : State) : Out := .next (fwCommand s (.fwActivate h defer) h false defer)

/-- FW_ROLLBACK (R572, R594). -/
def execFwRollback (h : DciHdr) (defer : Bool) (s : State) : Out := .next (fwCommand s (.fwRollback h defer) h true defer)

/-- The cap a value names: 600 to 1,800 W, 0 restores 1,800 W (R573). -/
def capOf (n : Nat) : Option Nat := if n = 0 then some 1800 else if decide (600 ≤ n) && decide (n ≤ 1800) then some n else none

/-- POWER_CAP (R573, R586). -/
def execPowerCap (h : DciHdr) (cap : BitVec 16) (s : State) : Out :=
  .next (dciRun s (.powerCap h cap) h (plainCheck h true) (fun _ =>
    match capOf cap.toNat with
    | none => .fail stInvalid
    | some w =>
      let s1 := logChange (setMgt s (fun m => { m with capPf := w })) h.fn 0xF0 0x0B00 0 20 (leBytes 2 s.mgt.capPf) (leBytes 2 w)
      .done s1 stOk (capInForce s1) (min 65535 (inputPower s s.pwr.samples))))

/-! ## Identity and quotes -/

/-- Job entry of a quote: id, state, digest of the .kgi. -/
def quoteJob (j : Nat) (x : Job) : List Byte :=
  let st := match x.state with | .loaded => 0 | .running => 1 | .stopping => 2 | .tornDown => 3
  leBytes 2 j ++ leBytes 1 st ++ List.replicate 13 0 ++ padZero 64 x.digest

/-- Bytes 0 to 767 of a quote and its job entries (R590); scope 12 is the device. -/
def quoteBody (s : State) (sc : Nat) (nonce : List Byte) : List Byte :=
  let x := getPart s sc
  let dev := sc = 12
  let js := if dev then [] else partJobs s sc
  let b := bankOf s.fw s.fw.active
  let cfg := curSet s sc
  leBytes 2 1 ++ leBytes 1 (if dev then 0xF0 else sc) ++ leBytes 1 js.length ++ leBytes 1 (b2n s.fw.active) ++ leBytes 1 s.fw.floor
    ++ leBytes 1 b.digests.length ++ leBytes 1 (if dev then 0 else partCode x.state) ++ leBytes 4 b.version
    ++ leBytes 4 (cfg.elim 0 (·.version)) ++ leBytes 8 (now s) ++ leBytes 8 s.mgt.quotes ++ padZero 32 nonce
    ++ padZero 64 (Config.shake256 (cfg.elim [] cfgBytes) 64) ++ leBytes 4 (if dev then 0 else x.keyGen)
    ++ leBytes 2 (if dev then 0 else x.slices) ++ leBytes 1 (if dev then 0 else x.portMask) ++ leBytes 1 0
    ++ padZero 64 (Config.shake256 (Config.slhPublic s.mgt.identity) 64) ++ List.replicate 56 0
    ++ padZero 512 (b.digests.flatMap (padZero 64)) ++ js.flatMap (fun e => quoteJob e.1 e.2)

/-- Bytes of a quote's signature. -/
def quoteSigLen : Nat := 49856

/-- A quote's signature under the identity key, with the context string BN1-QUOTE (R591). -/
def quoteSig (s : State) (q : List Byte) : List Byte :=
  padZero quoteSigLen (Config.slhSign s.mgt.identity [0x42, 0x4E, 0x31, 0x2D, 0x51, 0x55, 0x4F, 0x54, 0x45] q)

/-- Is a quote fetched before a command still outstanding? Tyrax signs one quote at a time, in fetch order (R592). -/
def quoteAhead (s : State) (i : Instr) (h : DciHdr) : Bool :=
  (outOf s i h).any (fun o => s.funcs.any (fun f => f.outstanding.any (fun e =>
    decide (e.seq < o.seq) && (match e.cmd with | some (.attestQuote ..) => true | _ => false))))

/-- ATTEST_QUOTE (R569, R590 to R592). -/
def execAttestQuote (h : DciHdr) (nonce : List Byte) (buf : W64) (s : State) : Out :=
  let sc := cfgScope h
  let p := if sc = 12 then none else some sc
  let chk := partCheck s h false false true false false
  let go (s : State) : DciRes :=
    if (outFn s h p buf.toNat 65536).isNone then .fail stInvalid
    else if quoteAhead s (.attestQuote h nonce buf) h || !bufOpen s h p buf.toNat 65536 then .hold
    else
      let q := quoteBody s sc nonce
      let bs := q ++ quoteSig s q
      let s1 := writeBuf s h p buf.toNat bs
      .done (setMgt s1 (fun m => { m with quotes := m.quotes + 1 })) stOk bs.length 0
  .next (shapeRun s (.attestQuote h nonce buf) h false chk (fun _ => go s))

/-- The certificate chain (R588): the device certificate of the identity public key and the serial number, the intermediate, the root. -/
def certChain (s : State) : List (List Byte) :=
  [Config.deviceCert (Config.slhPublic s.mgt.identity) Config.serialFused, Config.issuerCert, Config.rootCert]

/-- ID_CERT: PART names a partition as in every command of its group, whose regions may hold the buffer (R534, R535, R537, R570, R588). -/
def execIdCert (h : DciHdr) (index : Nat) (buf : W64) (cap : W32) (s : State) : Out :=
  let p := some (partOf h)
  .next (dciRun s (.idCert h index buf cap) h (partCheck s h false false false false false) (fun _ =>
    if (outFn s h p buf.toNat cap.toNat).isNone then .fail stInvalid
    else match (certChain s)[index]? with
      | none => .fail stNotFound
      | some c =>
        if cap.toNat < c.length then .done s stNoResource c.length 0
        else if !bufOpen s h p buf.toNat c.length then .hold
        else .done (writeBuf s h p buf.toNat c) stOk c.length 0))

/-- What Tyrax answers on the management port or the mailbox. -/
def reply (s : State) (bs : List Byte) : State := setMgt s (fun m => { m with replies := m.replies ++ [bs] })

/-- May IDE_KM establish a stream: one of two selective streams, or stream 2, the CXL.cachemem IDE of the link (R529)? -/
def ideStream (stream : Nat) : Bool := decide (stream < 3)

/-- IDE_KM has established a stream's keys: it is configured and secure, and what was held for it goes out (R502, R529, R530). -/
def secureStream (s : State) (stream : Nat) (key : BitVec 256) (containment : Bool) : State :=
  releaseAll (setLink s (fun l => { l with
    ideConfigured := setIns l.ideConfigured stream, ideSecure := setIns l.ideSecure stream, ideKeys := tPut l.ideKeys stream key,
    containment := if stream = 2 then containment else l.containment }))

/-- SPDM_REQUEST: a requester that does not negotiate SLH-DSA-SHAKE-256f is refused; Tyrax offers ML-KEM-1024, signs a challenge with the
identity key, and takes IDE_KM in a session on the physical function's DOE mailbox alone (R529, R588). -/
def execSpdmRequest (msg : SpdmMsg) (s : State) : Out :=
  .next (if !portUp s then s
    else match msg with
      | .negotiate slh kem =>
        reply (setMgt s (fun m => { m with spdmOk := slh, spdmKem := slh && kem })) (Config.mctpReply (leBytes 1 (b2n slh) ++ leBytes 1 (b2n (slh && kem))))
      | .getCertificate index => reply s (if s.mgt.spdmOk then (certChain s).getD index [] else Config.mctpReply [])
      | .challenge nonce => reply s (if s.mgt.spdmOk then Config.slhSign s.mgt.identity [] nonce else Config.mctpReply [])
      | .ideKm doe stream key containment =>
        if doe && s.mgt.spdmOk && s.mgt.spdmKem && ideStream stream then reply (secureStream s stream key containment) (Config.mctpReply [])
        else reply s (Config.mctpReply []))

/-! ## The log and the management port (R583 to R586) -/

/-- LOG_FLUSH (R583). -/
def execLogFlush (s : State) : Out := .next (if portUp s then flushLog (if s.fw.deferred then logDeferred s else s) else s)

/-- MCTP_CONTROL (R584). -/
def execMctpControl (msg : List Byte) (s : State) : Out := .next (if portUp s then reply s (Config.mctpReply msg) else s)

/-- A number of a sensor as 32 bits. -/
def sensorBytes (v : Int) : List Byte := leBytes 4 (BitVec.ofInt 32 v).toNat

/-- What the port says of a sensor: the reading, its extremes since the last read or, of the power, its mean over 10 ms, and its thresholds
(R578, R584). -/
def sensorReport (s : State) (x : Sensor) : List Byte :=
  sensorBytes ((readSensor s x).getD 0)
    ++ (match x with
        | .inputVoltage | .inputCurrent => (sensorOf s x).elim [] (fun e => sensorBytes e.lo ++ sensorBytes e.hi)
        | .inputPower => sensorBytes (inputPower s s.pwr.samples)
        | _ => [])
    ++ (sensorLimits s x).flatMap sensorBytes

/-- PLDM_MONITORING: a sensor, or the CPER record of the next event that the port has not read (R578, R584, R585, R672). -/
def execPldmMonitoring (x : Option Sensor) (s : State) : Out :=
  .next (if !portUp s then s
    else match x with
      | some y => clearExtremes (reply s (sensorReport s y)) y
      | none => match s.mgt.unread with
        | [] => reply s []
        | e :: r => reply (setMgt s (fun m => { m with unread := r })) e)

/-- PLDM_FIRMWARE_UPDATE: staging with the checks of FW_STAGE, activation as FW_ACTIVATE (R584, R586, R597). -/
def execPldmFirmwareUpdate (req : PldmFw) (s : State) : Out :=
  .next (if !portUp s then s
    else match req with
      | .transfer b =>
        let (st, _, s1) := stageImage s b
        reply s1 (Config.mctpReply (leBytes 4 st))
      | .activate defer =>
        if !tyraxUp s then reply s (Config.mctpReply (leBytes 4 stBusy))
        else match beginFw s none 0 false defer with
          | .status st => reply s (Config.mctpReply (leBytes 4 st))
          | .marked s1 _ => reply s1 (Config.mctpReply (leBytes 4 stPending))
          | .started s1 => s1)

/-- LOG_READ: the records with a SEQ in a range (R584, R585). -/
def execLogRead (first : Nat) (count : Nat) (s : State) : Out :=
  let l := (s.log.flash ++ s.log.buffer).filter (fun r => decide (first ≤ r.seq) && decide (r.seq < first + count))
  .next (if portUp s then reply s (l.flatMap (fun r => logBytes r ++ padZero 8 r.chk)) else s)

/-- MP_POWER_CAP: the management port's own cap (R573, R586). -/
def execMpPowerCap (watts : Nat) (s : State) : Out :=
  .next (if !portUp s then s
    else match capOf watts with
      | none => reply s (Config.mctpReply (leBytes 4 stInvalid))
      | some w =>
        let s1 := logChange (setMgt s (fun m => { m with capMp := w })) 0xFD 0xF0 0x0B00 0 20 (leBytes 2 s.mgt.capMp) (leBytes 2 w)
        reply s1 (Config.mctpReply (leBytes 4 stOk)))

/-- MP_FW_ROLLBACK (R584, R586). -/
def execMpFwRollback (defer : Bool) (s : State) : Out :=
  .next (if !tyraxUp s then s
    else match beginFw s none 0 true defer with
      | .status st => reply s (Config.mctpReply (leBytes 4 st))
      | .marked s1 _ => reply s1 (Config.mctpReply (leBytes 4 stPending))
      | .started s1 => s1)

/-- MP_REGISTER_READ: a MGT_ register (R584, R585). -/
def execMpRegisterRead (offset : Nat) (s : State) : Out :=
  .next (if portUp s then reply s (leBytes 8 (readMgt s offset)) else s)

/-- MP_RESET_REQUEST: a drain, then the reset (R628). -/
def execMpResetRequest (s : State) : Out := .next (if portUp s then startDrain s true else s)

end Sys2Proof.Machine
end

