-- ==== Sys2Proof/Machine/Orchard.lean ====
section
/-! DEFINITION. Feed rings, payloads and chunk completions (R298 to R306). -/

namespace Sys2Proof.Machine

/-- The feed-ring entry of a function's ring, when it is enabled (R562). -/
def feedCfg (s : State) (fn ring : Nat) : Option FeedCfg :=
  match curSet s (if fn = 0 then 12 else fn - 1) with
  | some c => match tGet c.feeds ring with
    | some f => if f.entries = 0 then none else some f
    | none => none
  | none => none

def FeedRing.empty : FeedRing := { head := 0, tail := 0, doorbells := [], failed := false }

def getFeed (s : State) (fn ring : Nat) : FeedRing := (tGet (getFunc s fn).feeds ring).getD FeedRing.empty

def setFeed (s : State) (fn ring : Nat) (f : FeedRing) : State :=
  setFunc s fn (fun x => { x with feeds := tPut x.feeds ring f })

/-- A write of FEED_DB: a new tail; one that is not within the ring's size beyond the head is ignored and counted, and one of a
virtual function whose partition is NONE is ignored (R523). -/
def writeFeedDb (s : State) (fn ring v : Nat) : State :=
  match feedCfg s fn ring with
  | none => s
  | some c =>
    let f := getFeed s fn ring
    let tail := v % 2 ^ 32
    if !funcServed s fn || (fn ≠ 0 && (getPart s (fn - 1)).state = .none) then s
    else if c.entries < (tail + 2 ^ 32 - f.head) % 2 ^ 32 then orcAdd s (fn - 1) 4 1
    else setFeed s fn ring { f with tail := tail, doorbells := f.doorbells ++ [(tail, now s)], failed := false }

/-- FEED_DB (R298, R523). -/
def execFeedDb (fn : Nat) (ring : Nat) (value : W64) (s : State) : Out := .next (writeFeedDb s fn ring value.toNat)

/-- Arrival time of the descriptor at the head: the doorbell that covered it (R302). -/
def coveredAt (f : FeedRing) (t : Nat) : Nat :=
  ((f.doorbells.find? (fun d => decide ((d.1 + 2 ^ 32 - f.head) % 2 ^ 32 ≠ 0) &&
    decide ((d.1 + 2 ^ 32 - f.head) % 2 ^ 32 < 2 ^ 31))).map Prod.snd).getD t

/-- The ring after its head descriptor is read: doorbells that cover nothing more are forgotten. -/
def advanceFeed (f : FeedRing) : FeedRing :=
  let h := (f.head + 1) % 2 ^ 32
  { f with head := h, doorbells := f.doorbells.filter (fun d => decide ((d.1 + 2 ^ 32 - h) % 2 ^ 32 < 2 ^ 31) && d.1 ≠ h) }

/-- FEED_DESCRIPTOR (R300, R301): Orchard reads the descriptor at a ring's head, handles it and writes the new head back; a
read that fails stops the ring. A descriptor that was not visible before its doorbell has unpredictable contents, free values (R512). -/
def execFeedDescriptor (fn : Nat) (ring : Nat) (r : HostRead) (s : State) : Out :=
  .next (match feedCfg s fn ring with
    | none => s
    | some c =>
      let f := getFeed s fn ring
      let a := c.base + 32 * (f.head % c.entries)
      if f.head = f.tail || f.failed || !tagFree s fn then s
      else if r = .failed || !hostReadOk s fn || (regionAt (funcRegions s fn) a 32).isNone then
        setFeed (orcAdd s (fn - 1) 4 1) fn ring { f with failed := true }
      else
        let (bs, s1) := entryContents s r (dpaRead s (funcRegions s fn) a 32)
        let d := parseFeed bs (coveredAt f (now s))
        let g := advanceFeed f
        dpaPut (handleFeed (setFeed s1 fn ring g) (fn - 1) d) fn c.headwb (leBytes 4 g.head))

/-- PAYLOAD_LANDED (R302): the fetch of a stream's oldest payload still outstanding ends. -/
def execPayloadLanded (stream : Nat) (ok : Bool) (s : State) : Out :=
  .next (match getStream s stream with
    | none => s
    | some st => match fetchIx st with
      | none => s
      | some k => match st.chunks[k]? with
        | some c => if tagFree s (st.part + 1) then landPayload s stream st k c ok else s
        | none => s)

/-- May Orchard write a ring's next record and its tail word for a partition (R508)? -/
def ringWritable (s : State) (p : Nat) (r : Ring) : Bool :=
  mayWrite (funcRegions s (p + 1)) (r.base + 32 * (r.tail % r.nrec)) 32 && mayWrite (funcRegions s (p + 1)) (r.ctl + 4) 4

/-- COMPLETION_POST (R306): the oldest completion that waits for a ring is written when the ring has room. A ring that lies in no region
of the partition, or in a READONLY one, tears its running job down, and the completion goes on waiting (R26, R508). -/
def execCompletionPost (job : Nat) (ring : Nat) (s : State) : Out :=
  .next (match getJob s job with
    | none => s
    | some x => match x.rings[ring]?, waitingDone x ring with
      | some r, some d =>
        if !ringWritable s x.part r then (if x.state = .tornDown then s else teardown s job 2 0)
        else if ringRoom r && writeOpen s (x.part + 1) r.base && writeOpen s (x.part + 1) r.ctl then dropPosted (postChunkDone s job x ring r d) job
        else s
      | _, _ => s)

/-- RING_HEAD_POLL (R304): while completions wait for a ring, Orchard reads its head word. -/
def execRingHeadPoll (job : Nat) (ring : Nat) (s : State) : Out :=
  .next (match getJob s job with
    | none => s
    | some x => match x.rings[ring]?, waitingDone x ring with
      | some r, some _ =>
        if !headReadable s x.part r then s
        else
          let h := leNat (dpaRead s (funcRegions s (x.part + 1)) r.ctl 4)
          setJob (holdHead s (x.part + 1) r.ctl) job (fun y => { y with
            rings := y.rings.modify ring (fun r => { r with head := h }) })
      | _, _ => s)

end Sys2Proof.Machine
end

