-- ==== Sys2Proof/Machine/Power.lean ====
section
/-! DEFINITION. The events of clocks, supply, temperature, power states, tests and resets (R577 to R583, R606 to R633). -/

namespace Sys2Proof.Machine

/-! ## Clocks -/

/-- The crystal has failed: RECOVERY, and a record as soon as the log can be written (R608). -/
def crystalFails (s : State) : State :=
  setFw (setMgt s (fun m => { m with state := .recovery })) (fun f => { f with deferred := true })

/-- CRYSTAL_STABLE: the count completes, device time is 0, and the crystal is measured in kHz (R607, R608, R614). -/
def execCrystalStable (kHz : Nat) (s : State) : Out :=
  .next (if !running s || s.clk.counted || s.mgt.state ≠ .boot then s
    else
      let s1 := setClk (setTime s (fun t => { t with acc := 0 })) (fun c => { c with counted := true })
      if decide (24250 ≤ kHz) && decide (kHz ≤ 25750) then setClk s1 (fun c => { c with xtalOk := true }) else crystalFails s1)

/-- CRYSTAL_FAIL_TIMEOUT (R608). -/
def execCrystalFailTimeout (s : State) : Out :=
  .next (if !running s || s.clk.counted || s.mgt.state ≠ .boot then s else crystalFails s)

/-- PLL_LOCK: domains that waited for the PLL switch to it (R609, R611, R613, R635). -/
def execPllLock (p : Pll) (s : State) : Out :=
  .next (if running s && s.clk.xtalOk then settle (gainLock s p) else s)

/-- PLL_LOSES_LOCK (R485, R635). -/
def execPllLosesLock (p : Pll) (s : State) : Out :=
  .next (if isLocked s.clk p then loseLock s p else s)

/-- FREQ_CHECK: more than 1,000 ppm is lost lock; a die whose CORE_A has lost lock goes to reduced service, and returns once
the PLL has been locked for 1 s (R615, R655). -/
def execFreqCheck (pll : Pll) (ppm : Int) (s : State) : Out :=
  .next (
    let bad := decide (1000 < ppm.natAbs)
    let s1 := if bad && isLocked s.clk pll then loseLock s pll else s
    match pll with
    | .coreA d =>
      if bad || !isLocked s1.clk pll then
        settle (setDie s1 d (fun x => { x with coreLost := x.coreLost || (tGet s1.clk.relock d).isSome }))
      else if (getDie s1 d).coreLost && (tGet s1.clk.relock d).any (fun t => decide (t + 1000000000 ≤ now s1)) then
        settle (setDie s1 d (fun x => { x with coreLost := false }))
      else s1
    | _ => s1)

/-- FMEAS_DONE: the window ends; a measurement of AUD_MCLK_IN against the crystal judges it (R613, R615). -/
def execFmeasDone (count : Nat) (s : State) : Out :=
  .next (if !s.clk.fRun then s
    else
      let s1 := setClk s (fun c => { c with fRun := false, fDone := true, fCount := count % 2 ^ 40 })
      if s.clk.fTgt = 8 && s.clk.fRef = 0 then judgeMclk s1 (25000000 * (count % 2 ^ 40)) (2 ^ (s.clk.fWexp + 10)) else s1)

/-! ## Supply -/

/-- The supply level that a sample in mV sets (R619). -/
def levelOf' (mV : Nat) : Nat := if 42000 ≤ mV then 0 else if 41000 ≤ mV then 1 else if 40000 ≤ mV then 2 else if 39000 ≤ mV then 3 else 4

/-- The supply level rises with a sample, and falls one level after 1 ms at its threshold + 0.5 V (R619). -/
def supplyLevel (p : PwrSt) (mV : Nat) : PwrSt :=
  let l := levelOf' mV
  if p.supply < l then { p with supply := l, okCount := 0 }
  else if p.supply = 0 then p
  else if (43 - p.supply) * 1000 + 500 ≤ mV then
    (if 999 ≤ p.okCount then { p with supply := p.supply - 1, okCount := 0 } else { p with okCount := p.okCount + 1 })
  else { p with okCount := 0 }

/-- Record a sample: extremes, the last 10 ms, throttled time (R634, R641). -/
def recordSample (s : State) (mV mA : Nat) : State :=
  let thr := decide (0 < effLevel s 0) || decide (0 < effLevel s 1)
  setPwr s (fun p => { p with
    vmin := min p.vmin (mV / 10), vmax := min 65535 (max p.vmax (mV / 10)), samples := ((mV, mA) :: p.samples).take 10000
    cntThrottle := if thr then cntAdd p.cntThrottle 1 else p.cntThrottle })

/-- RIPPLE: the extremes of the last 1 ms in units of 10 mV, when they lie more than 2.0 V apart (R624). -/
def rippleOf (p : PwrSt) : Option (Nat × Nat) :=
  let w := (p.samples.take 1000).map Prod.fst
  let lo := w.foldl min (w.headD 0)
  let hi := w.foldl max 0
  if p.supply = 0 && decide (2000 < hi - lo) then some (lo / 10, hi / 10) else none

/-- The events of a sample (R623, R624). -/
def supplyEvents (s0 s : State) (mV : Nat) : State :=
  let v := mV / 10
  let s1 := if s0.pwr.supply = 0 && s.pwr.supply ≠ 0 then postSupply s .underVolt v v 0 else s
  let s2 := if 60000 < mV then postSupply s1 .overVolt v v 0 else s1
  let s3 := if decide (63000 < mV) && !s2.pwr.switchOpen then
      postSupply (setPwr s2 (fun p => { p with switchOpen := true })) .opened v v 0
    else if mV ≤ 60000 then setPwr s2 (fun p => { p with switchOpen := false }) else s2
  match rippleOf s3.pwr with
  | some (lo, hi) => postSupply s3 .ripple lo hi 1000
  | none => s3

/-- The input's sensors take the sample, in units of 10 mV and 10 mA, while Tyrax runs (R578, R579). -/
def inputSensors (s : State) (mV : Int) (mA : Nat) : State :=
  if portUp s then takeSample (takeSample s .inputVoltage (some (mV / 10))) .inputCurrent (some ((mA : Int) / 10)) else s

/-- SUPPLY_SAMPLE: one sample of the input; the fourth in a row below 38 V starts a drain, and passes begin again when the level falls from
8 (R619 to R624). Beyond the ratings of
R687 the manual says nothing. -/
def execSupplySample (mV : Int) (mA : Nat) (s : State) : Out :=
  if mV < -60000 ∨ 80000 < mV then .fault .beyondRatings
  else if !s.pwr.powered then .next s
  else
    let v := mV.toNat
    let s1 := setPwr (recordSample s v mA) (fun p => { supplyLevel p v with below := if v < 38000 then p.below + 1 else 0 })
    let s2 := inputSensors (supplyEvents s s1 v) mV mA
    .next (if 4 ≤ s2.pwr.below then startDrain s2 false else resumeQueues s s2)

/-- DRAIN_COMPLETE: the log is in flash; the module is off, or resets for the management port (R621, R622, R628, R686). -/
def execDrainComplete (s : State) : Out :=
  .next (if !s.pwr.draining then s
    else if s.pwr.mpReset then moduleReset (flushLog s) else powerOff (flushLog s))

/-- POWER_ON: the power stage starts the module (R623). -/
def execPowerOn (s : State) : Out :=
  .next (if s.pwr.powered then s else setPwr s (fun p => { p with powered := true }))

/-! ## Temperature and the power cap -/

/-- THERMAL_TICK (R625). -/
def execThermalTick (die : Nat) (s : State) : Out :=
  let js := junctions s die
  let hot := js.any (fun v => decide (400 ≤ v)) || (stacksOf s die).any (fun v => decide (95 ≤ v))
  .next (
    if hot then
      if (getDie s die).therm < 7 then
        postThermal (setDie s die (fun d => { d with therm := d.therm + 1 })) (Config.sensorUnit (3 + 12 * die)) .level
          (js.foldl max (js.headD 0))
      else s
    else if js.all (fun v => decide (v ≤ 388)) then setDie s die (fun d => { d with therm := d.therm - 1 })
    else s)

/-- THERMAL_TRIP: the power stage turns off at once, and the trip is latched (R626). -/
def execThermalTrip (_die : Nat) (s : State) : Out :=
  .next (if s.pwr.powered then setPwr (powerOff s) (fun p => { p with tripped := true }) else s)

/-- Means over 1 ms, latest first. -/
def msMeans (l : List (Nat × Nat)) : Nat → List Nat
  | 0 => []
  | n + 1 => if l.isEmpty then [] else meanPower (l.take 1000) :: msMeans (l.drop 1000) n

/-- POWER_CAP_TICK: the level rises or falls, and passes begin again when it falls from 8 (R620, R627). -/
def execPowerCapTick (s : State) : Out :=
  let cap := heldPower s
  let l := s.pwr.capLevel
  let n := if cap < inputPower s s.pwr.samples then min 8 (l + 1)
    else if (msMeans (takenSamples s s.pwr.samples) 10).all (fun w => decide (100 * w < 95 * cap)) then l - 1 else l
  let s1 := setPwr s (fun p => { p with capLevel := n })
  .next (if !tyraxUp s then s else if n < l then resumeQueues s s1 else s1)

/-- What a sample of a sensor sets off beside its record (R579, R626, R677). -/
def sensorEffects (s : State) (x : Sensor) (e : SensorSt) : State :=
  let u := Config.sensorUnit (sensorNum x)
  let v := reading e
  match x with
  | .junction _ _ | .ioJunction _ => if 2 ≤ e.high then startDrain (postThermal s u .junction v) false else s
  | .stack n => setSlice s n (fun y => { y with temp := v })
  | .coolantIn => if 450 < v then postThermal s u .inlet v else s
  | .coolantOut => if e.high = 2 then postThermal s u .flow v else s
  | _ => s

/-- Does a reading count toward two in a row: a junction at 105 °C, an outlet more than 12 °C above the inlet? -/
def countsHigh (s : State) (x : Sensor) (v : Int) : Bool :=
  match x with
  | .junction _ _ | .ioJunction _ => decide (420 ≤ v)
  | .coolantOut => (readSensor s .coolantIn).any (fun i => decide (i + 120 < v))
  | _ => false

/-- SENSOR_SAMPLE: a value in units of the sensor's resolution, or none (R578, R579, R626, R677). The input power is derived and has no
sample of its own. A junction beyond 125 °C is
beyond the ratings of R687. -/
def execSensorSample (x : Sensor) (value : Option Int) (s : State) : Out :=
  let hot := match x, value with
    | .junction _ _, some v => decide (500 < v ∧ v ≤ 600)
    | .ioJunction _, some v => decide (500 < v ∧ v ≤ 600)
    | _, _ => false
  if hot then .fault .beyondRatings
  else if !portUp s then .next s
  else
    let s1 := takeSample s x value
    let e1 := (sensorOf s1 x).getD (freshSensor x)
    if x = .inputPower then .next s
    else if value.isNone && !e1.failed then .next s1
    else
      let e := { e1 with high := if countsHigh s x (reading e1) then e1.high + 1 else 0 }
      .next (sensorEffects (putSensor s1 e) x e)

/-! ## Power states (R616 to R618) -/

/-- TILE_SLEEP (R617). -/
def execTileSleep (t : Nat) (s : State) : Out :=
  .next (if tileState s t = 0 then setTile s t (fun x => if x.power = .run then { x with power := .sleep } else x) else s)

/-- SLICE_DEEP_SLEEP: the bring-up records go into the retention banks, and the slice is power-gated (R618). -/
def execSliceDeepSleep (slice : Nat) (s : State) : Out :=
  let idle := (List.range 8).all (fun i => (getTile s (8 * slice + i)).cmd.isNone)
  let unused := !(getSlice s slice).online
    || (partOfSlice s slice).any (fun p => (getPart s p).state = .empty && (getPart s p).shapeOp.isNone)
  .next (if !tyraxUp s || (getSlice s slice).deep || !idle || !unused || (getGey s slice).phase2 then s
    else
      let s1 := forAll s (List.range 8) (fun s i =>
        setTile s (8 * slice + i) (fun x => { x with power := .deep, record := some (x.phase1, x.phase2) }))
      setSlice s1 slice (fun x => { x with deep := true }))

/-! ## Bring-up (R630 to R633) -/

/-- PHASE1_DONE: a tile passes, or stays withdrawn (R630, R631, R654). -/
def execPhase1Done (t : Nat) (pass : Bool) (s : State) : Out :=
  let x := getTile s t
  .next (if !tyraxUp s || x.phase1 || x.failed then s
    else
      let s1 := setTile s t (fun x => { x with phase1 := pass, failed := !pass, withdrawn := x.withdrawn || !pass })
      settle (tryOnline s1 (t / 8)))

/-- PHASE2_DONE: the tiles that failed stay withdrawn; the cluster serves at full rate once no task is on it (R631, R633,
R654). -/
def execPhase2Done (cluster : Nat) (failed : List Nat) (s : State) : Out :=
  .next (if !(getGey s cluster).phase2 then s
    else
      let s1 := forAll s (List.range 8) (fun s i => setTile s (8 * cluster + i) (fun x =>
        if !x.phase1 || x.failed then x
        else if failed.elem i then { x with failed := true, withdrawn := true } else { x with phase2 := true }))
      settle (setGey s1 cluster (fun g => { g with phase2 := false })))

/-! ## Resets (R628, R686) -/

/-- MG_RST_N: held low it resets the module, without a drain; it does not interrupt a drain. -/
def execMgRstN (low : Bool) (s : State) : Out :=
  .next (
    if !low then setMgt s (fun m => { m with rstLow := false })
    else if s.pwr.draining then setMgt s (fun m => { m with rstLow := true })
    else moduleReset (setMgt s (fun m => { m with rstLow := true })))

/-- PWR_SUPPLY_READ: the read sets VMIN to 0xFFFF and VMAX to 0 (R641). -/
def execPwrSupplyRead (s : State) : Out := .next (setPwr s (fun p => { p with vmin := 0xFFFF, vmax := 0 }))

end Sys2Proof.Machine
end

