-- ==== Sys2Proof/Machine/RegWrite.lean ====
section
/-! DEFINITION. What a write of each register does (R6 to R9, R107 to R112, R139 to R143, R210 to R223, R253 to R261, R332 to
R338, R371 to R375, R413 to R418, R457 to R463, R494 to R498, R514 to R527, R634 to R642). -/

namespace Sys2Proof.Machine

/-- A write: the value with 0 in a half that is not written, and which halves are written. -/
structure RegVal where
  v : Nat
  lo : Bool
  hi : Bool
  deriving DecidableEq, Repr

/-- The write that a 64-bit or 32-bit access makes, with the register's offset; none for one that is not aligned (R514). -/
def regVal (off : Nat) (half : Bool) (value : W64) : Option (Nat × RegVal) :=
  if !half then (if off % 8 = 0 then some (off, { v := value.toNat, lo := true, hi := true }) else none)
  else if off % 8 = 0 then some (off, { v := value.toNat % 2 ^ 32, lo := true, hi := false })
  else if off % 8 = 4 then some (off - 4, { v := value.toNat % 2 ^ 32 * 2 ^ 32, lo := false, hi := true })
  else none

/-- A field of 64 bits after a write. -/
def merge64 (old : Nat) (w : RegVal) : Nat :=
  (if w.lo then w.v % 2 ^ 32 else old % 2 ^ 32) + 2 ^ 32 * (if w.hi then w.v / 2 ^ 32 else old / 2 ^ 32)

/-! ## Shadowed registers (R210 to R212, R215, R255, R334) -/

/-- TLE_CTRL: exponents outside 10 to 24 are reserved. -/
def writeTleCtrl (s : State) (t v : Nat) : State :=
  let e := bitsAt v 0 5
  if e < 10 ∨ 24 < e then s
  else setTile s t (fun x => if x.cmd.isSome then { x with pendWdogExp := some e } else { x with wdogExp := e, pendWdogExp := none })

/-- TLE_MXE_CTRL. -/
def writeMxeCtrl (s : State) (t v : Nat) : State :=
  let en := bitAt v 0
  let sl := bitsAt v 1 3
  setTile s t (fun x => if x.cmd.isSome then { x with pendMxe := some (en, sl) }
    else { x with chkEn := en, chkSlack := sl, pendMxe := none })

/-- GEY_CTRL: a BG_SLACK of 0 is reserved. -/
def writeGeyCtrl (s : State) (c v : Nat) : State :=
  let m := bitsAt v 0 6
  let b := bitsAt v 8 8
  if b = 0 then s
  else setGey s c (fun g => if clusterBusy s c then { g with pend := some (m, b) }
    else { g with mergeWait := m, bgSlack := b, pend := none })

/-- Does a partition's Orchard block run a command: one of its jobs is RUNNING or STOPPING (R332)? -/
def orcBusy (s : State) (p : Nat) : Bool := (partJobs s p).any (fun e => e.2.state = .running || e.2.state = .stopping)

/-- ORC_CTRL. -/
def writeOrcCtrl (s : State) (p v : Nat) : State :=
  let e := bitAt v 0
  let d := bitAt v 1
  setPart s p (fun x => if orcBusy s p then { x with pendOrc := some (e, d) }
    else { x with schedEn := e, dropLate := d, pendOrc := none })

/-- A write of a shadowed configuration register; of any other, nothing. -/
def writeShadowed (s : State) (b : RegBlock) (off v : Nat) : State :=
  match b with
  | .tile t =>
    let s1 := wakeTile s t
    if off = 0x0008 then writeTleCtrl s1 t v else if off = 0x0400 then writeMxeCtrl s1 t v else s1
  | .geyser c => if off = 0x0008 then writeGeyCtrl s c v else s
  | .orchard p => if off = 0x0008 then writeOrcCtrl s p v else s
  | _ => s

/-! ## Counters -/

/-- n counters at 0. -/
def zeros (n : Nat) : List Nat := List.replicate n 0

def clrMxe (s : State) (t v : Nat) : State := if bitAt v 0 then setTile s t (fun x => { x with mxeCnt := zeros 8 }) else s
def clrVec (s : State) (t v : Nat) : State := if bitAt v 0 then setTile s t (fun x => { x with vecCnt := zeros 6 }) else s
def clrTle (s : State) (t v : Nat) : State :=
  if bitAt v 0 then setTile s t (fun x => { x with cnt := zeros 5, commitMax := 0 }) else s
def clrAtt (s : State) (t v : Nat) : State := if bitAt v 0 then setTile s t (fun x => { x with attCnt := zeros 4 }) else s
def clrGey (s : State) (c v : Nat) : State :=
  if bitAt v 0 then setGey s c (fun g => { g with cnt := zeros 7, lateMax := 0, lateStream := 0 }) else s
def clrOrc (s : State) (p v : Nat) : State := if bitAt v 0 then setPart s p (fun x => { x with orcCnt := zeros 11 }) else s
def clrKv (s : State) (p v : Nat) : State := if bitAt v 0 then setPart s p (fun x => { x with kvCnt := zeros 8 }) else s
def clrMgtPart (s : State) (p v : Nat) : State := if bitAt v 0 then setPart s p (fun x => { x with mgtCnt := zeros 5 }) else s
def clrTdm (s : State) (n v : Nat) : State := if bitAt v 0 then setPort s n (fun q => { q with cnt := zeros 6 }) else s
def clrPwr (s : State) (v : Nat) : State :=
  if bitAt v 0 then setPwr s (fun p => { p with cntThrottle := 0, cntSupply := 0 }) else s

/-! ## Blocks -/

/-- A tile's register: the access wakes the tile (R617). -/
def writeTile (s : State) (t off : Nat) (w : RegVal) : State :=
  let s := wakeTile s t
  match off with
  | 0x0008 | 0x0400 => if w.lo then writeShadowed s (.tile t) off w.v else s
  | 0x0020 => setTile s t (fun x => { x with flagSticky := x.flagSticky &&& ~~~(BitVec.ofNat 8 w.v) })
  | 0x0028 => if bitAt w.v 0 then setTile s t (fun x => { x with abort := { x.abort with valid := false } }) else s
  | 0x0040 => clrTle s t w.v
  | 0x0410 => setTile s t (fun x => { x with chkstat := { x.chkstat with
      mismatch := x.chkstat.mismatch && !bitAt w.v 0, skipped := x.chkstat.skipped && !bitAt w.v 1 } })
  | 0x0418 => clrMxe s t w.v
  | 0x0508 => clrVec s t w.v
  | 0x0610 => clrAtt s t w.v
  | _ => s

def writeGeyser (s : State) (c off : Nat) (w : RegVal) : State :=
  match off with
  | 0x0008 => if w.lo then writeShadowed s (.geyser c) off w.v else s
  | 0x0020 => if bitAt w.v 0 then setGey s c (fun g => { g with fault := { g.fault with valid := false } }) else s
  | 0x0030 => clrGey s c w.v
  | _ => s

def writeOrchard (s : State) (p off : Nat) (w : RegVal) : State :=
  match off with
  | 0x0008 => if w.lo then writeShadowed s (.orchard p) off w.v else s
  | 0x0020 => clrOrc s p w.v
  | 0x0118 => clrKv s p w.v
  | _ => s

def writeMgtPart (s : State) (p off : Nat) (w : RegVal) : State :=
  match off with
  | 0x0018 => if bitAt w.v 0 then setPart s p (fun x => { x with audit := { x.audit with mismatch := false } }) else s
  | 0x0020 => clrMgtPart s p w.v
  | _ => s

/-- HIF_CTRL: vectors, then the completion ring's enable before the submission ring's (R517, R518). -/
def writeHifCtrl (s : State) (fn v : Nat) : State :=
  let s1 := setFunc s fn (fun f => { f with
    cqVec := bitsAt v 8 6, cqIrq := bitAt v 14, evtVec := bitsAt v 16 6, evtIrq := bitAt v 22 })
  let s2 := if bitAt v 1 then enableCq s1 fn else disableCq s1 fn
  let s3 := if bitAt v 0 then enableSq s2 fn else disableSq s2 fn
  if bitAt v 2 then enableEvt s3 fn else disableEvt s3 fn

/-- Bits 63 to 12 of a ring base. -/
def pageBase (n : Nat) : Nat := n / 4096 * 4096

/-- One MSI-X table register (R527). -/
def writeMsix (s : State) (fn off : Nat) (w : RegVal) : State :=
  let v := off / 16
  if off % 16 = 0 then setMsix s fn v (fun e => { e with addr := BitVec.ofNat 64 (merge64 e.addr.toNat w) })
  else
    let s1 := if w.lo then setMsix s fn v (fun e => { e with data := BitVec.ofNat 32 w.v }) else s
    if !w.hi then s1
    else if bitAt w.v 32 then setMsix s1 fn v (fun e => { e with masked := true })
    else unmaskVector s1 fn v

/-- A BAR0 register (R514 to R523, R527). -/
def writeBar0 (s : State) (fn off : Nat) (w : RegVal) : State :=
  match off with
  | 0x0008 => setFunc s fn (fun f => { f with sqErr := f.sqErr && !bitAt w.v 16, cfgErr := f.cfgErr && !bitAt w.v 17 })
  | 0x0010 => if w.lo then writeHifCtrl s fn w.v else s
  | 0x0100 => setFunc s fn (fun f => if f.sqEn then f else { f with sqBase := pageBase (merge64 f.sqBase w) })
  | 0x0108 => setFunc s fn (fun f => if f.sqEn || !w.lo then f else { f with sqSize := bitsAt w.v 0 16 })
  | 0x0110 => if w.lo then writeSqTail s fn (w.v % 2 ^ 32) else s
  | 0x0118 => setFunc s fn (fun f => if f.cqEn then f else { f with cqBase := pageBase (merge64 f.cqBase w) })
  | 0x0120 => setFunc s fn (fun f => if f.cqEn || !w.lo then f else { f with cqSize := bitsAt w.v 0 16 })
  | 0x0128 => if w.lo then writeCqHead s fn (w.v % 2 ^ 32) else s
  | 0x0400 => setFunc s fn (fun f => if f.evtEn then f else { f with evtBase := pageBase (merge64 f.evtBase w) })
  | 0x0408 => setFunc s fn (fun f => if f.evtEn || !w.lo then f else { f with evtSize := bitsAt w.v 0 16 })
  | 0x0410 => if w.lo then writeEvtHead s fn (w.v % 2 ^ 32) else s
  | _ =>
    if decide (0x200 ≤ off) && decide (off < 0x400) then (if w.lo then writeFeedDb s fn ((off - 0x200) / 8) w.v else s)
    else if decide (0x2000 ≤ off) && decide (off < 0x2400) then writeMsix s fn (off - 0x2000) w
    else s

/-- CLK_FMEAS: a reserved clock code ignores the write (R9, R638). -/
def writeFmeas (s : State) (v : Nat) : State :=
  if decide (0x0E ≤ bitsAt v 0 5) || decide (0x0E ≤ bitsAt v 8 5) then s
  else setClk s (fun c => { c with
    fRef := bitsAt v 0 5, fTgt := bitsAt v 8 5, fIdx := bitsAt v 16 4, fWexp := bitsAt v 24 4
    fRun := c.fRun || bitAt v 31, fDone := c.fDone && !bitAt v 31 })

/-- CLK_AUDIO: another family or reference makes the audio PLL relock (R613, R637). -/
def writeAudio (s : State) (v : Nat) : State :=
  let s1 := setClk s (fun c => { c with family := bitAt v 0, refsel := bitAt v 1 })
  if s1.clk.family = s.clk.family && s1.clk.refsel = s.clk.refsel then s else loseLock s1 .audio

/-- CLK_TGATE: bits 0 to 2 of DSLEEP_EN must be 0 (R9, R639); engines that get their clock start what waits for them. -/
def writeTgate (s : State) (t v : Nat) : State :=
  if bitsAt v 8 3 ≠ 0 then s
  else resumeQueues s (setTile s t (fun x => { x with runEn := bitsAt v 0 4, sleepEn := bitsAt v 4 4, dsleepEn := bitsAt v 8 4 }))

def writeClk (s : State) (off : Nat) (w : RegVal) : State :=
  if !w.lo then s
  else match off with
  | 0x0008 => setDie s 0 (fun d => { d with csel := bitsAt w.v 0 6, fsel := bitAt w.v 8, fumsel := bitAt w.v 9 })
  | 0x0010 => setDie s 1 (fun d => { d with csel := bitsAt w.v 0 6, fsel := bitAt w.v 8, fumsel := bitAt w.v 9 })
  | 0x0018 => writeAudio s w.v
  | 0x0020 => writeFmeas s w.v
  | _ => if decide (0x100 ≤ off) && decide (off < 0x400) then writeTgate s ((off - 0x100) / 8) w.v else s

/-- A write of any register. -/
def writeReg (s : State) (b : RegBlock) (off : Nat) (w : RegVal) : State :=
  match b with
  | .bar0 fn => writeBar0 s fn off w
  | .tile t => writeTile s t off w
  | .geyser c => writeGeyser s c off w
  | .orchard p => writeOrchard s p off w
  | .orchardDev => s
  | .mgtPart p => writeMgtPart s p off w
  | .tdm n => if off = 0xA0 then clrTdm s n w.v else s
  | .mgt => s
  | .clk => writeClk s off w
  | .pwr => if off = 0x10 then clrPwr s w.v else s

end Sys2Proof.Machine
end

