-- ==== Sys2Proof/Machine/Regs.lean ====
section
/-! DEFINITION. Register writes, the counter clears, and DEV_QUERY (R6 to R9, R111, R142, R210, R222, R260, R337, R374, R417,
R462, R497, R541 to R543, R642). -/

namespace Sys2Proof.Machine

/-- SHADOWED_CONFIG_WRITE (R210). -/
def execShadowedConfigWrite (b : RegBlock) (offset : Nat) (value : W64) (s : State) : Out :=
  .next (writeShadowed s b offset value.toNat)

/-- REGISTER_WRITE: an access that is not aligned has no effect (R6, R514). -/
def execRegisterWrite (b : RegBlock) (offset : Nat) (half : Bool) (value : W64) (s : State) : Out :=
  .next (match regVal offset half value with
    | some (off, w) => writeReg s b off w
    | none => s)

/-- FMEAS_START: a write of CLK_FMEAS with START (R638). -/
def execFmeasStart (value : W64) (s : State) : Out := .next (writeFmeas s value.toNat)

/-- TLE_MXE_CNT_CLR (R111). -/
def execTleMxeCntClr (t : Nat) (value : W64) (s : State) : Out := .next (clrMxe (wakeTile s t) t value.toNat)

/-- TLE_VEC_CNT_CLR (R142). -/
def execTleVecCntClr (t : Nat) (value : W64) (s : State) : Out := .next (clrVec (wakeTile s t) t value.toNat)

/-- TLE_CNT_CLR (R222). -/
def execTleCntClr (t : Nat) (value : W64) (s : State) : Out := .next (clrTle (wakeTile s t) t value.toNat)

/-- TLE_ATT_CNT_CLR (R374). -/
def execTleAttCntClr (t : Nat) (value : W64) (s : State) : Out := .next (clrAtt (wakeTile s t) t value.toNat)

/-- GEY_CNT_CLR (R260). -/
def execGeyCntClr (cluster : Nat) (value : W64) (s : State) : Out := .next (clrGey s cluster value.toNat)

/-- ORC_CNT_CLR (R337). -/
def execOrcCntClr (part : Nat) (value : W64) (s : State) : Out := .next (clrOrc s part value.toNat)

/-- ORC_KV_CNT_CLR (R417). -/
def execOrcKvCntClr (part : Nat) (value : W64) (s : State) : Out := .next (clrKv s part value.toNat)

/-- MGT_PART_CNT_CLR (R462). -/
def execMgtPartCntClr (part : Nat) (value : W64) (s : State) : Out := .next (clrMgtPart s part value.toNat)

/-- TDM_CNT_CLR (R497). -/
def execTdmCntClr (port : Nat) (value : W64) (s : State) : Out := .next (clrTdm s port value.toNat)

/-- PWR_CNT_CLR (R642). -/
def execPwrCntClr (value : W64) (s : State) : Out := .next (clrPwr s value.toNat)

/-! ## DEV_QUERY (R541 to R543) -/

/-- Is a slice one that a function may read? -/
def seesSlice (s : State) (fn n : Nat) : Bool := fn = 0 || bitAt (getPart s (fn - 1)).slices n

/-- The sum of 2^i over the i of a list that a test admits. -/
def maskOf (l : List Nat) (f : Nat → Bool) : Nat := ((l.filter f).map (2 ^ ·)).sum

/-- The device record. -/
def deviceRecord (s : State) (fn : Nat) : List Byte :=
  let ver (b : FwBank) : Nat := if b.verified then b.version else 0
  let serves (t : Nat) : Bool := tileInService s t && !(getGey s (t / 8)).phase2 && seesSlice s fn (t / 8)
  leBytes 1 1 ++ leBytes 1 1 ++ leBytes 1 (b2n s.fw.active)
    ++ leBytes 1 (fields [(0, b2n (reducedService s)), (1, b2n s.link.degraded), (2, b2n s.time.ptmValid)])
    ++ leBytes 4 (ver s.fw.bankA) ++ leBytes 4 (ver s.fw.bankB) ++ leBytes 2 (maskOf (List.range 12) (fun n => (getSlice s n).online))
    ++ leBytes 2 (maskOf (List.range 12) (fun p => (getPart s p).state ≠ .none && (fn = 0 || fn = p + 1)))
    ++ leBytes 12 (maskOf (List.range 96) serves) ++ leBytes 2 (capInForce s) ++ leBytes 2 0 ++ leBytes 8 (now s)
    ++ leBytes 2 Config.kgiMin ++ leBytes 2 Config.kgiMax ++ List.replicate 212 0

/-- What a query reads: a status, a register block with its owner's test, a set, or the device record. -/
inductive Query where
  | bad (status : Nat)
  | record
  | block (b : RegBlock)
  | set (c : Option CfgSet)
  deriving DecidableEq, Repr

/-- The set of a scope that codes 0x06 to 0x08 name. -/
def querySet (s : State) (fn code sc : Nat) : Option CfgSet :=
  let x := getScope s sc
  if code = 6 then x.cur else if code = 7 then x.prev else if fn = 0 then x.stagedPf else x.stagedVf

/-- Resolve CODE and INDEX for a function (R542). -/
def parseQuery (s : State) (fn code index : Nat) : Query :=
  let own (ok : Bool) (q : Query) : Query := if ok then q else .bad stDenied
  match code with
  | 0 => .record
  | 1 => if 96 ≤ index then .bad stInvalid else own (seesSlice s fn (index / 8)) (.block (.tile index))
  | 2 => if 12 ≤ index then .bad stInvalid else own (seesSlice s fn index) (.block (.geyser index))
  | 3 =>
    if index = 15 then own (fn = 0) (.block .orchardDev)
    else if 12 ≤ index then .bad stInvalid else own (fn = 0 || fn = index + 1) (.block (.orchard index))
  | 4 => if 12 ≤ index then .bad stInvalid else own (fn = 0 || fn = index + 1) (.block (.mgtPart index))
  | 5 => if 8 ≤ index then .bad stInvalid else own (fn = 0 || portPart s index = some (fn - 1)) (.block (.tdm index))
  | 6 | 7 | 8 =>
    if index = 0xF0 then own (fn = 0) (.set (querySet s fn code 12))
    else if 12 ≤ index then .bad stInvalid else own (fn = 0 || fn = index + 1) (.set (querySet s fn code index))
  | _ => .bad stInvalid

/-- DEV_QUERY. -/
def execDevQuery (h : DciHdr) (code : Nat) (index : Nat) (buf : W64) (s : State) : Out :=
  let a := buf.toNat
  let put (s : State) (bs : List Byte) (res : Nat) : DciRes :=
    if !bufOpen s h none a 4096 then .hold else .done (writeBuf s h none a bs) stOk res 0
  .next (dciRun s (.devQuery h code index buf) h (plainCheck h false) (fun _ =>
    match parseQuery s h.fn code index with
    | .bad st => .fail st
    | q =>
      if (outFn s h none a 4096).isNone then .fail stInvalid
      else match q with
        | .record => put s (deviceRecord s h.fn) 256
        | .block b => put (match b with | .tile t => wakeTile s t | _ => s) (blockBytes s b) 4096
        | .set (some c) => put s (cfgBytes c) c.version
        | .set none => .done s stOk 0 0
        | .bad st => .fail st))

end Sys2Proof.Machine
end

