-- ==== Sys2Proof/Machine/Seq.lean ====
section
/-! DEFINITION. CTRL and SYNC instructions, the reserved opcodes, and the events that end a wait (R179 to R185, R188,
R192, R193, R202 to R208, R651, R657). -/

namespace Sys2Proof.Machine

/-! ## CTRL (R181 to R183) -/

/-- Every field that an opcode does not use is 0 (R181). -/
def ctrlZero (a : CtrlArgs) (tgt lc fmask cmp addr csrc imm : Bool) : Bool :=
  (tgt || a.target = 0) && (lc || a.lc = 0) && (fmask || (a.fmask = 0 && a.sense = false)) && (cmp || a.cmp = 0)
    && (addr || a.addr = 0) && (csrc || a.csrc = false) && (imm || a.imm = 0) && a.rsv = 0

/-- NOP: nothing; it does not end the start block (R188). -/
def execNop (t : Nat) (a : CtrlArgs) (s : State) : Out :=
  runTile s t (fun s _ => do
    check (ctrlZero a false false false false false false false) 0x10
    return advance s t)

/-- The loop that a LOOP opens: an error under R182 gives cause 0x15. -/
def loopOk (c : Cmd) (tgt lc : Nat) : Bool :=
  inStage c tgt && decide (c.pc + 1 ≤ tgt) && c.loops.all (fun l => l.lc ≠ lc)
    && (match c.loops with | [] => true | l :: _ => decide (tgt ≤ l.last))

/-- LOOP: run the body COUNT times; COUNT = 0 goes on at TARGET + 1 (R181, R182). A COUNT in memory is read once no outstanding
transfer writes it, as a word of BRW is (R183, R209). -/
def execLoop (t : Nat) (a : CtrlArgs) (s : State) : Out :=
  runWait s t (.word a.addr.toNat) (fun s c => do
    let c1 := dispatched c
    let s1 := setCmd s t (fun _ => c1)
    check (ctrlZero a true true false false true true true && (!a.csrc || a.addr.toNat % 4 = 0)) 0x10
    let tgt := a.target.toNat
    check (loopOk c tgt a.lc.toNat) 0x15
    if a.csrc && rangeWritten s t c (calAddr t a.addr.toNat) 4 then
      return setCmd s t (fun c => { c with phase := .execute, wait := some (.word a.addr.toNat) })
    let n ← if a.csrc then engWord s t c a.addr.toNat else pure a.imm.toNat
    if n = 0 then return goTo s1 t (stepLoops c.loops tgt).1 (stepLoops c.loops tgt).2
    else return goTo s1 t (c.pc + 1) ({ lc := a.lc.toNat, first := c.pc + 1, last := tgt, left := n } :: c.loops))

/-- A branch: to TARGET, leaving the loops that do not hold it, or on (R182). -/
def branch (s : State) (t : Nat) (c : Cmd) (tgt : Nat) (taken : Bool) : Except Nat State :=
  let s1 := setCmd s t dispatched
  if !inStage c tgt then .error 0x15
  else if taken then .ok (goTo s1 t tgt (keepLoops c.loops tgt)) else .ok (advance s1 t)

/-- BR. -/
def execBr (t : Nat) (a : CtrlArgs) (s : State) : Out :=
  runTile s t (fun s c => do
    check (ctrlZero a true false false false false false false) 0x10
    branch s t c a.target.toNat true)

/-- BRF: branch on the flags that FMASK names, once every engine instruction before it has completed (R183). -/
def execBrf (t : Nat) (a : CtrlArgs) (s : State) : Out :=
  runAfter s t (fun s => runTile s t (fun s c => do
    check (ctrlZero a true false true false false false false) 0x10
    branch s t c a.target.toNat (decide (((getTile s t).eng.flags &&& a.fmask) ≠ 0) = a.sense)))

/-- CMP of BRW. -/
def brwTest (cmp w imm : Nat) : Bool :=
  match cmp with
  | 0 => w = imm
  | 1 => w ≠ imm
  | 2 => decide (w < imm)
  | _ => decide (imm ≤ w)

/-- BRW: branch on a word of the tile's Caldera, once no outstanding transfer writes it (R183). -/
def execBrw (t : Nat) (a : CtrlArgs) (s : State) : Out :=
  runWait s t (.word a.addr.toNat) (fun s c => do
    check (ctrlZero a true false false true true false true && decide (a.cmp.toNat < 4) && a.addr.toNat % 4 = 0) 0x10
    check (inStage c a.target.toNat) 0x15
    if rangeWritten s t c (calAddr t a.addr.toNat) 4 then
      return setCmd s t (fun c => { c with phase := .execute, wait := some (.word a.addr.toNat) })
    let w ← engWord s t c a.addr.toNat
    branch s t c a.target.toNat (brwTest a.cmp.toNat w a.imm.toNat))

/-- HALT: abort with cause 0x14 and the code of IMM. -/
def execHalt (t : Nat) (a : CtrlArgs) (s : State) : Out :=
  runTile s t (fun s c => do
    check (ctrlZero a false false false false false false true) 0x10
    return abortTask s c.task { cause := 0x14, tile := t, pc := c.pc, halt := a.imm.toNat % 65536, addr := 0 })

/-! ## COMMIT (R193, R651, R657, R658) -/

/-- The first uncorrectable byte of the written units of the COPY shadows (R651). -/
def shadowBad (s : State) (c : Cmd) : Option Nat :=
  (c.wins.filter (fun w => !w.append)).findSome? (fun w =>
    (addrs w.shadow w.len).find? (fun a => unitWritten c a && isBad s a))

/-- Is a command's result held for a comparison: a row of it carries CHECK and its request stands (R657)? -/
def awaitsCheck (s : State) (c : Cmd) : Bool :=
  c.checked && !isChecking c
    && s.checks.any (fun q => q.placed && (ownRows s c).any (fun r => r.check && r.stream = q.stream))

/-- A checking run has reached COMMIT: what it would publish is kept, and its tile is idle again (R658). -/
def endChecking (s : State) (t : Nat) (c : Cmd) : State :=
  let pub := publishedOf s t c
  let s1 := dropCmd s t
  settle { s1 with checks := s1.checks.map (fun q => match c.run with
    | .check f => if q.checkTile = some t && q.firstTile = f then { q with result1 := some pub } else q
    | .third _ _ => if q.thirdTile = some t then { q with result2 := some pub } else q
    | _ => q) }

/-- The execute phase ends. -/
def endExecute (s : State) (t : Nat) (c : Cmd) : State :=
  if isChecking c then endChecking s t c
  else if awaitsCheck s c then
    setCmd s t (fun c => { c with phase := if c.last then .commitWait else .commit, wait := some .compare, wdogEnd := none })
  else if c.last then finishFinal s t c
  else setCmd s t (fun c => { c with phase := .commit, wait := none, wdogEnd := none })

/-- Has every instruction and every XREQ of the command completed (R193)? -/
def allDone (s : State) (t : Nat) (c : Cmd) : Bool := (tileXfers s t).isEmpty && c.queue.isEmpty

/-- COMMIT: waits for the command's instructions and XREQs, reads the shadows with ECC, and ends the execute phase. -/
def execCommit (t : Nat) (a : CtrlArgs) (s : State) : Out :=
  runWait s t .commit (fun s c => do
    check (ctrlZero a false false false false false false false) 0x10
    let c1 := { c with phase := .execute, wait := if allDone s t c then none else some .commit }
    let s1 := setCmd s t (fun _ => c1)
    if !allDone s t c then return s1
    else match shadowBad s c with
      | some x => .error (abortCode 0x70 x)
      | none => return endExecute s1 t c1)

/-! ## SYNC (R184, R203 to R208) -/

/-- Fields of BARWAIT, BARSIG, SEMWAIT and SEMSIG. -/
def syncOk (a : SyncArgs) : Bool := a.rsv = 0 && decide (1 ≤ a.n.toNat)

/-- The count of a task's barrier. -/
def barCount (s : State) (c : Cmd) (b : Nat) : Nat := ((getTask s c.task).bind (fun k => tGet k.bars b)).getD 0

/-- A wait of the start block is satisfied: the command sees what is committed until now (R29, R188). -/
def endWait (s : State) (t : Nat) : State := advance (setCmd s t (fun c => { c with old := [] })) t

/-- BARWAIT: in the start block, waits until the barrier's count is at least N (R188, R203). -/
def execBarwait (t : Nat) (a : SyncArgs) (s : State) : Out :=
  runWait s t (.bar a.id.toNat a.n.toNat) (fun s c => do
    check (syncOk a) 0x10
    check (decide (a.id.toNat < 32)) 0x16
    check (c.phase = .start) 0x19
    if a.n.toNat ≤ barCount s c a.id.toNat then return endWait s t
    else return setCmd s t (fun c => { c with wait := some (.bar a.id.toNat a.n.toNat) }))

/-- BARRIER_REACHED: a BARWAIT of the tile is satisfied. -/
def execBarrierReached (t : Nat) (s : State) : Out :=
  .next (match getCmd s t with
    | none => s
    | some c => match c.wait with
      | some (.bar b n) => if n ≤ barCount s c b then endWait s t else s
      | _ => s)

/-- BARSIG: N is added to the barrier at commit. -/
def execBarsig (t : Nat) (a : SyncArgs) (s : State) : Out :=
  runInstr s t (fun s _ => do
    check (syncOk a) 0x10
    check (decide (a.id.toNat < 32)) 0x16
    return setCmd s t (fun c => { c with barsig := c.barsig ++ [(a.id.toNat, a.n.toNat)] }))

def setSem (s : State) (j k : Nat) (f : Sem → Sem) : State := setJob s j (fun x => { x with sems := tMod x.sems k f })

/-- Take a hold of n: H rises, and the command keeps the hold; a checking run keeps the amount only (R658). -/
def takeHold (s : State) (t : Nat) (c : Cmd) (k n : Nat) : State :=
  let s1 := if isChecking c then s else setSem s c.job k (fun m => { m with h := m.h + n })
  setCmd s1 t (fun c => { c with holds := c.holds ++ [(k, n)] })

/-- SEMWAIT: in the start block, takes a hold of N, behind the waits that came before it (R188, R204, R205). -/
def execSemwait (t : Nat) (a : SyncArgs) (s : State) : Out :=
  runTile s t (fun s c => do
    let k := a.id.toNat
    let n := a.n.toNat
    check (syncOk a) 0x10
    match (getJob s c.job).bind (fun j => tGet j.sems k) with
    | none => .error 0x16
    | some m =>
      check (c.phase = .start) 0x19
      if isChecking c || (m.waits.isEmpty && decide (n ≤ m.v - m.h)) then return endWait (takeHold s t c k n) t
      else
        let s1 := setSem s c.job k (fun m => { m with waits := m.waits ++ [(t, n)] })
        return setCmd s1 t (fun c => { c with wait := some (.sem k n) }))

/-- SEMWAIT_GRANT: the first wait of a semaphore proceeds when V − H covers it. -/
def execSemwaitGrant (job : Nat) (sem : Nat) (s : State) : Out :=
  .next (match (getJob s job).bind (fun j => tGet j.sems sem) with
    | none => s
    | some m => match m.waits with
      | [] => s
      | (t, n) :: rest => match getCmd s t with
        | none => s
        | some c =>
          if n ≤ m.v - m.h then
            endWait (takeHold (setSem s job sem (fun m => { m with waits := rest })) t c sem n) t
          else s)

/-- SEMSIG: N is added to the semaphore's value at the task commit. -/
def execSemsig (t : Nat) (a : SyncArgs) (s : State) : Out :=
  runInstr s t (fun s c => do
    check (syncOk a) 0x10
    check ((getJob s c.job).elim false (fun j => tHas j.sems a.id.toNat)) 0x16
    return setCmd s t (fun c => { c with semsig := c.semsig ++ [(a.id.toNat, a.n.toNat)] }))

/-- Has every XREQ into a pair's FILL half landed, a stream through its next slab only (R208, R240)? -/
def fillDone (xs : List Xfer) (k : Nat) (p : Pair) : Bool :=
  xs.all (fun x => !x.topair || x.pair ≠ k || (!x.desc.isCopy && decide (slabCur x p + 2 ≤ (x.landed : Int))))

/-- Does an entry of the XFER queue fill a pair? -/
def fillsPair (k : Nat) (e : QEnt) : Bool := match e.instr with | .xreq _ a => decide (xreqPair a = some k) | _ => false

/-- Is no XREQ into the FILL half waiting in the XFER queue, and has every earlier instruction and transfer finished with the COMPUTE
half (R208)? -/
def computeDone (s : State) (t : Nat) (c : Cmd) (k : Nat) (p : Pair) : Bool :=
  let a := calAddr t (computeOff p)
  !c.queue.any (fillsPair k) && !rangeRead s t c a p.len && !c.queue.any (fun e => queueWrites s t c e.instr a p.len)

/-- Exchange the roles of a pair (R208) and bring the stream's next slab from the store (R238); a slab that may now be issued is a new request
(R237, R242). -/
def swapPair (s : State) (t k : Nat) : State :=
  let s1 := setCmd s t (fun c => { dispatched c with
    pairs := c.pairs.modify k (fun p => { p with comp1 := !p.comp1, swaps := now s :: p.swaps }) })
  match (tileXfers s1 t).find? (fun x => x.topair && x.pair = k && !x.desc.isCopy), getCmd s1 t with
  | some x, some c => if decide (x.issued = x.landed) && mergeable x c then seekBurst s1 (t / 8) x.id c else fillFromStore s1 x c
  | _, _ => s1

/-- SWAP: waits for the fill of the pair and for what reads its COMPUTE half, then exchanges the roles; what it lets start then starts (R208, R245). -/
def execSwap (t : Nat) (a : SyncArgs) (s : State) : Out :=
  runWait s t (.swap a.id.toNat) (fun s c => do
    let k := a.id.toNat
    check (a.rsv = 0 && a.n = 0) 0x10
    match c.pairs[k]? with
    | none => .error 0x16
    | some p =>
      if fillDone (tileXfers s t) k p && computeDone s t c k p then return drainQueue (advance (swapPair s t k) t) t
      else return setCmd s t (fun c => { c with phase := .execute, wait := some (.swap k) }))

/-! ## Reserved opcodes (R179) -/

/-- RESERVED_OPCODE: a word whose opcode no class lists, so that it spells no command, aborts the task with cause 0x10. -/
def execReservedOpcode (t : Nat) (word : W128) (s : State) : Out :=
  if (decodeWord t word).isSome then .next s else runInstr s t (fun _ _ => .error 0x10)

end Sys2Proof.Machine
end

