-- ==== Sys2Proof/Machine/Task.lean ====
section
/-! DEFINITION. Tasks and commands: scheduling steps, starts, watchdogs, commits, windows, re-runs, checking runs, the router
unit (R187, R189, R194 to R196, R307 to R320, R440 to R446, R657 to R659). -/

namespace Sys2Proof.Machine

/-- SCHEDULING_STEP: a step of a job begins on clusters of its share; what waits in ORC_CTRL becomes live, and with SCHED_EN the step
runs (R304, R307, R308, R332, R334). An error in what it reads faults the partition (R456, R648). -/
def execSchedulingStep (job : Nat) (read : StepRead) (s : State) : Out :=
  .next (match getJob s job with
    | none => s
    | some x =>
      let cls := stepClusters s job x read.clusters
      if s.pwr.draining || !stepsRun s x || cls.isEmpty then s
      else if read.bad then partFault s x.part 0 0
      else if !(getPart (orcBoundary s x.part) x.part).schedEn then orcBoundary s x.part
      else
        let s1 := readHeads (switchTrees (orcBoundary s x.part) x.part) job
        let s2 := forAll s1 cls (fun s c => stepOn s job c)
        setJob s2 job (fun y => { y with sched := (y.sched + 1) % 2 ^ 32 }))

/-- The built task of a job on a cluster whose list arrives next: a resumed one first, then the oldest. -/
def nextBuilt (s : State) (j cl : Nat) : Option (Nat × Task) :=
  let bs := (tasksOn s j cl).filter (fun e => e.2.state = .built)
  match bs.find? (fun e => decide (0 < e.2.kills)) with
  | some e => some e
  | none => bs.head?

/-- COMMAND_START: the built task's work list reaches its cluster once no task of the job executes there, and its first
commands start; while one executes, its positions that could not start yet do (R187, R308, R441). -/
def execCommandStart (job : Nat) (cluster : Nat) (s : State) : Out :=
  .next (match getJob s job with
    | none => s
    | some x =>
      if !(shareOn x cluster).all (tileOpen s x.part job) then s
      else match (tasksOn s job cluster).find? (fun e => e.2.state = .executing) with
        | some e => settle (forAll s (e.2.pos.map (·.ident)) (fun s i => startPos s e.1 i))
        | none => match nextBuilt s job cluster with
          | some e => settle (arrive s e.1 e.2 x)
          | none => s)

/-- WATCHDOG_EXPIRY: the watchdog of a running command expires (R189). -/
def execWatchdogExpiry (t : Nat) (s : State) : Out :=
  .next (match getCmd s t with
    | none => s
    | some c =>
      if (c.phase = .start || c.phase = .execute) && c.wdogEnd.isSome then abortCmd s t c 0x13 else s)

/-- A word that the commit phase finds uncorrectable faults the partition after it (R651). -/
def faultBad (s : State) (p : Nat) (bad : Bool) : State := if bad then partFault s p 0 0 else s

/-- STAGE_COMMIT: a command of a stage without LAST publishes its homes and its barriers (R194, R445, R651). -/
def execStageCommit (t : Nat) (s : State) : Out :=
  .next (match getCmd s t with
    | none => s
    | some c =>
      if !committing c then s
      else faultBad (debitOverrun (stageCommitOp s t) c.part c.job [t]) c.part (shadowBad s c).isSome)

/-- TASK_COMMIT: every final-stage command is in COMMIT_WAIT; the checks of R195, R385 and R508, then the commit phase of R196. A failed
check is one of the task: the abort names the tile of the task's first position and that tile's COMMIT (DESIGN CHOICE,
notes/assumptions/88.md). -/
def execTaskCommit (task : Nat) (s : State) : Out :=
  .next (match getTask s task with
    | none => s
    | some x => match getJob s x.job with
      | none => s
      | some j =>
        if !allFinal x then s
        else
          let t := (x.pos.head?).elim 0 (·.tile)
          match commitCause s x j with
          | some k =>
            abortTask s task { cause := k, tile := t, pc := (getCmd s t).elim 0 (·.pc), halt := 0,
                               addr := if k = 0x1F then (badTail s x j).getD 0 else 0 }
          | none =>
            let bad := (taskTiles s task).any (fun t => (getCmd s t).any (fun c => (shadowBad s c).isSome))
            faultBad (commitTask (debitOverrun s j.part x.job (taskTiles s task)) task x j) j.part bad)

/-- The tiles of a window on which it ends now: those on which a debit brings its end before device time, while its own end lies
ahead, else all of them (R442, R445). -/
def endingTiles (s : State) (p : Nat) (tab : CycleTab) (w : CycleWin) : List Nat :=
  let ts := maskTiles w.mask
  let o := periodOff s p tab
  let due := ts.filter (fun t => decide (1000 * w.start ≤ o) && decide (winEnd s p w t ≤ o) && decide (o < 1000 * (w.start + w.len)))
  if due.isEmpty then ts else due

/-- Does a task run on some tiles: a command of it, re-runs and checking runs among them, or a position that has not ended (R442)? -/
def runsOn (s : State) (e : Nat × Task) (ts : List Nat) : Bool :=
  e.2.state = .executing && (taskTiles s e.1 ++ (e.2.pos.filter (fun q => !q.fin)).map (·.tile)).any ts.elem

/-- The tasks of a window's job that its end on some tiles reaches. -/
def windowTasks (s : State) (j : Nat) (ts : List Nat) : List (Nat × Task) :=
  s.tasks.filter (fun e => e.2.job = j && runsOn s e ts)

/-- The tasks that the end of a whole window, open since `start`, passes without a kill: on its clusters, not killed in this window. -/
def passedTasks (s : State) (j : Nat) (ts : List Nat) (start : Nat) : List (Nat × Task) :=
  s.tasks.filter (fun e => e.2.job = j && ts.any (fun t => t / 8 = e.2.cluster) && !runsOn s e ts
    && !(decide (0 < e.2.streak) && decide (start ≤ e.2.killedAt)))

/-- WINDOW_END: the window's job's commands on the tiles where it ends are killed with their tasks, or run on in their commit phase; a
task that the window's own end finds unkilled is not killed at consecutive ends (R199, R442 to R445). -/
def execWindowEnd (part : Nat) (window : Nat) (s : State) : Out :=
  .next (match (getPart s part).table with
    | none => s
    | some tab => match tab.wins[window]? with
      | none => s
      | some w =>
        let ts := endingTiles s part tab w
        let start := now s - (periodOff s part tab - 1000 * w.start)
        let rest := if ts = maskTiles w.mask then passedTasks s w.job ts start else []
        let s1 := forAll s rest (fun s e => setTask s e.1 (fun y => { y with streak := 0 }))
        settle (forAll s1 (windowTasks s w.job ts) (fun s e => endWindowTask s part e.1 e.2)))

/-- CYCLE_TABLE_SWITCH: the admitted table takes effect, and its command completes (R440). -/
def execCycleTableSwitch (part : Nat) (s : State) : Out :=
  .next (match (getPart s part).tableNext with
    | none => s
    | some (tab, fn, tag) =>
      dciComplete (applyTable (setPart s part (fun x => { x with tableNext := none })) part fn tab) fn tag stOk 0 0)

/-! ## Second runs (R105, R446, R657 to R659) -/

/-- Is a position's re-run due on another tile than t? -/
def rerunDue (s : State) (t : Nat) (p : TilePos) : Bool :=
  match p.run with
  | .rerun f _ _ => f = t && (getCmd s p.tile).all (fun c => c.run ≠ p.run)
  | _ => false

/-- RERUN_START: the command that stopped on a tile runs again on another one (R105, R446). -/
def execRerunStart (t : Nat) (s : State) : Out :=
  .next (match s.tasks.findSome? (fun e =>
      if e.2.state = .executing then (e.2.pos.find? (rerunDue s t)).map (fun p => (e.1, e.2, p)) else none) with
    | none => s
    | some (k, x, p) => match getJob s x.job, runTileFor s k [t] with
      | some j, some u => setPos (startRun s k x j { p with tile := u } p.run) k p.ident (fun p => { p with tile := u })
      | _, _ => s)

/-- The checks that cover a command's rows. -/
def coversCmd (s : State) (c : Cmd) (q : StepCheck) : Bool :=
  q.placed && (ownRows s c).any (fun r => r.check && r.stream = q.stream)

/-- Does a tile run a checking or third run for the command on tile t? -/
def checkRuns (s : State) (c : Cmd) (t : Nat) : Bool :=
  (taskTiles s c.task).any (fun u => (getCmd s u).any (fun d => match d.run with
    | .check f => f = t
    | .third f _ => f = t
    | _ => false))

/-- CHECK_RUN_START: the checking run of the command on tile t starts on an idle tile, or the third run after a
disagreement (R657, R659). -/
def execCheckRunStart (t : Nat) (s : State) : Out :=
  .next (match getCmd s t with
    | none => s
    | some c => match getTask s c.task, getPos s c.task c.ident, s.checks.find? (coversCmd s c) with
      | some x, some p, some q =>
        match getJob s x.job, runTileFor s c.task (t :: if q.result1.isSome then q.checkTile.toList else []) with
        | some j, some u =>
          let pc := { p with stage := c.stage, role := c.role }
          if !awaitsCheck s c || waitsCommit c || committing c || checkRuns s c t then s
          else match q.result1 with
            | none => startRun { s with checks := s.checks.map (fun q =>
                if coversCmd s c q then { q with firstTile := t, checkTile := some u } else q) } c.task x j { pc with tile := u } (.check t)
            | some r =>
              if c.wait = some .compare && q.result2.isNone && r ≠ publishedOf s t c then
                startRun { s with checks := s.checks.map (fun q =>
                  if coversCmd s c q then { q with mismatch := true, thirdTile := some u } else q) } c.task x j { pc with tile := u }
                  (.third t (q.checkTile.getD 0))
              else s
        | _, _ => s
      | _, _, _ => s)

/-- The units of a command's shadows that a result wrote. -/
def shadowUnits (c : Cmd) (copies : List (Nat × Byte)) : List Nat :=
  dedup (copies.filterMap (fun e => (copyWin c e.1).map (fun w => (w.shadow + (e.1 - w.home)) / 64)))

/-- Words of 4 bytes at addresses, as writes. -/
def wordWrites (l : List (Nat × W32)) : List (Nat × Byte) := l.flatMap (fun e => asWrites e.1 (leBytes 4 e.2.toNat))

/-- Give the first run the result of the two runs that agree: what it publishes is theirs (R659). -/
def adoptResult (s : State) (t : Nat) (c : Cmd) (p : Published) : State :=
  let wa := workAddr s t
  let j := getJob s c.job
  let first := (getTask s c.task).elim 0 (fun x => ownFirst x c.ident)
  let words : List (Nat × W32) :=
    p.status.map (fun e => (wa + j.elim 0 (·.hdr.rstat) + 4 * (e.1 - first), e.2))
      ++ p.kvstat.map (fun e => (wa + (j.bind (·.kv)).elim 0 (·.hdr.kvstat) + 4 * (e.1 - first), e.2))
      ++ p.appends.filterMap (fun a => (c.wins.find? (fun w => w.append && w.home = a.1)).map (fun w =>
          (w.lenw, BitVec.ofNat 32 a.2)))
  let ws := p.copies.filterMap (fun e => (copyWin c e.1).map (fun w => (w.shadow + (e.1 - w.home), e.2))) ++ wordWrites words
  let fresh := (words.map (fun (e : Nat × W32) => e.1 / 64)).filter (fun u => !unitWritten c (64 * u))
  let keep := c.written.filter (fun u => (shadowWin c (64 * u)).isNone)
  let c1 : Cmd :=
    { workWrite (workWrite c (fresh.flatMap (fun u => asWrites (64 * u) (List.replicate 64 0)))) ws with
      written := (shadowUnits c p.copies ++ (words.map (fun (e : Nat × W32) => e.1 / 64))).foldl setIns keep, barsig := p.barsig,
      semsig := p.semsig, holds := p.holds, drift := p.drift, slotWrites := p.slots, appendWrites := p.appendBytes,
      kvWrites := p.kv, loose := p.loose }
  let s1 := releaseHolds s c.job c.holds
  let s2 := setJob s1 c.job (fun x => { x with
    sems := p.holds.foldl (fun l h => tMod l h.1 (fun m => { m with h := m.h + h.2 })) x.sems })
  setEng (setCmd s2 t (fun _ => c1)) t (fun g => { g with flags := p.flags })

/-- The comparison has ended: the first run enters its commit. -/
def endCompare (s : State) (t : Nat) : State :=
  match getCmd s t with
  | none => s
  | some c =>
    let s1 := { s with checks := s.checks.map (fun q =>
      if coversCmd s c q then { q with result1 := none, result2 := none } else q) }
    if c.last then finishFinal s1 t c else setCmd s1 t (fun c => { c with phase := .commit, wait := none })

/-- A tile's run disagreed with the two that agree: it counts a CHECK_MISMATCH (R659, R669). -/
def countDisagree (s : State) (t : Nat) (c : Cmd) (q : StepCheck) : State :=
  let (n, s1) := takeFree s
  raiseMismatch s1 t c.part c.job c.task q.stream
    (mismatchDetail c.pc 0 q.firstTile (q.checkTile.getD 0xFF) (q.thirdTile.getD 0xFF) (Config.freeByte n) 0)

/-- No tile can take the third run of a command before its task ends: each tile in service of the share that
may run the job holds a command of the task or is one of the two that ran (R657, R659). -/
def noThird (s : State) (t : Nat) (c : Cmd) (q : StepCheck) : Bool :=
  match getTask s c.task with
  | none => true
  | some x => (getJob s x.job).elim true (fun j => j.share.all (fun u =>
      !tileInService s u || !runOpen s j.part x u || decide (u = t) || decide (q.checkTile = some u)
        || (taskTiles s c.task).elem u || x.finals.any (fun f => f.1 = u)))

/-- CHECK_COMPARE: the runs of the command on tile t are compared (R658, R659). -/
def execCheckCompare (t : Nat) (s : State) : Out :=
  .next (match getCmd s t with
    | none => s
    | some c => match s.checks.find? (coversCmd s c) with
      | none => if c.wait = some .compare then endCompare s t else s
      | some q =>
        let own := publishedOf s t c
        if c.wait ≠ some .compare then s
        else match q.result1, q.result2 with
          | none, _ => s
          | some r1, none =>
            if r1 = own then endCompare s t
            else if q.thirdTile.isNone && noThird s t c q then
              let (n, s1) := takeFree s
              abortTask s1 c.task { cause := Config.freeNat n % 256, tile := t, pc := c.pc, halt := 0, addr := 0 }
            else { s with checks := s.checks.map (fun q => if coversCmd s c q then { q with mismatch := true } else q) }
          | some r1, some r2 =>
            if r2 = own then settle (countDisagree (endCompare s t) (q.checkTile.getD 0) c q)
            else if r2 = r1 then settle (countDisagree (endCompare (adoptResult s t c r1) t) t c q)
            else
              let (n, s1) := takeFree s
              abortTask s1 c.task { cause := Config.freeNat n % 256, tile := t, pc := c.pc, halt := 0, addr := 0 })

/-! ## The router unit (R317 to R320) -/

/-- Is logit a greater than b: NaN below −∞, −0 equal to +0 (R318)? -/
def logitGt (a b : W32) : Bool :=
  match dec32 a, dec32 b with
  | .nan, _ => false
  | _, .nan => true
  | x, y => fltX y x

/-- Insert an expert behind those of equal or greater value. -/
def insertExp (v : Nat → W32) (e : Nat) : List Nat → List Nat
  | [] => [e]
  | x :: r => if logitGt (v e) (v x) then e :: x :: r else x :: insertExp v e r

/-- The experts of a row: the K of greatest value, the lower index first of equal ones. -/
def chooseExperts (v : Nat → W32) (e k : Nat) : List Nat :=
  ((List.range e).foldl (fun l x => insertExp v x l) []).take k

/-- An FP32 word of a tile's Caldera. -/
def calWord (s : State) (t off : Nat) : W32 := BitVec.ofNat 32 (leNat (devRead s (calAddr t off) 4))

/-- Is a row present: a word that is not zero, or no presence words? -/
def rowPresent (s : State) (t : Nat) (x : Site) (r : Nat) : Bool :=
  x.pres = 0xFFFFFFFF || (calWord s t (x.pres + 4 * r)).toNat % 2 ^ 31 ≠ 0

/-- The choices of a row. -/
def rowChoices (s : State) (t : Nat) (x : Site) (r : Nat) : List Nat :=
  if rowPresent s t x r then chooseExperts (fun e => calWord s t (x.logits + (r * x.e + e) * 4)) x.e x.k else []

/-- A list of 16-bit values padded with 0xFFFF. -/
def padFF (n : Nat) (l : List Nat) : List Byte :=
  ((l ++ List.replicate n 0xFFFF).take n).flatMap (leBytes 2)

/-- The descriptor of a chosen expert: the template with SRC and COUNT (R317, R319). -/
def expertDesc (s : State) (p : Nat) (x : Site) (e : Nat) : List Byte :=
  let ent := dpaRead s (funcRegions s (p + 1)) (x.exptab + 16 * e) 16
  let len := leAt x.template 4 4
  x.template.take 8 ++ leBytes 8 (leAt ent 0 8) ++ (x.template.drop 16).take 8
    ++ leBytes 4 (cdiv (leAt ent 8 4) len) ++ x.template.drop 28

/-- The output area of a site (R319). -/
def routeBytes (s : State) (p t : Nat) (x : Site) (cs : List (List Nat)) : List Byte :=
  let nr := cs.length
  let nx := (List.range x.e).filter (fun e => cs.any (fun c => c.elem e))
  let head := leBytes 4 nx.length ++ List.replicate 4 0 ++ padFF 256 nx
  let gap := List.replicate (576 - 8 - 512) (0 : Byte)
  let choices := cs.flatMap (padFF 8)
  let logits := ((List.range nr).zip cs).flatMap (fun rc =>
    ((rc.2.map (fun e => calWord s t (x.logits + (rc.1 * x.e + e) * 4))) ++ List.replicate 8 0).take 8 |>.flatMap
      (fun w => leBytes 4 w.toNat))
  let sel := nx.flatMap (fun e => cs.map (fun c => if c.elem e then (1 : Byte) else 0))
  let body := head ++ gap ++ choices ++ logits ++ sel
  padTo 64 body ++ nx.flatMap (expertDesc s p x)

/-- Bit mask of a list of experts. -/
def expertMask (l : List Nat) : Nat := l.foldl (fun m e => m ||| 2 ^ e) 0

/-- Run a site: write its output in every tile of the share on the cluster, add 1 to OUT_BAR, keep the rows' experts. -/
def runSite (s : State) (k : Nat) (x : Task) (j : Job) (n : Nat) (st : Site) : State :=
  let t := 8 * x.cluster + st.ltile
  let cs := (List.range x.rows.length).map (rowChoices s t st)
  let out := routeBytes s j.part t st cs
  let s1 := forAll s (shareOn j x.cluster) (fun s u => devWrite s (asWrites (calAddr u st.out) out))
  addBars (setTask s1 k (fun y => { y with
    sites := y.sites ++ [n],
    rows := (y.rows.zip cs).map (fun rc => { rc.1 with experts := rc.1.experts ||| expertMask rc.2 }) })) k [(st.outBar, 1)]

/-- The first uncorrectable word among a site's logits and presence words. -/
def siteBad (s : State) (x : Task) (st : Site) : Option Nat :=
  let t := 8 * x.cluster + st.ltile
  let pres := if st.pres = 0xFFFFFFFF then [] else addrs (calAddr t st.pres) (4 * x.rows.length)
  (addrs (calAddr t st.logits) (4 * st.e * x.rows.length) ++ pres).find? (isBad s)

/-- ROUTE_SITE: a site of an executing task runs once, when IN_BAR has reached IN_CNT (R318, R320). -/
def execRouteSite (task : Nat) (site : Nat) (s : State) : Out :=
  .next (match getTask s task with
    | none => s
    | some x => match getJob s x.job with
      | none => s
      | some j => match j.sites[site]? with
        | none => s
        | some st =>
          let t := (x.pos.head?).elim 0 (·.tile)
          let ab (c a : Nat) := abortTask s task { cause := c, tile := t, pc := 0, halt := 0, addr := a }
          if x.state ≠ .executing || x.sites.elem site then s
          else if 32 ≤ st.inBar || 32 ≤ st.outBar then ab 0x16 0
          else if (tGet x.bars st.inBar).getD 0 < st.inCnt then s
          else match siteBad s x st with
            | some a => ab (badCause 0xFF a) a
            | none => runSite s task x j site st)

end Sys2Proof.Machine
end

