-- ==== Sys2Proof/Machine/Dispatch.lean ====
section
/-! DEFINITION. The dispatch of the commands: one arm for each constructor, each a direct call of that command's
meaning. -/

namespace Sys2Proof.Machine

def exec (i : Instr) (s : State) : Host.Outcome State Fault Refusal :=
  match i with
  -- MATRIX (R77)
  | .mxeWload t a => Sys2Proof.Machine.execMxeWload t a s
  | .mxeMma t a => Sys2Proof.Machine.execMxeMma t a s
  | .mxeDrain t a => Sys2Proof.Machine.execMxeDrain t a s
  -- VECTOR (R124)
  | .vadd t a => Sys2Proof.Machine.execVadd t a s
  | .vsub t a => Sys2Proof.Machine.execVsub t a s
  | .vmul t a => Sys2Proof.Machine.execVmul t a s
  | .vfma t a => Sys2Proof.Machine.execVfma t a s
  | .vdiv t a => Sys2Proof.Machine.execVdiv t a s
  | .vmin t a => Sys2Proof.Machine.execVmin t a s
  | .vmax t a => Sys2Proof.Machine.execVmax t a s
  | .vrcp t a => Sys2Proof.Machine.execVrcp t a s
  | .vrsqrt t a => Sys2Proof.Machine.execVrsqrt t a s
  | .vexp t a => Sys2Proof.Machine.execVexp t a s
  | .vexp2 t a => Sys2Proof.Machine.execVexp2 t a s
  | .vlog t a => Sys2Proof.Machine.execVlog t a s
  | .vtanh t a => Sys2Proof.Machine.execVtanh t a s
  | .vsigm t a => Sys2Proof.Machine.execVsigm t a s
  | .vgelu t a => Sys2Proof.Machine.execVgelu t a s
  | .vsilu t a => Sys2Proof.Machine.execVsilu t a s
  | .vabs t a => Sys2Proof.Machine.execVabs t a s
  | .vneg t a => Sys2Proof.Machine.execVneg t a s
  | .vcmp t a => Sys2Proof.Machine.execVcmp t a s
  | .vsel t a => Sys2Proof.Machine.execVsel t a s
  | .vcvtF2i t a => Sys2Proof.Machine.execVcvtF2i t a s
  | .vcvtI2f t a => Sys2Proof.Machine.execVcvtI2f t a s
  | .vqnt t a => Sys2Proof.Machine.execVqnt t a s
  | .viadd t a => Sys2Proof.Machine.execViadd t a s
  | .visub t a => Sys2Proof.Machine.execVisub t a s
  | .vimul t a => Sys2Proof.Machine.execVimul t a s
  | .viota t a => Sys2Proof.Machine.execViota t a s
  | .vred t a => Sys2Proof.Machine.execVred t a s
  | .vscan t a => Sys2Proof.Machine.execVscan t a s
  | .vperm t a => Sys2Proof.Machine.execVperm t a s
  | .vbci t a => Sys2Proof.Machine.execVbci t a s
  | .vbce t a => Sys2Proof.Machine.execVbce t a s
  | .vmov t a => Sys2Proof.Machine.execVmov t a s
  | .vld t a => Sys2Proof.Machine.execVld t a s
  | .vst t a => Sys2Proof.Machine.execVst t a s
  | .vgath t a => Sys2Proof.Machine.execVgath t a s
  | .vlds t a => Sys2Proof.Machine.execVlds t a s
  | .vsts t a => Sys2Proof.Machine.execVsts t a s
  | .mand t a => Sys2Proof.Machine.execMand t a s
  | .mor t a => Sys2Proof.Machine.execMor t a s
  | .mxor t a => Sys2Proof.Machine.execMxor t a s
  | .mnot t a => Sys2Proof.Machine.execMnot t a s
  | .mfill t a => Sys2Proof.Machine.execMfill t a s
  | .mpop t a => Sys2Proof.Machine.execMpop t a s
  | .vgeom t a => Sys2Proof.Machine.execVgeom t a s
  | .vfclr t a => Sys2Proof.Machine.execVfclr t a s
  -- SCAN (R269)
  | .scan t a => Sys2Proof.Machine.execScan t a s
  | .srmask t a => Sys2Proof.Machine.execSrmask t a s
  | .sst t a => Sys2Proof.Machine.execSst t a s
  -- ATTN (R346)
  | .attnInit t a => Sys2Proof.Machine.execAttnInit t a s
  | .attnStep t a => Sys2Proof.Machine.execAttnStep t a s
  | .attnFin t a => Sys2Proof.Machine.execAttnFin t a s
  | .attnMerge t a => Sys2Proof.Machine.execAttnMerge t a s
  | .attnBwd t a => Sys2Proof.Machine.execAttnBwd t a s
  | .attnFum t a => Sys2Proof.Machine.execAttnFum t a s
  | .attnBinit t a => Sys2Proof.Machine.execAttnBinit t a s
  | .fumaroleDone die => Sys2Proof.Machine.execFumaroleDone die s
  -- CTRL, SYNC, XFER (R181, R184, R185)
  | .nop t a => Sys2Proof.Machine.execNop t a s
  | .loop t a => Sys2Proof.Machine.execLoop t a s
  | .br t a => Sys2Proof.Machine.execBr t a s
  | .brf t a => Sys2Proof.Machine.execBrf t a s
  | .brw t a => Sys2Proof.Machine.execBrw t a s
  | .commit t a => Sys2Proof.Machine.execCommit t a s
  | .halt t a => Sys2Proof.Machine.execHalt t a s
  | .barwait t a => Sys2Proof.Machine.execBarwait t a s
  | .barsig t a => Sys2Proof.Machine.execBarsig t a s
  | .semwait t a => Sys2Proof.Machine.execSemwait t a s
  | .semsig t a => Sys2Proof.Machine.execSemsig t a s
  | .swap t a => Sys2Proof.Machine.execSwap t a s
  | .xreq t a => Sys2Proof.Machine.execXreq t a s
  | .xwait t a => Sys2Proof.Machine.execXwait t a s
  | .barrierReached t => Sys2Proof.Machine.execBarrierReached t s
  | .semwaitGrant job sem => Sys2Proof.Machine.execSemwaitGrant job sem s
  -- tasks and commands
  | .schedulingStep job read => Sys2Proof.Machine.execSchedulingStep job read s
  | .commandStart job cluster => Sys2Proof.Machine.execCommandStart job cluster s
  | .watchdogExpiry t => Sys2Proof.Machine.execWatchdogExpiry t s
  | .stageCommit t => Sys2Proof.Machine.execStageCommit t s
  | .taskCommit task => Sys2Proof.Machine.execTaskCommit task s
  | .windowEnd part window => Sys2Proof.Machine.execWindowEnd part window s
  | .cycleTableSwitch part => Sys2Proof.Machine.execCycleTableSwitch part s
  | .rerunStart t => Sys2Proof.Machine.execRerunStart t s
  | .checkRunStart t => Sys2Proof.Machine.execCheckRunStart t s
  | .checkCompare t => Sys2Proof.Machine.execCheckCompare t s
  | .routeSite task site => Sys2Proof.Machine.execRouteSite task site s
  -- Geyser
  | .slabIssue cluster xid => Sys2Proof.Machine.execSlabIssue cluster xid s
  | .mergeWaitExpiry cluster xid => Sys2Proof.Machine.execMergeWaitExpiry cluster xid s
  | .transactionLanded cluster xid found => Sys2Proof.Machine.execTransactionLanded cluster xid found s
  | .placementMove cluster base k dest how => Sys2Proof.Machine.execPlacementMove cluster base k dest how s
  | .spillMove cluster base k dest err => Sys2Proof.Machine.execSpillMove cluster base k dest err s
  -- Orchard feeds and completions
  | .feedDb fn ring value => Sys2Proof.Machine.execFeedDb fn ring value s
  | .feedDescriptor fn ring r => Sys2Proof.Machine.execFeedDescriptor fn ring r s
  | .payloadLanded stream ok => Sys2Proof.Machine.execPayloadLanded stream ok s
  | .completionPost job ring => Sys2Proof.Machine.execCompletionPost job ring s
  | .ringHeadPoll job ring => Sys2Proof.Machine.execRingHeadPoll job ring s
  -- page unit
  | .kvFlush stream => Sys2Proof.Machine.execKvFlush stream s
  | .swapOutLanded stream ok => Sys2Proof.Machine.execSwapOutLanded stream ok s
  | .swapInLanded stream ok => Sys2Proof.Machine.execSwapInLanded stream ok s
  | .autoSwapIn stream => Sys2Proof.Machine.execAutoSwapIn stream s
  -- Tyrax work that ends or repeats
  | .tableLoadResume fn tag => Sys2Proof.Machine.execTableLoadResume fn tag s
  | .commandTimeout fn tag => Sys2Proof.Machine.execCommandTimeout fn tag s
  | .jobRelease job => Sys2Proof.Machine.execJobRelease job s
  | .audit => Sys2Proof.Machine.execAudit s
  | .partZeroDone part => Sys2Proof.Machine.execPartZeroDone part s
  -- TDM
  | .tdmFrame port time bclks pins => Sys2Proof.Machine.execTdmFrame port time bclks pins s
  | .tdmHold port time => Sys2Proof.Machine.execTdmHold port time s
  | .gapTick port => Sys2Proof.Machine.execGapTick port s
  -- rings
  | .submissionFetch fn r => Sys2Proof.Machine.execSubmissionFetch fn r s
  | .eventRingWrite fn => Sys2Proof.Machine.execEventRingWrite fn s
  -- scrub, retraining
  | .patrolScrub t found => Sys2Proof.Machine.execPatrolScrub t found s
  | .hbmScrub stack sector found => Sys2Proof.Machine.execHbmScrub stack sector found s
  | .correctedReport utype unit => Sys2Proof.Machine.execCorrectedReport utype unit s
  | .stackRetrain stack => Sys2Proof.Machine.execStackRetrain stack s
  | .retrainDone stack ok => Sys2Proof.Machine.execRetrainDone stack ok s
  -- firmware and management
  | .fwComponentSwitch ctype ok => Sys2Proof.Machine.execFwComponentSwitch ctype ok s
  | .tyraxWatchdog => Sys2Proof.Machine.execTyraxWatchdog s
  | .tyraxReady => Sys2Proof.Machine.execTyraxReady s
  | .bootVerify => Sys2Proof.Machine.execBootVerify s
  | .trialBootTimeout => Sys2Proof.Machine.execTrialBootTimeout s
  | .logFlush => Sys2Proof.Machine.execLogFlush s
  | .sensorSample x value => Sys2Proof.Machine.execSensorSample x value s
  -- clocks and power
  | .crystalStable kHz => Sys2Proof.Machine.execCrystalStable kHz s
  | .crystalFailTimeout => Sys2Proof.Machine.execCrystalFailTimeout s
  | .freqCheck pll ppm => Sys2Proof.Machine.execFreqCheck pll ppm s
  | .fmeasStart value => Sys2Proof.Machine.execFmeasStart value s
  | .fmeasDone count => Sys2Proof.Machine.execFmeasDone count s
  | .supplySample mV mA => Sys2Proof.Machine.execSupplySample mV mA s
  | .drainComplete => Sys2Proof.Machine.execDrainComplete s
  | .powerOn => Sys2Proof.Machine.execPowerOn s
  | .thermalTick die => Sys2Proof.Machine.execThermalTick die s
  | .thermalTrip die => Sys2Proof.Machine.execThermalTrip die s
  | .powerCapTick => Sys2Proof.Machine.execPowerCapTick s
  | .tileSleep t => Sys2Proof.Machine.execTileSleep t s
  | .sliceDeepSleep slice => Sys2Proof.Machine.execSliceDeepSleep slice s
  | .phase1Done t pass => Sys2Proof.Machine.execPhase1Done t pass s
  | .phase2Done cluster failed => Sys2Proof.Machine.execPhase2Done cluster failed s
  -- resets and the link
  | .mgRstN low => Sys2Proof.Machine.execMgRstN low s
  | .hxPerstN => Sys2Proof.Machine.execHxPerstN s
  | .linkDown => Sys2Proof.Machine.execLinkDown s
  | .flr fn => Sys2Proof.Machine.execFlr fn s
  | .ptmDialog ok offset => Sys2Proof.Machine.execPtmDialog ok offset s
  | .ptmTimeout => Sys2Proof.Machine.execPtmTimeout s
  | .ideFailure stream => Sys2Proof.Machine.execIdeFailure stream s
  | .spdmRequest msg => Sys2Proof.Machine.execSpdmRequest msg s
  | .mctpControl msg => Sys2Proof.Machine.execMctpControl msg s
  | .pldmMonitoring x => Sys2Proof.Machine.execPldmMonitoring x s
  | .pldmFirmwareUpdate req => Sys2Proof.Machine.execPldmFirmwareUpdate req s
  | .logRead first count => Sys2Proof.Machine.execLogRead first count s
  | .mpPowerCap watts => Sys2Proof.Machine.execMpPowerCap watts s
  | .mpFwRollback defer => Sys2Proof.Machine.execMpFwRollback defer s
  | .mpRegisterRead offset => Sys2Proof.Machine.execMpRegisterRead offset s
  | .mpResetRequest => Sys2Proof.Machine.execMpResetRequest s
  -- ring registers
  | .sqEnable fn => Sys2Proof.Machine.execSqEnable fn s
  | .sqDisable fn => Sys2Proof.Machine.execSqDisable fn s
  | .cqEnable fn => Sys2Proof.Machine.execCqEnable fn s
  | .cqDisable fn => Sys2Proof.Machine.execCqDisable fn s
  | .evtEnable fn => Sys2Proof.Machine.execEvtEnable fn s
  | .evtDisable fn => Sys2Proof.Machine.execEvtDisable fn s
  | .dciSqTail fn value => Sys2Proof.Machine.execDciSqTail fn value s
  | .dciCqHead fn value => Sys2Proof.Machine.execDciCqHead fn value s
  | .evtRingHead fn value => Sys2Proof.Machine.execEvtRingHead fn value s
  | .msixUnmask fn vec => Sys2Proof.Machine.execMsixUnmask fn vec s
  -- registers
  | .shadowedConfigWrite b offset value => Sys2Proof.Machine.execShadowedConfigWrite b offset value s
  | .registerWrite b offset half value => Sys2Proof.Machine.execRegisterWrite b offset half value s
  | .pwrSupplyRead => Sys2Proof.Machine.execPwrSupplyRead s
  | .tleMxeCntClr t value => Sys2Proof.Machine.execTleMxeCntClr t value s
  | .tleVecCntClr t value => Sys2Proof.Machine.execTleVecCntClr t value s
  | .tleCntClr t value => Sys2Proof.Machine.execTleCntClr t value s
  | .tleAttCntClr t value => Sys2Proof.Machine.execTleAttCntClr t value s
  | .geyCntClr cluster value => Sys2Proof.Machine.execGeyCntClr cluster value s
  | .orcCntClr part value => Sys2Proof.Machine.execOrcCntClr part value s
  | .orcKvCntClr part value => Sys2Proof.Machine.execOrcKvCntClr part value s
  | .mgtPartCntClr part value => Sys2Proof.Machine.execMgtPartCntClr part value s
  | .tdmCntClr port value => Sys2Proof.Machine.execTdmCntClr port value s
  | .pwrCntClr value => Sys2Proof.Machine.execPwrCntClr value s
  -- DCI commands (R539)
  | .devQuery h code index buf => Sys2Proof.Machine.execDevQuery h code index buf s
  | .partCreate h slices quota => Sys2Proof.Machine.execPartCreate h slices quota s
  | .partResize h slices quota => Sys2Proof.Machine.execPartResize h slices quota s
  | .partDestroy h => Sys2Proof.Machine.execPartDestroy h s
  | .partCycleTable h buf => Sys2Proof.Machine.execPartCycleTable h buf s
  | .jobLoad h klen kgi mask => Sys2Proof.Machine.execJobLoad h klen kgi mask s
  | .jobStart h job => Sys2Proof.Machine.execJobStart h job s
  | .jobStop h job => Sys2Proof.Machine.execJobStop h job s
  | .streamOpen h dclass sr src prio job irunits cring exitThr driftLimit tag tokAddr ntok => Sys2Proof.Machine.execStreamOpen h dclass sr src prio job irunits cring exitThr driftLimit tag tokAddr ntok s
  | .streamFeed h desc => Sys2Proof.Machine.execStreamFeed h desc s
  | .streamPause h stream => Sys2Proof.Machine.execStreamPause h stream s
  | .streamResume h stream => Sys2Proof.Machine.execStreamResume h stream s
  | .streamClose h stream discard => Sys2Proof.Machine.execStreamClose h stream discard s
  | .streamQuery h stream clrDrift buf => Sys2Proof.Machine.execStreamQuery h stream clrDrift buf s
  | .prefixInsert h stream n tokAddr => Sys2Proof.Machine.execPrefixInsert h stream n tokAddr s
  | .prefixDrop h job n tokAddr => Sys2Proof.Machine.execPrefixDrop h job n tokAddr s
  | .kvSwapOut h stream => Sys2Proof.Machine.execKvSwapOut h stream s
  | .kvSwapIn h stream => Sys2Proof.Machine.execKvSwapIn h stream s
  | .portConfig h port buf => Sys2Proof.Machine.execPortConfig h port buf s
  | .portStart h port => Sys2Proof.Machine.execPortStart h port s
  | .portStop h port => Sys2Proof.Machine.execPortStop h port s
  | .portGroup h members op => Sys2Proof.Machine.execPortGroup h members op s
  | .cfgStage h buf => Sys2Proof.Machine.execCfgStage h buf s
  | .cfgCommit h base => Sys2Proof.Machine.execCfgCommit h base s
  | .cfgRevert h base => Sys2Proof.Machine.execCfgRevert h base s
  | .checkStep h stream fum => Sys2Proof.Machine.execCheckStep h stream fum s
  | .checkTile h tile mask keep => Sys2Proof.Machine.execCheckTile h tile mask keep s
  | .checkTileDone tile failed => Sys2Proof.Machine.execCheckTileDone tile failed s
  | .attestQuote h nonce buf => Sys2Proof.Machine.execAttestQuote h nonce buf s
  | .idCert h index buf cap => Sys2Proof.Machine.execIdCert h index buf cap s
  | .fwStage h img len => Sys2Proof.Machine.execFwStage h img len s
  | .fwActivate h defer => Sys2Proof.Machine.execFwActivate h defer s
  | .fwRollback h defer => Sys2Proof.Machine.execFwRollback h defer s
  | .powerCap h cap => Sys2Proof.Machine.execPowerCap h cap s
  | .tableLoad h kind job flags rgen gen table => Sys2Proof.Machine.execTableLoad h kind job flags rgen gen table s
  -- the rest of the host interface, and reserved opcodes
  | .configurationRequest r => Sys2Proof.Machine.execConfigurationRequest r s
  | .linkTrained width rate => Sys2Proof.Machine.execLinkTrained width rate s
  | .pllLock p => Sys2Proof.Machine.execPllLock p s
  | .pllLosesLock p => Sys2Proof.Machine.execPllLosesLock p s
  | .h2dSnoop addr data => Sys2Proof.Machine.execH2dSnoop addr data s
  | .reservedOpcode t word => Sys2Proof.Machine.execReservedOpcode t word s

end Sys2Proof.Machine
end

