-- ==== Sys2Proof/Safety.lean ====
section
/-! DEFINITION. What counts as a good state and a safe run, and the words that the statements use of a tile's command, of a
DCI command and of a unit that nothing touches. -/

namespace Sys2Proof.Machine

/-! ## Good states -/

/-- The canonical form of an engine's registers, masks and banks. -/
def Engine.Wf (g : Engine) : Prop :=
  sWf 0 g.v ∧ sWf false g.m ∧ sWf 0 g.bank0.ent ∧ sWf 0 g.bank1.ent

/-- The units that the package has (R14, R17, R19, R457, R481, R514): 13 functions, 13 scopes, 12 partitions, 96 tiles,
12 clusters, 12 slices, 2 dies, 8 ports. -/
def State.Units (s : State) : Prop :=
  s.funcs.length = 13 ∧ s.scopes.length = 13 ∧ s.parts.length = 12 ∧ s.tiles.length = 96 ∧ s.geys.length = 12
    ∧ s.slices.length = 12 ∧ s.dies.length = 2 ∧ s.ports.length = 8

/-- The invariant of every step: device memory, host memory and every tile's engine in canonical form, and no unit lost. -/
def State.Good (s : State) : Prop :=
  Memory.wf s.mem ∧ Memory.wf s.host ∧ s.Units ∧ ∀ x ∈ s.tiles, x.eng.Wf

/-! ## Safe runs -/

/-- A sample within the absolute maximum ratings (R687). Every other command is within them. -/
def Instr.Rated : Instr → Prop
  | .supplySample mV _ => -60000 ≤ mV ∧ mV ≤ 80000
  | .sensorSample (.junction _ _) (some v) => v ≤ 500 ∨ 600 < v
  | .sensorSample (.ioJunction _) (some v) => v ≤ 500 ∨ 600 < v
  | _ => True

/-- Every command of a queue is within the ratings: a run of such a queue never stops. -/
def State.Rated (s : State) : Prop := ∀ c ∈ s.pending, Instr.Rated c

/-! ## A tile's command -/

/-- Where a command's program goes on after the instruction at its PC, and the loops it is then in (R182). -/
def nextPc (c : Cmd) : Nat := (stepLoops c.loops c.pc).1
def nextLoops (c : Cmd) : List LoopSt := (stepLoops c.loops c.pc).2

/-- The command after an instruction that does not branch. -/
def moved (c : Cmd) : Cmd := { dispatched c with pc := nextPc c, loops := nextLoops c }

/-- The same, of the command that dispatch and its writes have left. -/
def movedOn (c : Cmd) : Cmd := { c with pc := nextPc c, loops := nextLoops c }

/-- Tile t runs a command that dispatches an instruction now, and its program goes on behind it: its sequencer is clocked (R178, R181,
R639). -/
def Runs (s : State) (t : Nat) (c : Cmd) : Prop :=
  getCmd s t = some c ∧ dispatches s t c = true ∧ inStage c (nextPc c) = true

/-- Passes may begin on both engines of a tile: a scoreboard entry is free (R209), the die is not throttled to a stop (R620), and the
engines are clocked (R639). -/
def passesBegin (s : State) (t : Nat) : Bool := boardFree s t && decide (effLevel s (t / 48) < 8) && (clocked s t 1 && clocked s t 2)

/-- It runs one that dispatches an engine instruction now and starts it: passes may begin, and no engine instruction before it waits or
runs (R178 to R180). -/
def EngineRuns (s : State) (t : Nat) (c : Cmd) : Prop := Runs s t c ∧ passesBegin s t = true ∧ enginesDone c = true

/-- The state in which an instruction of tile t has its effect. -/
def atDispatch (s : State) (t : Nat) (c : Cmd) : State := setCmd s t (fun _ => dispatched c)

/-- The engine of a tile. -/
def engOf (s : State) (t : Nat) : Engine := (getTile s t).eng

/-- After an instruction of tile t that touches its engine and its vector counters only: `g` is the new engine. -/
def engineStep (s : State) (t : Nat) (c : Cmd) (g : Engine) (cnt : List Nat) : State :=
  setTile s t (fun x => { x with cmd := some (moved c), eng := g, vecCnt := cnt })

/-- After an instruction of tile t that changes fields of its tile only. -/
def tileStep (s : State) (t : Nat) (c : Cmd) (f : Tile → Tile) : State := setTile s t (fun x => { f x with cmd := some (moved c) })

/-- After an instruction of tile t whose writes have led to the state and the command `c`: `f` changes fields of its tile. -/
def storeStep (s : State) (t : Nat) (c : Cmd) (f : Tile → Tile) : State := setTile s t (fun x => { f x with cmd := some (movedOn c) })

/-- TLE_VEC_CNT after an instruction that issued for `busy` core cycles, with lanes that raised RANGE and rows that raised EMPTY
(R138, R139). -/
def vecCounted (s : State) (t busy range empty : Nat) : List Nat :=
  cntAt (cntAt (cntAt (getTile s t).vecCnt 0 busy) 4 range) 5 empty

/-! ## Registers -/

/-- The new contents of a register: element e below n is `f e` where active, 0 or the old value elsewhere (R116, R117). -/
def LanesHold (g g' : Engine) (a : VArgs) (f : Nat → W32) : Prop :=
  ∀ e, e < a.n.toNat → vGet g' a.vd.toNat e =
    if vActive g a.men a.msk.toNat e then f e else if a.mz then 0 else vGet g a.vd.toNat e

/-- The new contents of a mask. -/
def BitsHold (g g' : Engine) (a : VArgs) (f : Nat → Bool) : Prop :=
  ∀ e, e < a.n.toNat → mGet g' (a.vd.toNat % 8) e =
    if vActive g a.men a.msk.toNat e then f e else if a.mz then false else mGet g (a.vd.toNat % 8) e

/-- VFLAGS: a flag is set where it was set or an active element raises it (R65). -/
def FlagsHold (g g' : Engine) (a : VArgs) (f : Nat → Flags) : Prop :=
  ∀ k, g'.flags.getLsbD k = (g.flags.getLsbD k
    || (List.range a.n.toNat).any (fun e => vActive g a.men a.msk.toNat e && (f e).getLsbD k))

/-- Nothing of the engine but elements below n of register r and the flags. -/
def OnlyReg (g g' : Engine) (r n : Nat) : Prop :=
  (∀ q e, e < 4096 → q ≠ r ∨ n ≤ e → vGet g' q e = vGet g q e)
    ∧ g' = { g with v := g'.v, nar := g'.nar, flags := g'.flags }

/-- Nothing of the engine but bits below n of mask r. -/
def OnlyMask (g g' : Engine) (r n : Nat) : Prop :=
  (∀ q e, e < 4096 → q ≠ r ∨ n ≤ e → mGet g' q e = mGet g q e) ∧ g' = { g with m := g'.m }

/-- Element e of the sources of layout V. -/
def srcA (s : State) (t : Nat) (a : VArgs) (e : Nat) : W32 := vGet (engOf s t) a.va.toNat e
def srcB (s : State) (t : Nat) (a : VArgs) (e : Nat) : W32 := vGet (engOf s t) a.vb.toNat e
def srcC (s : State) (t : Nat) (a : VArgs) (e : Nat) : W32 := vGet (engOf s t) a.vc.toNat e

/-- An element-wise instruction goes on with results `f` of the fields that R124 gives it: the destination's active elements, the
flags they raise, and nothing else of the engine; one pass for every 512 elements is counted, and the lanes out of range. -/
def ElementWise (s : State) (t : Nat) (c : Cmd) (a : VArgs) (i : Instr) (f : Nat → W32 × Flags) : Prop :=
  ∃ g' n, exec i s = .next (engineStep s t c g' (vecCounted s t (passes a.n.toNat) n 0))
    ∧ LanesHold (engOf s t) g' a (fun e => (f e).1) ∧ FlagsHold (engOf s t) g' a (fun e => (f e).2)
    ∧ OnlyReg (engOf s t) g' a.vd.toNat a.n.toNat

/-- The same for an instruction that writes a mask and raises no flag; `busy` is how long it issues. -/
def MaskWise (s : State) (t : Nat) (c : Cmd) (a : VArgs) (busy : Nat) (i : Instr) (f : Nat → Bool) : Prop :=
  ∃ g', exec i s = .next (engineStep s t c g' (vecCounted s t busy 0 0))
    ∧ BitsHold (engOf s t) g' a f ∧ OnlyMask (engOf s t) g' (a.vd.toNat % 8) a.n.toNat

/-- The value of lane w of row q of a SCAN after position p: the row's initial value, then at each position a reset to b or
x × h + b with one rounding (R271, R272, R274). -/
def scanH (a : ScanArgs) (g : Engine) (row q w : Nat) : Nat → W32
  | 0 => scanAt 0 (vGet g a.vc.toNat (q * a.w.toNat + w))
  | p + 1 => scanAt (p + 1) (scanH a g row q w p)
where
  scanAt (p : Nat) (h : W32) : W32 :=
    let e := q * row + p * a.w.toNat + w
    let x := if a.amode = 0 then vGet g a.va.toNat e else vGet g a.va.toNat w
    if a.ren && mGet g a.rmsk.toNat (q * (row / a.w.toNat) + p) then vGet g a.vb.toNat e else (ffma x h (vGet g a.vb.toNat e)).1

/-- The engine with an accumulator bank replaced and flags raised. -/
def withBank (g : Engine) (bank : Bool) (b : Bank) (f : Flags) : Engine := addFlags (putBank g bank b) f

/-! ## Memory of a command -/

/-- The engine's reads of a tile's Caldera by the instruction that tile t dispatches. -/
def readsOf (s : State) (t : Nat) (c : Cmd) (tile : Nat) : Reader := engRead (atDispatch s t c) t (dispatched c) tile 0x10

/-- n bytes at an offset of a tile's Caldera can be read by the command now: they end within 4 MiB, touch no FILL half of its own tile,
no XREQ still to complete and no instruction that waits in a queue writes them, and no word of them is uncorrectable (R87, R132, R207, R209, R648). -/
def Readable (s : State) (t : Nat) (c : Cmd) (tile off n : Nat) : Prop :=
  off + n ≤ 0x400000 ∧ (tile = t → fillHit c off n = false) ∧ rangeWritten s t c (calAddr tile off) n = false
    ∧ cmdBad s t c (calAddr tile off) n = none

/-- The sequencer can read n bytes at an offset of its own Caldera now: they end within 4 MiB, nothing before it has yet to write them, and
no word of them is uncorrectable; halves of pairs have no roles for it (R183, R207, R209, R648). -/
def SeqReads (s : State) (t : Nat) (c : Cmd) (off n : Nat) : Prop :=
  off + n ≤ 0x400000 ∧ rangeWritten s t c (calAddr t off) n = false ∧ cmdBad s t c (calAddr t off) n = none

/-- What the instruction that tile t dispatches can read, and the bytes that its engine reads there. -/
def CanRead (s : State) (t : Nat) (c : Cmd) (tile off n : Nat) : Prop := Readable (atDispatch s t c) t (dispatched c) tile off n
def readBytes (s : State) (t : Nat) (c : Cmd) (tile off n : Nat) : List Byte :=
  (addrs (calAddr tile off) n).map (engByte (atDispatch s t c) t (dispatched c))

/-- The byte at an address is the command's to write now (R190, R207), no XREQ still to complete and no instruction that waits in a queue reads or writes it (R209), and a unit
of WORK that is written for the first time has no home to be filled from, or nothing is uncorrectable (R192, R648). -/
def Storable (s : State) (t : Nat) (c : Cmd) (a : Nat) : Prop :=
  (∃ k x, writeKind s t c false a = .ok (k, x)
      ∧ (k = WKind.work → unitWritten c x = true ∨ shadowWin c (64 * (x / 64)) = none ∨ s.badWords = []))
    ∧ rangeWritten s t c a 1 = false ∧ rangeRead s t c a 1 = false

/-- n bytes from an offset of a tile's Caldera are there, and the instruction that tile t dispatches may write them. -/
def CanStore (s : State) (t : Nat) (c : Cmd) (tile : Nat) (off : Int) (n : Nat) : Prop :=
  0 ≤ off ∧ off + n ≤ 0x400000 ∧ ∀ i, i < n → Storable (atDispatch s t c) t (dispatched c) (calAddr tile off.toNat + i)

/-- The outcome of an instruction that stores `ws`: every write is made, and `f` changes fields of the tile beside them. Which of the bytes
belong to narrowed values is the model's own note of them (R284). -/
def Stores (s : State) (t : Nat) (c : Cmd) (i : Instr) (ws : List (Nat × Byte)) (drift : List (Nat × Nat × Nat))
    (f : Tile → Tile) : Prop :=
  ∃ s1 c1 nar, cmdWrites (atDispatch s t c) t (dispatched c) false ws = .ok (s1, c1)
    ∧ exec i s = .next (storeStep s1 t { noteStore c1 nar (ws.map Prod.fst) with drift := c1.drift ++ drift } f)

/-- Where the bytes of an instruction's writes go in memory, the first write first; `none` when one may not be made
(R190, R191). -/
def targets (s : State) (t : Nat) (c : Cmd) (viaX : Bool) (ws : List (Nat × Byte)) : Except Nat (List (WKind × Nat)) :=
  ws.mapM (fun w => writeKind s t c viaX w.1)

/-- The word that the sequencer of a tile reads at an offset of its own Caldera. -/
def seqWord (s : State) (t : Nat) (c : Cmd) (off : Nat) : Nat := leNat ((addrs (calAddr t off) 4).map (cmdByte s t c))

/-! ## Attention operands -/

/-- The context that an instruction would open, as far as the register rules of R349 look at it. -/
def regsOf (bwd : Bool) (qrows dh vo vs : Nat) : AttnCtx :=
  { bwd := bwd, qrows := qrows, dh := dh, qfmt := 0, kvfmt := 0, pfmt := 0, vo := vo, vs := vs, q := [], info := [], causal := false,
    scale := 0, dout := [], recs := [], blocks := [], merged := false }

/-- The key block of a context at an offset can be read, and its head is legal and of the context's formats (R339, R358). -/
def KeyReady (s : State) (t : Nat) (c : Cmd) (x : AttnCtx) (off : Nat) : Prop :=
  CanRead s t c t off (keyBlockLen x.dh x.kvfmt)
    ∧ let h := readBytes s t c t off 64
      keyHeadOk h = true ∧ leAt h 34 1 = x.kvfmt ∧ dhOf (leAt h 35 1) = x.dh

/-- The bias words of the latched copy can be read, and the rows name heads that it has (R341 to R343). -/
def BiasReady (s : State) (t : Nat) (c : Cmd) (info : List W32) : Prop :=
  infoOk (getTile s t).nbh info = true
    ∧ ∀ h b, h < (getTile s t).nbh → b < 256 → Readable s t c t (64 * biasBase s t c + 1024 * h + 4 * b) 4

/-- The bytes of a key block that Fumarole reads in a tile of the share: it reads the requesting tile as the command does, and another
tile as committed data (R365). -/
def fumByte (s : State) (t : Nat) (c : Cmd) (tile a : Nat) : Byte := if tile = t then engByte s t c a else cmdByte s t c a

def FumReads (s : State) (t : Nat) (c : Cmd) (tile off n : Nat) : Prop :=
  if tile = t then Readable s t c t off n
  else off + n ≤ 0x400000 ∧ (addrs (calAddr tile off) n).all (fun a => !isBad s a) = true

/-- Every input of a request can be read and is legal, and every result may be stored (R339, R341, R358, R364, R365). -/
def FumReady (s : State) (t : Nat) (c : Cmd) (q : FumCmd) : Prop :=
  let row := cdiv (q.dh * fmtBits q.qfmt) 8
  let bytes := fun off n => (addrs (calAddr t off) n).map (engByte s t c)
  Readable s t c t q.qiaddr (4 * q.nq)
    ∧ BiasReady s t c ((List.range q.nq).map (fun r => BitVec.ofNat 32 (leAt (bytes q.qiaddr (4 * q.nq)) (4 * r) 4)))
    ∧ (∀ r, r < q.nq → Readable s t c t (q.qaddr + r * row) row)
    ∧ Readable s t c t q.blist (8 * q.nb)
    ∧ (∀ i, i < q.nb → ∃ tile off,
        let a := leAt (bytes q.blist (8 * q.nb)) (8 * i) 8
        let h := (addrs (calAddr tile off) 64).map (fumByte s t c tile)
        placeOf a = .caldera tile off ∧ a % 64 = 0 ∧ ((getJob s c.job).elim [] (·.share)).elem tile = true
          ∧ FumReads s t c tile off 64 ∧ fumFmtOk (leAt h 34 1) = true ∧ keyHeadOk h = true ∧ dhOf (leAt h 35 1) = q.dh
          ∧ FumReads s t c tile off (keyBlockLen q.dh (leAt h 34 1)))
    ∧ (∀ i, i < 4 * q.nq * q.dh → workAddr s t + q.oaddr + i < calAddr t 0x400000 ∧ Storable s t c (workAddr s t + q.oaddr + i))
    ∧ (q.save = true → ∀ i, i < 8 * q.nq →
        workAddr s t + q.saddr + i < calAddr t 0x400000 ∧ Storable s t c (workAddr s t + q.saddr + i))

/-! ## Streams -/

/-- Nothing changes but stream i, whose entry is now `st`. -/
def OnlyStream (s s1 : State) (i : Nat) (st : Stream) : Prop :=
  getStream s1 i = some st ∧ (∀ k, k ≠ i → getStream s1 k = getStream s k) ∧ s1 = { s with streams := s1.streams }

/-! ## The page unit -/

/-- The page unit can read every byte for a partition: no uncorrectable word, no coded unit that does not decode, and host memory, where a
range is placed there, answers (R174, R175, R251, R505). -/
def PageMemory (s : State) (p : Nat) : Prop :=
  (∀ a, byteFault s (pageCluster s (p + 1)) p a = none)
    ∧ ∀ a, isHost (placedAt s (pageCluster s (p + 1)) a) = true → hostReadOk s (p + 1) = true

/-- There are frames for the pages of a window that lie in its image: for all of them, or for the one that it has (R383, R408). -/
def SwapInFits (s : State) (j : Nat) (k : KvJob) (v : Window) (w : Nat) : Prop :=
  (startSwapIn s j w).isSome = true
    ∨ ∃ x r, swappedRecs k v = [x] ∧ tGet k.recs x = some r ∧ ∃ sl ∈ sliceOrder k (homeSlice s v), freeRuns k sl r.pk ≠ []

/-- Every unit of a coded image of n bytes decodes (R170, R407). -/
def Decodes (s : State) (fn a n : Nat) : Prop :=
  ∀ u, u < n / 4096 →
    let hdr := dpaRead s (funcRegions s fn) (a + n + 16 * u) 16
    ∃ b, gcDecode hdr (dpaRead s (funcRegions s fn) (a + 4096 * u) (gcBodyLen hdr)) = .ok b

/-! ## DCI commands -/

/-- What the tables of R424, R534, R536, R537 and R539 say of a command: for the physical function only; with a TIMEOUT; with a PART;
with a device scope; whether its partition's existence is a condition of its own; whether a FAULTED partition allows it. -/
structure DciKind where
  pf : Bool := false
  tmo : Bool := false
  part : Bool := true
  dev : Bool := false
  exempt : Bool := false
  faulted : Bool := false
  deriving DecidableEq, Repr

/-- The header and the kind of a DCI command. -/
def Instr.dci : Instr → Option (DciHdr × DciKind)
  | .devQuery h _ _ _ => some (h, { part := false })
  | .partCreate h _ _ => some (h, { pf := true, exempt := true })
  | .partResize h _ _ | .partCycleTable h _ => some (h, { pf := true })
  | .partDestroy h => some (h, { pf := true, exempt := true, faulted := true })
  | .jobLoad h _ _ _ | .jobStart h _ | .jobStop h _ => some (h, {})
  | .streamOpen h _ _ _ _ _ _ _ _ _ _ _ _ | .streamFeed h _ | .streamPause h _ | .streamResume h _
  | .streamClose h _ _ => some (h, {})
  | .streamQuery h _ _ _ => some (h, { faulted := true })
  | .prefixInsert h _ _ _ | .prefixDrop h _ _ _ | .kvSwapOut h _ | .kvSwapIn h _ => some (h, {})
  | .portConfig h _ _ | .portStop h _ | .portGroup h _ _ => some (h, {})
  | .portStart h _ | .checkStep h _ _ | .tableLoad h _ _ _ _ _ _ => some (h, { tmo := true })
  | .cfgStage h _ | .cfgCommit h _ | .cfgRevert h _ | .checkTile h _ _ _ | .attestQuote h _ _ => some (h, { dev := true })
  | .idCert h _ _ _ => some (h, {})
  | .fwStage h _ _ | .fwActivate h _ | .fwRollback h _ | .powerCap h _ => some (h, { part := false, pf := true })
  | _ => none

/-- A buffer of n bytes at an address holds `b`: a region of the function that a command may name holds it and answers, with a tag free (R505, R513,
R535). -/
def BufReads (s : State) (h : DciHdr) (p : Option Nat) (a n : Nat) (b : List Byte) : Prop :=
  ∃ fn, bufFn s h p a n = some fn ∧ hostReadOk s fn = true ∧ tagFree s fn = true ∧ b = dpaRead s (funcRegions s fn) a n

/-- A buffer that must lie in a region of the partition holds `b` (R505, R513, R535, R556). -/
def PartReads (s : State) (p a n : Nat) (b : List Byte) : Prop :=
  (regionAt (funcRegions s (p + 1)) a n).isSome = true ∧ hostReadOk s (p + 1) = true ∧ tagFree s (p + 1) = true
    ∧ b = dpaRead s (funcRegions s (p + 1)) a n

/-- The commands that take their turn with those that change their partition's shape (R425, R565, R592). -/
def takesTurn (i : Instr) (h : DciHdr) : Bool :=
  partValue h false && match i with
    | .partCreate .. | .partResize .. | .partDestroy .. | .partCycleTable .. | .jobLoad .. | .jobStart .. | .jobStop ..
    | .cfgCommit .. | .cfgRevert .. | .attestQuote .. => true
    | _ => false

/-- Those that are answered although another is in progress: a table while one waits, JOB_LOAD while a resize runs, JOB_STOP of a job that
stops (R425, R440, R546, R549). -/
def atOnce (i : Instr) (h : DciHdr) (s : State) : Bool :=
  match i with
  | .partCycleTable .. => (getPart s (partOf h)).tableNext.isSome
  | .jobLoad .. => match (getPart s (partOf h)).shapeOp with | some (.resize ..) => true | _ => false
  | .jobStop _ j => (jobOf s (partOf h) j).any (fun x => x.state = .stopping)
  | _ => false

/-- The state after a command whose turn it was: it waits no more (R425). -/
def turnOver (i : Instr) (h : DciHdr) (s1 : State) : State :=
  if takesTurn i h then setPart s1 (partOf h) (shapeDone h) else s1

/-- The state after a command that waits for something (R524). -/
def nowWaits (i : Instr) (h : DciHdr) (s1 : State) : State := turnOver i h (setStage s1 h .waiting)

/-- A DCI command is carried out now: Tyrax runs, its entry has been fetched and none fetched before it is to be taken first, it is its turn
where R425 orders it, FENCE does not hold it, and the checks of R537 pass (R425, R524, R532, R537). -/
def Taken (i : Instr) (h : DciHdr) (s : State) : Prop :=
  ∃ k : DciKind, Instr.dci i = some (h, k) ∧ dciHeld s i h = false
    ∧ (takesTurn i h = true → atOnce i h s = true ∨ shapeTurn s h = true)
    ∧ (if k.part then partCheck s h k.pf k.tmo k.dev k.exempt k.faulted else plainCheck h k.pf) = none

end Sys2Proof.Machine
end

