-- ==== Sys2Proof/Certificates/Slice0/Obligations.lean ====
section
/-! DEFINITION. The statements about the model: what every step keeps, what stops, and for every command of the table where it
completes with its own effect. Each docstring names the rules of spec/ that it rests on. -/

open Sys2Proof Sys2Proof.Machine

/-! ## The machine -/

/-- A step runs the command at the front of the queue on the state with the queue's rest. -/
def Obligations.StepRunsFrontCommand : Prop :=
  ∀ (c : Instr) (rest : List Instr) (s : State),
    step { s with pending := c :: rest } = exec c { s with pending := rest }

/-- With no command waiting, device time advances by the increment of one XFAB cycle while the crystal is stable, and nothing
else changes (R614; that an empty queue is one cycle is the model's choice, notes/assumptions/1.md). -/
def Obligations.IdleStepAdvancesDeviceTime : Prop :=
  ∀ s : State, s.pending = [] → ∃ s', step s = .next s'
    ∧ s'.time.acc = s.time.acc + (if s.clk.xtalOk then s.time.incr else 0)
    ∧ s' = { s with time := { s.time with acc := s'.time.acc } }

/-- After reset memory and engines are in canonical form, every unit is there, and no command waits. -/
def Obligations.ResetIsGood : Prop :=
  State.Good State.reset ∧ State.reset.pending = []

/-- Every step keeps device memory, host memory and every tile's engine in canonical form, and every unit of the package: from
every such state, whatever command is in front. -/
def Obligations.EveryStepKeepsGood : Prop :=
  ∀ s s' : State, s.Good → step s = .next s' → s'.Good

/-- Every command within the absolute maximum ratings has a next state, in every state (R687 alone stops the model).
Beyond the ratings the model stops: an input voltage outside −60 V to 80 V, a junction reading over 125 °C that the sensor can
give (R687, R578).
Where a clause rests on a choice of the model it is that of notes/assumptions/9.md. -/
def Obligations.OnlyBeyondRatingsStops : Prop :=
  (∀ (c : Instr) (s : State), Instr.Rated c → ∃ s', exec c s = .next s')
  ∧ ((∀ (mV : Int) (mA : Nat) (s : State), mV < -60000 ∨ 80000 < mV → exec (.supplySample mV mA) s = .fault .beyondRatings)
        ∧ (∀ (die k : Nat) (v : Int) (s : State), 500 < v ∧ v ≤ 600 →
            exec (.sensorSample (.junction die k) (some v)) s = .fault .beyondRatings)
        ∧ (∀ (k : Nat) (v : Int) (s : State), 500 < v ∧ v ≤ 600 →
            exec (.sensorSample (.ioJunction k) (some v)) s = .fault .beyondRatings))

/-! ## VECTOR -/

/-- The arithmetic of one element: each active element is the operation of R124 on the elements of the sources as they were
before the instruction, and it raises that operation's flags.
The operations of one source: the fixed functions of R59 and R130, sign operations, conversion, and the move of a pattern.
Where a clause rests on a choice of the model it is that of notes/assumptions/5.md. -/
def Obligations.VectorArithmeticAndUnary : Prop :=
  (∀ (s : State) (t : Nat) (c : Cmd) (a : VArgs), EngineRuns s t c → (engOf s t).Wf → a.par = false →
     let A := srcA s t a
     let B := srcB s t a
     let C := srcC s t a
     (vFields a { va := true, vb := true } = true → ∀ p ∈ [(Instr.vadd t a, fadd), (.vsub t a, fsub), (.vmul t a, fmul), (.vdiv t a, fdiv),
         (.vmin t a, fmin), (.vmax t a, fmax), (.viadd t a, iadd), (.visub t a, isub), (.vimul t a, imul)],
       ElementWise s t c a p.1 (fun e => p.2 (A e) (B e)))
     ∧ (vFields a { va := true, vb := true, vc := true } = true →
       ElementWise s t c a (.vfma t a) (fun e => ffma (A e) (B e) (C e))))
  ∧ (∀ (s : State) (t : Nat) (c : Cmd) (a : VArgs), EngineRuns s t c → (engOf s t).Wf → a.par = false → vFields a { va := true } = true →
        ∀ p ∈ [(Instr.vrcp t a, funary .rcp), (.vrsqrt t a, funary .rsqrt), (.vexp t a, funary .exp), (.vexp2 t a, funary .exp2),
            (.vlog t a, funary .log), (.vtanh t a, funary .tanh), (.vsigm t a, funary .sigm), (.vgelu t a, funary .gelu),
            (.vsilu t a, funary .silu), (.vabs t a, fabs), (.vneg t a, fneg), (.vcvtI2f t a, i2f), (.vmov t a, fun w => (w, 0))],
          ElementWise s t c a p.1 (fun e => p.2 (srcA s t a e)))

/-- Selection, narrowing with the rounding of each element's row, index patterns and permutes (R49, R56 to R58, R124, R129). -/
def Obligations.VectorSelectAndConvert : Prop :=
  ∀ (s : State) (t : Nat) (c : Cmd) (a : VArgs), EngineRuns s t c → (engOf s t).Wf → a.par = false →
    let g := engOf s t
    let A := srcA s t a
    let mode := fun e => elemMode (vctx s c) g.geom a.n.toNat a.rmode.toNat a.site.toNat e
    (vFields a { va := true, vb := true, ms := true } = true →
      ElementWise s t c a (.vsel t a) (fun e => (if mGet g a.ms.toNat e then A e else srcB s t a e, 0)))
    ∧ (vFields a { va := true, rnd := true } = true → rowsOk (vctx s c) g.geom a.n.toNat a.rmode.toNat = true →
      ElementWise s t c a (.vcvtF2i t a) (fun e => f2i (mode e) (dec32 (A e))))
    ∧ (vFields a { va := true, rnd := true, sat := true, fmt := true } = true → fmtAct a.fmt.toNat = true →
      rowsOk (vctx s c) g.geom a.n.toNat a.rmode.toNat = true →
      ElementWise s t c a (.vqnt t a) (fun e => quantWord a.fmt.toNat (mode e) a.sat (A e)))
    ∧ (vFields a { sub := true, imm := true } = true → a.sub.toNat < 2 →
      ElementWise s t c a (.viota t a) (fun e =>
        satI32 (a.imm.toInt + (if a.sub = 0 then e else e % geoRow g.geom a.n.toNat : Nat))))
    ∧ (vFields a { va := true, vb := true } = true →
      ElementWise s t c a (.vperm t a) (fun e =>
        let i := (srcB s t a e).toInt
        if i < 0 ∨ (a.n.toNat : Int) ≤ i then (0, flRange) else (A i.toNat, 0)))
    ∧ (vFields a { imm := true } = true → ElementWise s t c a (.vbci t a) (fun _ => (a.imm, 0)))
    ∧ (vFields a { va := true, imm := true } = true →
      ElementWise s t c a (.vbce t a) (fun _ =>
        if a.n.toNat ≤ a.imm.toNat % 4096 then (0, flRange) else (A (a.imm.toNat % 4096), 0)))

/-- Masks: comparison, the logic of two masks, a fill, and the count of MPOP, which goes to element 0 whatever the mask
(R117, R124). -/
def Obligations.VectorMasks : Prop :=
  ∀ (s : State) (t : Nat) (c : Cmd) (a : VArgs), EngineRuns s t c → (engOf s t).Wf → a.par = false →
    let g := engOf s t
    let M := mGet g a.va.toNat
    (vFields a { va := true, vb := true, sub := true } = true → a.sub.toNat ≤ 5 → a.vd.toNat < 8 →
      MaskWise s t c a (passes a.n.toNat) (.vcmp t a) (fun e => fcmp a.sub.toNat (srcA s t a e) (srcB s t a e)))
    ∧ (vFields a { va := true, vb := true } = true → a.vd.toNat < 8 → a.va.toNat < 8 → a.vb.toNat < 8 →
      ∀ p ∈ [(Instr.mand t a, (· && ·)), (.mor t a, (· || ·)), (.mxor t a, (fun x y => x != y))],
        MaskWise s t c a 1 p.1 (fun e => p.2 (M e) (mGet g a.vb.toNat e)))
    ∧ (vFields a { va := true } = true → a.vd.toNat < 8 → a.va.toNat < 8 →
      MaskWise s t c a 1 (.mnot t a) (fun e => !M e))
    ∧ (vFields a { imm := true } = true → a.vd.toNat < 8 →
      MaskWise s t c a 1 (.mfill t a) (fun _ => a.imm.getLsbD 0))
    ∧ (vFields a { va := true } = true → a.va.toNat < 8 →
      ∃ g', exec (.mpop t a) s = .next (engineStep s t c g' (vecCounted s t 1 0 0))
        ∧ vGet g' a.vd.toNat 0 = BitVec.ofNat 32
          ((List.range a.n.toNat).filter (fun e => vActive g a.men a.msk.toNat e && M e)).length
        ∧ OnlyReg g g' a.vd.toNat 1 ∧ g'.flags = g.flags)

/-- VRED writes one result for each row to the first elements of VD, whatever the mask, and VSCAN the running combination of
each row to the active elements (R125, R128).
VGEOM sets the row geometry and VFCLR clears the flags that FMASK names; neither touches a register, and each issues for one
cycle (R118, R136, R138). -/
def Obligations.VectorRowsGeometryAndFlags : Prop :=
  (∀ (s : State) (t : Nat) (c : Cmd) (a : VArgs), EngineRuns s t c → (engOf s t).Wf → a.par = false →
     let g := engOf s t
     let row := rowElems g a.n.toNat a.men a.msk.toNat a.va.toNat
     let rows := if a.n.toNat = 0 then 1 else geoRows g.geom a.n.toNat
     (vFields a { va := true, sub := true } = true → a.sub.toNat ≠ 7 →
       ∃ g' n, exec (.vred t a) s = .next (engineStep s t c g' (vecCounted s t (passes a.n.toNat) 0 n))
         ∧ (∀ q, q < rows → vGet g' a.vd.toNat q = (redRow a.sub.toNat (row q)).1)
         ∧ OnlyReg g g' a.vd.toNat rows
         ∧ (∀ b, g'.flags.getLsbD b =
           (g.flags.getLsbD b || (List.range rows).any (fun q => (redRow a.sub.toNat (row q)).2.getLsbD b))))
     ∧ (vFields a { va := true, sub := true } = true → a.sub.toNat ∈ [0, 2, 3] →
       ∃ g', exec (.vscan t a) s = .next (engineStep s t c g' (vecCounted s t (passes a.n.toNat) 0 0))
         ∧ LanesHold g g' a (fun e => canon32 (((((List.range (geoRows g.geom a.n.toNat)).map
             (fun q => (scanRow (scanFn a.sub.toNat) (row q)).1)).flatten)[e]?).join.getD 0))
         ∧ OnlyReg g g' a.vd.toNat a.n.toNat))
  ∧ (∀ (s : State) (t : Nat) (c : Cmd), EngineRuns s t c →
        (∀ a : VGeomArgs, a.par = false → a.rsv = 0 → a.rowlen.toNat ≤ 4096 →
          exec (.vgeom t a) s = .next (engineStep s t c
            { engOf s t with geom := { rowlen := a.rowlen.toNat, row0 := a.row0.toNat, elem0 := a.elem0.toNat, nostrm := a.nostrm } }
            (vecCounted s t 1 0 0)))
        ∧ (∀ a : VFclrArgs, a.par = false → a.rsv = 0 →
          exec (.vfclr t a) s = .next (engineStep s t c { engOf s t with flags := (engOf s t).flags &&& ~~~a.fmask }
            (vecCounted s t 1 0 0))))

/-- A vector instruction with a field that R132 refuses aborts its task with cause 0x10 at its own index, and has no effect. -/
def Obligations.RefusedVectorFieldsAbort : Prop :=
  ∀ (s : State) (t : Nat) (c : Cmd) (a : VArgs), getCmd s t = some c → dispatches s t c = true → passesBegin s t = true → enginesDone c = true →
    ∀ p ∈ [(Instr.vadd t a, vFields a { va := true, vb := true }), (.vsub t a, vFields a { va := true, vb := true }),
        (.vmul t a, vFields a { va := true, vb := true }), (.vdiv t a, vFields a { va := true, vb := true }),
        (.vfma t a, vFields a { va := true, vb := true, vc := true }), (.vmov t a, vFields a { va := true }),
        (.vexp t a, vFields a { va := true }), (.vsel t a, vFields a { va := true, vb := true, ms := true }),
        (.vcmp t a, vFields a { va := true, vb := true, sub := true } && decide (a.sub.toNat ≤ 5) && decide (a.vd.toNat < 8)),
        (.vqnt t a, vFields a { va := true, rnd := true, sat := true, fmt := true } && fmtAct a.fmt.toNat),
        (.vred t a, vFields a { va := true, sub := true } && decide (a.sub.toNat ≠ 7)),
        (.vscan t a, vFields a { va := true, sub := true } && [0, 2, 3].elem a.sub.toNat),
        (.vbci t a, vFields a { imm := true }), (.mfill t a, vFields a { imm := true } && decide (a.vd.toNat < 8))],
      p.2 = false → exec p.1 s = .next (abortTask s c.task { cause := 0x10, tile := t, pc := c.pc, halt := 0, addr := 0 })

/-- Loads: with a readable operand, each active element is the element that layout M, G or S names, as the tile's engine reads it;
under MZ an inactive one is +0, else it keeps its contents; nothing is stored (R117, R131, R133, R134).
Where a clause rests on a choice of the model it is that of notes/assumptions/21.md and notes/assumptions/73.md. -/
def Obligations.VectorLoads : Prop :=
  ∀ (s : State) (t u : Nat) (c : Cmd), EngineRuns s t c → (engOf s t).Wf →
    let g := engOf s t
    let rd := readsOf s t c u
    (∀ a : MArgs, a.par = false → mFields a = true → a.rmode = 0 → a.sat = false → a.site = 0 → tileField s t c a.tile = .ok u →
      let w := fmtBits a.fmt.toNat
      (∀ e, e < a.n.toNat → vActive g a.men a.msk.toNat e = true →
        let b := elemBit a.addr.toNat a.stride.toInt w a.n.toNat a.run.toNat e
        0 ≤ b ∧ CanRead s t c u (b.toNat / 8) ((b.toNat + w + 7) / 8 - b.toNat / 8)
          ∧ (fmtIsMx a.fmt.toNat = true → CanRead s t c u (scaleOff a.saddr.toNat a.n.toNat a.run.toNat e) 1)) →
      ∃ (f : Nat → W32 × Flags) (g' : Engine),
        (∀ e, e < a.n.toNat → vActive g a.men a.msk.toNat e = true → loadElem rd a e = .ok (f e))
        ∧ exec (.vld t a) s = .next (engineStep s t c g' (vecCounted s t (passes a.n.toNat) 0 0))
        ∧ (∀ e, e < a.n.toNat → vGet g' a.vr.toNat e =
            if vActive g a.men a.msk.toNat e then (f e).1 else if a.mz then 0 else vGet g a.vr.toNat e)
        ∧ OnlyReg g g' a.vr.toNat a.n.toNat)
    ∧ (∀ a : GArgs, a.par = false → a.n.toNat ≤ 4096 → a.rsv = 0 → gathFmt a.fmt.toNat = true → tileField s t c a.tile = .ok u →
      let w := fmtBits a.fmt.toNat
      let i := fun (e : Nat) => (vGet g a.vb.toNat e).toInt
      let out := fun (e : Nat) => decide (i e < 0 ∨ (a.lim.toNat : Int) ≤ i e)
      let off := fun (e : Nat) => a.addr.toNat + (i e).toNat * (w / 8)
      (∀ e, e < a.n.toNat → vActive g a.men a.msk.toNat e = true → out e = false → CanRead s t c u (off e) (w / 8)) →
      ∃ g' n, exec (.vgath t a) s = .next (engineStep s t c g' (vecCounted s t (passes a.n.toNat) n 0))
        ∧ (∀ e, e < a.n.toNat → vGet g' a.vd.toNat e =
            if vActive g a.men a.msk.toNat e then
              (if out e then 0 else widen a.fmt.toNat (leNat (readBytes s t c u (off e) (w / 8))))
            else if a.mz then 0 else vGet g a.vd.toNat e)
        ∧ OnlyReg g g' a.vd.toNat a.n.toNat)
    ∧ (∀ (a : SArgs) (b : Nat → List Nat), a.par = false →
      sFields a g.geom = true → a.rmode = 0 → a.sat = false → a.baddr = 0 → a.site = 0 → tileField s t c a.tile = .ok u →
      (∀ i, i < a.n.toNat / 128 → (b i).length = 128
        ∧ sloeAt rd c.refS a.fmt.toNat (a.daddr.toNat + 4 * i) = .ok (b i)) →
      ∃ g', exec (.vlds t a) s = .next (engineStep s t c g' (vecCounted s t (passes a.n.toNat) 0 0))
        ∧ (∀ e, e < a.n.toNat → vGet g' a.vr.toNat e = widen a.fmt.toNat (((b (e / 128))[e % 128]?).getD 0))
        ∧ OnlyReg g g' a.vr.toNat a.n.toNat)

/-- What the writes of a command do: none is made unless all may be, and all are made when every byte may be stored. Device memory
does not change before the commit: they stay with the command, which holds the last byte written to each target, zeros or the home's
bytes in the rest of a unit of WORK that it writes first, and every other byte as before (R29, R190 to R192).
Stores: where every byte may be stored, the bytes of the elements are stored, and the narrowing raises its flags; no register
changes. SST adds its drift counts to the command (R131, R132, R134, R282, R283). -/
def Obligations.VectorStoresAndTheirTargets : Prop :=
  (∀ (s : State) (t : Nat) (c : Cmd) (viaX : Bool) (ws : List (Nat × Byte)),
     ((∀ w ∈ ws, Storable s t c w.1) → ∃ s1 c1, cmdWrites s t c false ws = .ok (s1, c1))
     ∧ (∀ s1 c1, cmdWrites s t c viaX ws = .ok (s1, c1) →
       ∃ ts, targets s t c viaX ws = .ok ts
         ∧ s1 = { s with badWords := s1.badWords } ∧ (∀ b ∈ s1.badWords, b ∈ s.badWords)
         ∧ c1 = { c with work := c1.work, written := c1.written, slotWrites := c1.slotWrites, appendWrites := c1.appendWrites,
                         kvWrites := c1.kvWrites }
         ∧ (∀ y, c1.written.elem y = true ↔ c.written.elem y = true ∨ ∃ k ∈ ts, k.1 = WKind.work ∧ k.2 / 64 = y)
         ∧ (∀ x, (∀ k ∈ ts, k.1 = WKind.work → k.2 / 64 ≠ x / 64) → tGet c1.work x = tGet c.work x)
         ∧ (∀ x, unitWritten c x = false → unitWritten c1 x = true → (∀ k ∈ ts, k ≠ (WKind.work, x)) →
             tGet c1.work x = some (match shadowWin c (64 * (x / 64)) with
               | none => 0
               | some w => (tGet c.old (w.home + (64 * (x / 64) - w.shadow) + x % 64)).getD
                   (memGet s.mem (w.home + (64 * (x / 64) - w.shadow) + x % 64))))
         ∧ (∀ x, (∀ k ∈ ts, k.1 = WKind.slot → k.2 ≠ x) → tGet c1.slotWrites x = tGet c.slotWrites x)
         ∧ (∀ x, (∀ k ∈ ts, k.1 = WKind.append → k.2 ≠ x) → tGet c1.appendWrites x = tGet c.appendWrites x)
         ∧ (∀ x, (∀ k ∈ ts, k.1 = WKind.staging → k.2 ≠ x) → tGet c1.kvWrites x = tGet c.kvWrites x)
         ∧ (∀ (i y : Nat) (k : WKind) (b : Byte), ts[i]? = some (k, y) → ws[i]?.map Prod.snd = some b →
             (∀ (j : Nat), i < j → ts[j]? ≠ some (k, y)) →
             tGet (match k with | .work => c1.work | .slot => c1.slotWrites | .append => c1.appendWrites | .staging => c1.kvWrites) y
               = some b)))
  ∧ (∀ (s : State) (t u : Nat) (c : Cmd), EngineRuns s t c →
        let g := engOf s t
        let S := atDispatch s t c
        let D := dispatched c
        let mode := fun (n r site e : Nat) => elemMode (vctx s c) g.geom n r site e
        let done := fun (n : Nat) (f : Flags) (x : Tile) => { x with eng := addFlags g f, vecCnt := vecCounted s t (passes n) 0 0 }
        (∀ a : MArgs, a.par = false → mFields a = true → a.mz = false → fmtIsMx a.fmt.toNat = false → tileField s t c a.tile = .ok u →
          rowsOk (vctx s c) g.geom a.n.toNat a.rmode.toNat = true →
          let w := fmtBits a.fmt.toNat
          let r := fun e => narrowTo a.fmt.toNat (mode a.n.toNat a.rmode.toNat a.site.toNat e) a.sat (vGet g a.vr.toNat e)
          let es := activeElems g a.n.toNat a.men a.msk.toNat
          (∀ e ∈ es, CanStore s t c u (elemBit a.addr.toNat a.stride.toInt w a.n.toNat a.run.toNat e / 8) ((w + 7) / 8)) →
          ∃ ws, storeElems (cmdByte S t D) u a (es.map (fun e => (e, (r e).1))) = .ok ws
            ∧ Stores s t c (.vst t a) ws [] (done a.n.toNat (es.foldl (fun f e => f ||| (r e).2) 0)))
        ∧ (∀ a : MArgs, a.par = false →
          mFields a = true → a.mz = false → fmtIsMx a.fmt.toNat = true → a.men = false → blocksInRows g.geom a.n.toNat 32 = true →
          tileField s t c a.tile = .ok u → rowsOk (vctx s c) g.geom a.n.toNat a.rmode.toNat = true →
          let w := fmtBits a.fmt.toNat
          (∀ k, k < a.n.toNat / 32 →
            CanStore s t c u (elemBit a.addr.toNat a.stride.toInt w a.n.toNat a.run.toNat (32 * k) / 8) (4 * w)
              ∧ CanStore s t c u (scaleOff a.saddr.toNat a.n.toNat a.run.toNat (32 * k)) 1) →
          ∃ bs, (List.range (a.n.toNat / 32)).mapM (fun k => blockWrites (vctx s c) g a u (32 * k)) = .ok bs
            ∧ Stores s t c (.vst t a) (bs.map Prod.fst).flatten [] (done a.n.toNat (bs.foldl (fun f b => f ||| b.2) 0)))
        ∧ (∀ a : SArgs, a.par = false → sFields a g.geom = true → tileField s t c a.tile = .ok u →
          rowsOk (vctx s c) g.geom a.n.toNat a.rmode.toNat = true →
          let r := fun e => narrowTo a.fmt.toNat (mode a.n.toNat a.rmode.toNat a.site.toNat e) a.sat (vGet g a.vr.toNat e)
          let es := List.range a.n.toNat
          let blocks := blocks128 (es.map (fun e => (r e).1))
          CanStore s t c u a.baddr.toNat ((blocks.map (fun b => (sloeEncode c.refS a.fmt.toNat b).length)).sum) →
          CanStore s t c u a.daddr.toNat (4 * blocks.length) →
          ∃ ws, sloeWrites u a.fmt.toNat a.daddr.toNat c.refS blocks 0 a.baddr.toNat = .ok ws
            ∧ Stores s t c (.vsts t a) ws [] (done a.n.toNat (es.foldl (fun f e => f ||| (r e).2) 0)))
        ∧ (∀ a : MArgs, a.par = false → sstFields a g.geom = true → rowsOk (vctx s c) g.geom a.n.toNat 3 = true →
          let w := fmtBits a.fmt.toNat
          let r := fun e => narrowTo a.fmt.toNat (mode a.n.toNat 3 a.site.toNat e) true (vGet g a.vr.toNat e)
          let es := List.range a.n.toNat
          let ds := es.map (fun e => (e, decide ((r e).2 &&& flSaturate ≠ 0), codeNan a.fmt.toNat (r e).1))
          (∀ e ∈ es, CanStore s t c t (elemBit a.addr.toNat a.stride.toInt w a.n.toNat a.run.toNat e / 8) ((w + 7) / 8)) →
          ∃ ws, storeElems (cmdByte S t D) t a (es.map (fun e => (e, (r e).1))) = .ok ws
            ∧ Stores s t c (.sst t a) ws (driftOf g.geom a.n.toNat ds) (done a.n.toNat (es.foldl (fun f e => f ||| (r e).2) 0))))

/-! ## MATRIX -/

/-- MXE_WLOAD loads a plane, MXE_MMA multiplies its rows into a bank when no row fails the check, MXE_DRAIN delivers a bank's
entries bit for bit to a register or to Caldera; each is refused in reduced service but for BF16 (R80 to R87, R98, R632). A raw operand
that can be read loads whatever its bytes; a coded one must decode.
SCAN gives every lane of every row the linear recurrence over its positions, and SRMASK a mask with exactly the reset bits of
its rows (R271 to R274, R281).
Where a clause rests on a choice of the model it is that of notes/assumptions/23.md and notes/assumptions/73.md. -/
def Obligations.MatrixScanAndResetMask : Prop :=
  (∀ (s : State) (t : Nat) (c : Cmd), EngineRuns s t c →
     let g := engOf s t
     let rd := readsOf s t c t
     (∀ a : WloadArgs, a.par = false → bf16Only s t a.wfmt.toNat = true →
       let n := a.ncol.toNat
       let sz := colBytes a.wfmt.toNat
       let loaded := fun (p : Plane) => exec (.mxeWload t a) s = .next (tileStep s t c (fun x =>
         { x with eng := if a.plane then { g with plane1 := some p } else { g with plane0 := some p } }))
       (∀ p, loadPlane rd c.refQ a = .ok p → loaded p)
       ∧ (wloadOk a = true → a.wcoded = false → (∀ i, i < n → CanRead s t c t (64 * a.wbase.toNat + i * sz) sz) →
           (fmtIsMx a.wfmt.toNat = true → ∀ i, i < n → CanRead s t c t (64 * a.wsbase.toNat + i * 8) 8) →
           (a.sparse = true → ∀ i, i < n → CanRead s t c t (64 * a.wmbase.toNat + i * 32) 32
             ∧ nibOk a.klen.toNat (nibbles (readBytes s t c t (64 * a.wmbase.toNat + i * 32) 32)) = true) →
           ∃ p, loadPlane rd c.refQ a = .ok p ∧ loaded p))
     ∧ (∀ a : MmaArgs, a.par = false → bf16Only s t a.afmt.toNat = true →
       let op := mmaOp rd c.refS a (if c.chkEn then some c.chkSlack else none) g
       let f := a.afmt.toNat
       let done := fun (o : MmaOut) => ∃ x', exec (.mxeMma t a) s = .next (tileStep s t c (fun _ => x'))
         ∧ x' = { getTile s t with eng := withBank g a.bank o.bank o.flags, mxeCnt := x'.mxeCnt, chkstat := x'.chkstat }
         ∧ x'.mxeCnt = cntAt (cntAt (cntAt (getTile s t).mxeCnt 0 o.present) 6 (chkCycles c o.present)) 7 o.absent
         ∧ x'.chkstat = { (getTile s t).chkstat with skipped := (getTile s t).chkstat.skipped || o.skipped }
       (∀ o, op = .ok o → o.failRow = none → done o)
       ∧ (a.rsv = 0 → a.m = 0 → ∃ o, op = .ok o ∧ withBank g a.bank o.bank o.flags = g ∧ o.present = 0 ∧ o.absent = 0 ∧ done o)
       ∧ (∀ p, a.rsv = 0 → a.acoded = false → c.chkEn = false → (if a.plane then g.plane1 else g.plane0) = some p →
           mmaOk a p (if a.bank then g.bank1 else g.bank0) = true →
           (∀ r, r < a.m.toNat → (a.gen = true → mGet g a.gmask.toNat r = true) →
             CanRead s t c t (64 * a.abase.toNat + r * a.astride.toNat * 64) (cdiv (p.klen * fmtBits f) 8)
               ∧ (fmtIsMx f = true → CanRead s t c t (64 * a.asbase.toNat + 8 * r) 8)) →
           ∃ o, op = .ok o ∧ o.failRow = none ∧ done o))
     ∧ (∀ a : DrainArgs, let b := if a.bank then g.bank1 else g.bank0
       a.par = false → drainOk a b = true → a.dest = false → g.Wf →
       ∃ g', exec (.mxeDrain t a) s = .next (tileStep s t c (fun x => { x with eng := g' }))
         ∧ (∀ i w, (drainWords a b)[i]? = some w → vGet g' a.vreg.toNat i = w)
         ∧ g' = { putBank g a.bank (drainBank a b) with v := g'.v })
     ∧ (∀ a : DrainArgs, let b := if a.bank then g.bank1 else g.bank0
       let ws := drainStores a (drainWords a b)
       a.par = false → drainOk a b = true → a.dest = true → (∀ e ∈ ws, CanStore s t c t e.1 4) →
       Stores s t c (.mxeDrain t a) (ws.flatMap (fun e => asWrites (calAddr t e.1) (leBytes 4 e.2.toNat))) []
         (fun x => { x with eng := putBank g a.bank (drainBank a b) })))
  ∧ (∀ (s : State) (t : Nat) (c : Cmd), EngineRuns s t c → (engOf s t).Wf →
        let g := engOf s t
        (∀ a : ScanArgs, a.par = false → scanOk a g.geom = true →
          let row := geoRow g.geom a.n.toNat
          ∃ g', exec (.scan t a) s = .next (engineStep s t c g' (vecCounted s t (passes a.n.toNat) 0 0))
            ∧ (∀ q p w, w < a.w.toNat → p < row / a.w.toNat → q * row + p * a.w.toNat + w < a.n.toNat →
                vGet g' a.vd.toNat (q * row + p * a.w.toNat + w) = scanH a g row q w p)
            ∧ OnlyReg g g' a.vd.toNat a.n.toNat)
        ∧ (∀ a : SrmaskArgs,
          let rows := (vctx s c).rows
          let bits := srmaskBits a ((rows.drop g.geom.row0).take a.nrows.toNat)
          a.par = false → srmaskFieldsOk a = true → g.geom.row0 + a.nrows.toNat ≤ rows.length → (∀ b ∈ bits, b < 4096) →
          ∃ g', exec (.srmask t a) s = .next (engineStep s t c g' (vecCounted s t 1 0 0))
            ∧ (∀ e, e < 4096 → mGet g' a.md.toNat e = bits.elem e) ∧ OnlyMask g g' a.md.toNat 4096))

/-- RESERVED_OPCODE, a word whose opcode no class lists: its own effect is to abort the task with cause 0x10, at every tile where a
command dispatches; the task's tiles are idle after it. A vector instruction joins its queue, with no other effect, while it may not
begin, for want of a scoreboard entry or of its engine's clock or at throttle level 8, and one that starts and finds uncorrectable parity
on the engine's state aborts its task with cause 0x71 (R178, R179, R209, R620, R639, R645).
A row of an MXE_MMA that fails the check stops the command after the instruction: the tile is empty, its position is due to
run again on another tile with the first failed row noted, and TLE_MXE_CHKSTAT keeps the first mismatch (R105, R110).
An abort of a task leaves no command of it on any tile, and the task itself, if rows are left to replay, waits to be issued
again with no tile placed (R199, R328).
Where a clause rests on a choice of the model it is that of notes/assumptions/24.md, notes/assumptions/73.md and notes/assumptions/74.md. -/
def Obligations.AbortsAndTheirCauses : Prop :=
  (∀ (s : State) (t : Nat) (c : Cmd), getCmd s t = some c → dispatches s t c = true →
     (∀ w : W128, decodeWord t w = none →
       exec (.reservedOpcode t w) s = .next (abortTask s c.task { cause := 0x10, tile := t, pc := c.pc, halt := 0, addr := 0 }))
     ∧ (∀ w : W128, decodeWord t w = none → s.Units → (∃ y, getTask s c.task = some y ∧ (getJob s y.job).isSome) →
       ∃ s', exec (.reservedOpcode t w) s = .next s' ∧ ∀ u d, u < 96 → getCmd s' u = some d → d.task ≠ c.task)
     ∧ (∀ a : VArgs, (mayBegin s t (.vadd t a) = false → inStage c (nextPc c) = true → queueLen c (some .vector) < 16 →
         exec (.vadd t a) s = .next
           (setCmd s t (fun _ => { moved c with queue := c.queue ++ [{ instr := .vadd t a, pc := c.pc, started := false }] })))
       ∧ (boardFree s t = false ∨ 8 ≤ effLevel s (t / 48) ∨ clocked s t 2 = false → mayBegin s t (.vadd t a) = false)
       ∧ (passesBegin s t = true → enginesDone c = true → a.par = true → vFields a { va := true, vb := true } = true →
         exec (.vadd t a) s = .next (abortTask s c.task { cause := 0x71, tile := t, pc := c.pc, halt := 0, addr := 0 }))))
  ∧ (∀ (s : State) (t row : Nat) (c : Cmd), s.Units → t < 96 → getCmd s t = some c → c.run = .first →
        let s' := mismatchStop s t c row
        getCmd s' t = none ∧ engOf s' t = Engine.reset
          ∧ (getTile s' t).chkstat = chkstatFail (getTile s t).chkstat c.pc row
          ∧ (∀ x', getTask s' c.task = some x' → ∀ q ∈ x'.pos, q.ident = c.ident → q.run = .rerun t c.pc row))
  ∧ (∀ (s : State) (k : Nat) (x : Task) (j : Job) (e : AbortAt), s.Units → getTask s k = some x → getJob s x.job = some j →
        (∀ t c, t < 96 → getCmd (abortTask s k e) t = some c → c.task ≠ k)
          ∧ (∀ y, getTask (abortTask s k e) k = some y → y.state = .replayDue ∧ y.pos = [] ∧ y.finals = []))

/-! ## ATTN -/

/-- The instructions that open, fold, merge and close attention contexts at full service: with legal fields and operands that can be
read, the engine becomes what the operation gives, its stores are made, and its rows are counted (R348 to R357, R369 to R371).
Where a clause rests on a choice of the model it is that of notes/assumptions/23.md. -/
def Obligations.AttentionInstructions : Prop :=
  ∀ (s : State) (t : Nat) (c : Cmd), EngineRuns s t c → (getGey s (t / 8)).full = true →
    let g := engOf s t
    let S := atDispatch s t c
    let D := dispatched c
    let rd := attnReader S t D
    let base := biasBase S t D
    let info := fun (n r : Nat) => (List.range n).map (vGet g r)
    let rows := fun (off stride n fmt dh : Nat) => ∀ r, r < n → CanRead s t c t (off + r * stride) (cdiv (dh * fmtBits fmt) 8)
    let fold := fun (i : Instr) (o : AttnOut) (e : Engine) (blocks : Nat) =>
      Stores s t c i (o.stores.map (fun w => (calAddr t w.1, w.2))) [] (fun x =>
        { x with eng := e, attCnt := cntAt (cntAt (cntAt x.attCnt 0 blocks) 1 o.rescaled) 2 o.masked })
    (∀ a : AttnInitArgs, a.par = false → a.rsv = 0 →
      let n := a.qrows1.toNat + 1
      let dh := dhOf a.dhc.toNat
      ctxOf g a.ctx = none → fmtAct a.qfmt.toNat = true → kvFmtOk a.kvfmt.toNat = true → a.pfmt.toNat = 1 ∨ a.pfmt.toNat = 3 →
      infoOk (getTile s t).nbh (info n a.vqi.toNat) = true →
      ctxRegsOk g a.ctx (regsOf false n dh a.vo.toNat a.vs.toNat) a.vqi.toNat = true →
      rows (64 * a.qbase.toNat) (64 * a.qstride.toNat) n a.qfmt.toNat dh →
      ∃ g', attnInitOp rd (getTile s t).nbh a g = .ok g'
        ∧ exec (.attnInit t a) s = .next (tileStep s t c (fun x => { x with eng := g' })))
    ∧ (∀ a : AttnBinitArgs, a.par = false → a.rsv = 0 →
      let n := a.qrows1.toNat + 1
      let dh := dhOf a.dhc.toNat
      ctxOf g a.ctx = none → fmtAct a.qfmt.toNat = true → kvFmtOk a.kvfmt.toNat = true →
      infoOk (getTile s t).nbh (info n a.vqi.toNat) = true →
      ctxRegsOk g a.ctx (regsOf true n dh a.vdq.toNat 0) a.vqi.toNat = true →
      rows (64 * a.qbase.toNat) (64 * a.qstride.toNat) n a.qfmt.toNat dh →
      rows (64 * a.dobase.toNat) (64 * a.qstride.toNat) n a.qfmt.toNat dh →
      (∀ r, r < n → CanRead s t c t (64 * a.sbase.toNat + 16 * r) 16) →
      ∃ g', attnBinitOp rd (getTile s t).nbh a g = .ok g'
        ∧ exec (.attnBinit t a) s = .next (tileStep s t c (fun x => { x with eng := g' })))
    ∧ (∀ (a : AttnStepArgs) (x : AttnCtx), a.par = false → a.rsv = 0 → ctxOf g a.ctx = some x → x.bwd = false →
      KeyReady s t c x (64 * a.kbase.toNat) → BiasReady S t D x.info →
      (a.men = true → a.maddr.toNat % 32 = 0 ∧ CanRead s t c t a.maddr.toNat 32 ∧ CanStore s t c t a.maddr.toNat 32) →
      ∃ o, attnStepOp rd base a g = .ok o
        ∧ fold (.attnStep t a) o (if passesFum S t D then
            keepBlock o.eng a.ctx (readBytes s t c t (64 * a.kbase.toNat) (keyBlockLen x.dh x.kvfmt)) else o.eng) 1)
    ∧ (∀ (a : AttnMergeArgs) (x : AttnCtx), a.par = false → a.rsv = 0 → ctxOf g a.ctx = some x → x.bwd = false →
      a.psaddr.toNat % 8 = 0 → (∀ r, r < x.qrows → CanRead s t c t (a.psaddr.toNat + 8 * r) 8
        ∧ CanRead s t c t (64 * a.pbase.toNat + r * (64 * a.pstride.toNat)) (4 * x.dh)) →
      ∃ o, attnMergeOp rd a g = .ok o
        ∧ fold (.attnMerge t a) o (setCtx o.eng a.ctx ((ctxOf o.eng a.ctx).map (fun x => { x with merged := true }))) 0)
    ∧ (∀ (a : AttnBwdArgs) (x : AttnCtx), a.par = false → a.rsv = 0 → ctxOf g a.ctx = some x → x.bwd = true →
      a.dkaddr.toNat % 64 = 0 → a.dvaddr.toNat % 64 = 0 → KeyReady s t c x (64 * a.kbase.toNat) → BiasReady S t D x.info →
      (∀ d, d = a.dkaddr.toNat ∨ d = a.dvaddr.toNat → CanRead s t c t d (512 * x.dh) ∧ CanStore s t c t d (512 * x.dh)) →
      ∃ o, attnBwdOp rd base a g = .ok o ∧ fold (.attnBwd t a) o o.eng 1)
    ∧ (∀ (a : AttnFinArgs) (x : AttnCtx), a.par = false → a.rsv = 0 → ctxOf g a.ctx = some x → x.bwd = false →
      let row := cdiv (x.dh * fmtBits a.ofmt.toNat) 8
      (a.ofmt = 0 ∨ fmtAct a.ofmt.toNat = true) → (a.dest = true →
        rowsOk (vctx s c) g.geom (x.qrows * x.dh) a.rmode.toNat = true
        ∧ 64 * a.obase.toNat + (x.qrows - 1) * (64 * a.ostride.toNat) + row ≤ 0x400000
        ∧ ∀ r, r < x.qrows → CanStore s t c t (64 * a.obase.toNat + r * (64 * a.ostride.toNat) : Nat) row) →
      (a.save = true → a.saddr.toNat % 8 = 0 ∧ CanStore s t c t a.saddr.toNat (8 * x.qrows)) →
      (a.norm = false ∨ passesFum S t D = false ∨ ∀ o, attnFinOp (vctx s c) a g = .ok o → fumAgrees S t D x g o.eng = true) →
      ∃ o, attnFinOp (vctx s c) a g = .ok o ∧ fold (.attnFin t a) o o.eng 0)

/-- ATTN_FUM queues its request on the die's Fumarole and clears the planes and banks; it runs until Fumarole completes it, and the
program goes on while what needs the engines waits behind it. Fumarole serves the oldest request, stores its results, raises its flags,
counts the wait as no less than the request's own cycles, and the instructions behind it start (R178, R180, R347, R364 to R366, R371).
Where a clause rests on a choice of the model it is that of notes/assumptions/2.md and notes/assumptions/23.md. -/
def Obligations.FumaroleServesInOrder : Prop :=
  (∀ (s : State) (t : Nat) (c : Cmd) (a : AttnFumArgs) (q : FumCmd), s.Units → t < 96 → EngineRuns s t c → a.par = false → a.rsv = 0 →
    (getDie s (t / 48)).fumOk = true → a.off.toNat % 64 = 0 → Readable s t c t a.off.toNat 64 →
    fumParse ((addrs (calAddr t a.off.toNat) 64).map (engByte s t c)) = .ok q → (q.save = true → q.saddr % 8 = 0) →
    let e : QEnt := { instr := .attnFum t a, pc := c.pc, started := true }
    ∃ s', exec (.attnFum t a) s = .next s'
      ∧ (getDie s' (t / 48)).fumQ = (getDie s (t / 48)).fumQ ++ [{ tile := t, off := a.off.toNat }]
      ∧ getCmd s' t = some { moved c with queue := c.queue ++ [e] } ∧ engOf s' t = clearMx (engOf s t) ∧ s'.mem = s.mem)
  ∧ (∀ (s : State) (t : Nat) (c : Cmd), getCmd s t = some c → dispatches s t c = true → inStage c (nextPc c) = true →
    c.queue.any (fun e => decide (classOf e.instr = some .attn)) = true →
    let waits := fun i => setCmd s t (fun _ => { moved c with queue := c.queue ++ [{ instr := i, pc := c.pc, started := false }] })
    (∀ a : VArgs, queueLen c (some .vector) < 16 → exec (.vadd t a) s = .next (waits (.vadd t a)))
    ∧ (∀ a : MmaArgs, queueLen c (some .matrix) < 16 → exec (.mxeMma t a) s = .next (waits (.mxeMma t a)))
    ∧ (∀ a : AttnStepArgs, queueLen c (some .attn) < 16 → exec (.attnStep t a) s = .next (waits (.attnStep t a)))
    ∧ (∀ a : VArgs, 16 ≤ queueLen c (some .vector) →
        exec (.vadd t a) s = .next (setCmd s t (fun _ => { c with phase := .execute, wait := some .queue }))))
  ∧ (∀ (s : State) (die : Nat) (r : FumReq) (rest : List FumReq) (c : Cmd) (q : FumCmd) (e : QEnt),
    s.Units → die < 2 → (getDie s die).fumQ = r :: rest → getCmd s r.tile = some c → c.queue = [e] → e.started = true →
    let s1 := setDie s die (fun d => { d with fumQ := rest })
    let v := { c with queue := [] }
    r.off % 64 = 0 → Readable s1 r.tile v r.tile r.off 64 →
    fumParse ((addrs (calAddr r.tile r.off) 64).map (engByte s1 r.tile v)) = .ok q → (q.save = true → q.saddr % 8 = 0) →
    FumReady s1 r.tile v q →
    ∃ ws f s2 c2 s' n, fumWork s1 r.tile v q = .ok (ws, f) ∧ cmdWrites s1 r.tile v false ws = .ok (s2, c2)
      ∧ exec (.fumaroleDone die) s = .next s'
      ∧ (getDie s' die).fumQ = rest ∧ s'.mem = s.mem
      ∧ getCmd s' r.tile = some (noteStore c2 [] (ws.map Prod.fst))
      ∧ engOf s' r.tile = addFlags (engOf s r.tile) f
      ∧ (getTile s' r.tile).attCnt = cntAt (getTile s r.tile).attCnt 3 n ∧ 1024 ≤ n)

/-! ## CTRL -/

/-- Where CTRL instructions go: NOP on, keeping the phase; a taken branch to its target, leaving the loops that do not hold it, one
that is not taken on; LOOP into its body COUNT times, or behind it; BRF reads the flags once no engine instruction waits or runs, and
waits until then; BRW waits while anything before it has yet to write its word (R181 to R183, R188).
At the last instruction of a loop body the next iteration starts while one is left, else the loop ends and the program is
where it would be in the loop around it (R182). -/
def Obligations.ControlFlowAndLoops : Prop :=
  (∀ (s : State) (t : Nat) (c : Cmd) (a : CtrlArgs), getCmd s t = some c → dispatches s t c = true → inStage c c.pc = true →
     let at' := fun (pc : Nat) (ls : List LoopSt) => setCmd s t (fun c => { dispatched c with pc := pc, loops := ls })
     let tgt := a.target.toNat
     let go := fun (taken : Bool) => if taken then at' tgt (keepLoops c.loops tgt) else at' (nextPc c) (nextLoops c)
     (ctrlZero a false false false false false false false = true → inStage c (nextPc c) = true →
       exec (.nop t a) s = .next (setCmd s t (fun c => { c with pc := nextPc c, loops := nextLoops c, wait := none })))
     ∧ (ctrlZero a true false false false false false false = true → inStage c tgt = true →
       exec (.br t a) s = .next (go true))
     ∧ (ctrlZero a true false true false false false false = true → inStage c tgt = true → inStage c (nextPc c) = true →
       enginesDone c = true → exec (.brf t a) s = .next (go (decide (((engOf s t).flags &&& a.fmask) ≠ 0) == a.sense)))
     ∧ (enginesDone c = false → exec (.brf t a) s = .next (setCmd s t (fun _ => { c with phase := .execute, wait := some .engines })))
     ∧ (ctrlZero a true true false false true true true = true → (a.csrc = true → a.addr.toNat % 4 = 0) →
       loopOk c tgt a.lc.toNat = true → (a.csrc = true → SeqReads s t c a.addr.toNat 4) →
       let n := if a.csrc then seqWord s t c a.addr.toNat else a.imm.toNat
       (n ≠ 0 → exec (.loop t a) s = .next
           (at' (c.pc + 1) ({ lc := a.lc.toNat, first := c.pc + 1, last := tgt, left := n } :: c.loops)))
       ∧ (n = 0 → inStage c (stepLoops c.loops tgt).1 = true →
           exec (.loop t a) s = .next (at' (stepLoops c.loops tgt).1 (stepLoops c.loops tgt).2)))
     ∧ (ctrlZero a true false false true true false true = true → a.cmp.toNat < 4 → a.addr.toNat % 4 = 0 →
       inStage c tgt = true → inStage c (nextPc c) = true →
       (SeqReads s t c a.addr.toNat 4 →
         let w := seqWord s t c a.addr.toNat
         exec (.brw t a) s = .next (go (match a.cmp.toNat with
           | 0 => decide (w = a.imm.toNat) | 1 => decide (w ≠ a.imm.toNat) | 2 => decide (w < a.imm.toNat)
           | _ => decide (a.imm.toNat ≤ w))))
       ∧ (rangeWritten s t c (calAddr t a.addr.toNat) 4 = true →
         exec (.brw t a) s = .next (setCmd s t (fun c => { c with phase := .execute, wait := some (.word a.addr.toNat) })))))
  ∧ (∀ (l : LoopSt) (r : List LoopSt) (pc : Nat),
        (pc ≠ l.last → stepLoops (l :: r) pc = (pc + 1, l :: r))
        ∧ (pc = l.last → 1 < l.left → stepLoops (l :: r) pc = (l.first, { l with left := l.left - 1 } :: r))
        ∧ (pc = l.last → l.left ≤ 1 → stepLoops (l :: r) pc = stepLoops r pc)
        ∧ stepLoops [] pc = (pc + 1, []))

/-- COMMIT with no XREQ and no instruction left and readable shadows ends the execute phase: a stage that is not the last enters its stage commit;
the last role of a final stage passes what it publishes to the task and waits there. With one left it waits, and is tried
again.
HALT aborts the task with cause 0x14 and its code (R183, R193, R651).
Where a clause rests on a choice of the model it is that of notes/assumptions/8.md and notes/assumptions/32.md. -/
def Obligations.CommitAndHalt : Prop :=
  ∀ (s : State) (t : Nat) (c : Cmd) (a : CtrlArgs), getCmd s t = some c →
    (dispatches s t c = true ∨ triesAgain s t c .commit = true → ctrlZero a false false false false false false false = true →
      (allDone s t c = true → shadowBad s c = none → isChecking c = false → awaitsCheck s c = false →
        (c.last = false → exec (.commit t a) s = .next (setCmd s t (fun c => { c with phase := .commit, wait := none, wdogEnd := none })))
        ∧ (∀ (x : Task) (p : TilePos), c.last = true → getTask s c.task = some x →
            x.pos.find? (fun p => p.ident = c.ident) = some p → p.left = [] →
            ∃ s', exec (.commit t a) s = .next s'
              ∧ (getCmd s' t).map (·.phase) = some .commitWait
              ∧ (getTask s' c.task).map (·.finals) = some (x.finals ++ [(t, publishedOf s t c)])
              ∧ s'.mem = s.mem))
      ∧ (allDone s t c = false → exec (.commit t a) s = .next (setCmd s t (fun c => { c with phase := .execute, wait := some .commit }))))
    ∧ (dispatches s t c = true → ctrlZero a false false false false false false true = true →
      exec (.halt t a) s = .next (abortTask s c.task
        { cause := 0x14, tile := t, pc := c.pc, halt := a.imm.toNat % 65536, addr := 0 }))

/-! ## SYNC and XFER -/

/-- Barriers: BARSIG is kept for the commit; BARWAIT goes on in the start block when the count is there, and waits otherwise until
BARRIER_REACHED finds it there or it is tried again; while it waits no other instruction of the tile dispatches (R178, R188, R203).
Semaphores: SEMSIG is kept for the task commit; SEMWAIT takes a hold when no wait came before it and V − H covers it, and
otherwise waits in order; SEMWAIT_GRANT gives the hold to the first wait that V − H covers (R204, R205). -/
def Obligations.BarriersAndSemaphores : Prop :=
  (∀ (s : State) (t : Nat) (c : Cmd), getCmd s t = some c → inStage c (nextPc c) = true →
     (∀ a : SyncArgs, a.rsv = 0 → 1 ≤ a.n.toNat → a.id.toNat < 32 →
       (dispatches s t c = true →
         exec (.barsig t a) s = .next (setCmd s t (fun c => { moved c with barsig := c.barsig ++ [(a.id.toNat, a.n.toNat)] })))
       ∧ (dispatches s t c = true ∨ triesAgain s t c (.bar a.id.toNat a.n.toNat) = true → c.phase = .start → a.n.toNat ≤ barCount s c a.id.toNat →
           exec (.barwait t a) s = .next (setCmd s t (fun c => { c with pc := nextPc c, loops := nextLoops c, wait := none })))
       ∧ (dispatches s t c = true ∨ triesAgain s t c (.bar a.id.toNat a.n.toNat) = true → c.phase = .start → barCount s c a.id.toNat < a.n.toNat →
           exec (.barwait t a) s = .next (setCmd s t (fun c => { c with wait := some (.bar a.id.toNat a.n.toNat) }))))
     ∧ (∀ b n, c.wait = some (.bar b n) → (n ≤ barCount s c b →
         exec (.barrierReached t) s = .next (setCmd s t (fun c => { c with pc := nextPc c, loops := nextLoops c, wait := none })))
       ∧ (∀ a : VArgs, exec (.vadd t a) s = .next s) ∧ (∀ a : CtrlArgs, exec (.nop t a) s = .next s)))
  ∧ (∀ (s : State) (t : Nat) (c : Cmd) (j : Job) (m : Sem), getCmd s t = some c → inStage c (nextPc c) = true →
        getJob s c.job = some j →
        let hold := fun (x : State) (k n : Nat) => setCmd (setSem x c.job k (fun m => { m with h := m.h + n })) t (fun c =>
          { c with holds := c.holds ++ [(k, n)], pc := nextPc c, loops := nextLoops c, wait := none })
        (∀ a : SyncArgs, dispatches s t c = true → a.rsv = 0 → 1 ≤ a.n.toNat → tGet j.sems a.id.toNat = some m →
          exec (.semsig t a) s = .next (setCmd s t (fun c => { moved c with semsig := c.semsig ++ [(a.id.toNat, a.n.toNat)] }))
          ∧ (c.phase = .start → isChecking c = false → m.waits = [] → a.n.toNat ≤ m.v - m.h →
              exec (.semwait t a) s = .next (hold s a.id.toNat a.n.toNat))
          ∧ (c.phase = .start → isChecking c = false → (m.waits ≠ [] ∨ m.v - m.h < a.n.toNat) →
              exec (.semwait t a) s = .next (setCmd
                (setSem s c.job a.id.toNat (fun m => { m with waits := m.waits ++ [(t, a.n.toNat)] })) t
                (fun c => { c with wait := some (.sem a.id.toNat a.n.toNat) }))))
        ∧ (∀ k n rest, tGet j.sems k = some m → m.waits = (t, n) :: rest → n ≤ m.v - m.h → isChecking c = false →
          exec (.semwaitGrant c.job k) s = .next (hold (setSem s c.job k (fun m => { m with waits := rest })) k n)))

/-- SWAP exchanges the roles of a pair whose fill is done and whose COMPUTE half nothing before it still uses, notes the time, brings the
stream's next slab from the store and starts what its credits and its new roles let start; otherwise it waits. XWAIT goes on when no XREQ
of the command is left, and waits otherwise (R185, R208, R209, R238, R245).
Where a clause rests on a choice of the model it is that of notes/assumptions/8.md. -/
def Obligations.SwapAndXwait : Prop :=
  ∀ (s : State) (t : Nat) (c : Cmd), getCmd s t = some c → inStage c (nextPc c) = true →
    (∀ (a : SyncArgs) (p : Pair), dispatches s t c = true ∨ triesAgain s t c (.swap a.id.toNat) = true → a.rsv = 0 → a.n = 0 →
      c.pairs[a.id.toNat]? = some p →
      let k := a.id.toNat
      let swapped := { dispatched c with pairs := c.pairs.modify k (fun p => { p with comp1 := !p.comp1, swaps := now s :: p.swaps }) }
      let stream := (tileXfers s t).find? (fun x => x.topair && x.pair = k && !x.desc.isCopy)
      let free := fillDone (tileXfers s t) k p && computeDone s t c k p
      (free = true → (∀ x, stream = some x → x.store = []) →
        exec (.swap t a) s = .next (drainQueue (setCmd s t (fun _ => { swapped with pc := nextPc c, loops := nextLoops c })) t))
      ∧ (∀ x i raw rest s2 c2, free = true → stream = some x → x.store = (i, raw) :: rest →
        deliver (setXfer (setCmd s t (fun _ => swapped)) (t / 8) x.id (fun y => { y with store := rest }))
          { x with store := rest } swapped raw = .ok s2 →
        getCmd s2 t = some c2 → inStage c2 (nextPc c2) = true →
        exec (.swap t a) s = .next
          (drainQueue (setCmd s2 t (fun _ => { c2 with pc := nextPc c2, loops := nextLoops c2, wait := none })) t))
      ∧ (free = false →
        exec (.swap t a) s = .next (setCmd s t (fun c => { c with phase := .execute, wait := some (.swap k) })))
      ∧ ((∃ e ∈ c.queue, ∃ x : XferArgs, e.instr = .xreq t x ∧ x.topair = true ∧ x.pair.toNat = k) → free = false))
    ∧ (c.queue = [] → drainQueue s t = s)
    ∧ (∀ a : XferArgs, dispatches s t c = true ∨ triesAgain s t c .xfer = true → a.rsv = 0 →
      (noXfers s t c = true → exec (.xwait t a) s = .next (setCmd s t (fun c => moved c)))
      ∧ (noXfers s t c = false → exec (.xwait t a) s = .next (setCmd s t (fun c => { c with phase := .execute, wait := some .xfer }))))

/-- XREQ with a descriptor that can be read, when no XREQ and no range before it holds it: when the allowance and the scoreboard cover it
and the checks accept it, it takes its credits and queues one transfer of that descriptor, last, under the next id; otherwise, and behind
an XREQ that waits, it waits in the XFER queue of 16 while the program goes on, and with that queue full at dispatch (R178, R185, R209,
R225, R245).
Where a clause rests on a choice of the model it is that of notes/assumptions/8.md, notes/assumptions/10.md and notes/assumptions/15.md. -/
def Obligations.XreqQueuesATransfer : Prop :=
  ∀ (s : State) (t : Nat) (c : Cmd) (a : XferArgs), s.Units → t < 96 → getCmd s t = some c →
    dispatches s t c = true ∨ triesAgain s t c .queue = true → inStage c (nextPc c) = true → a.par = false → a.rsv = 0 →
    a.daddr.toNat % 64 = 0 → (a.topair = true → a.pair.toNat < c.pairs.length) →
    cmdBad s t c (calAddr t a.daddr.toNat) 64 = none →
    let d := parseDesc ((addrs (calAddr t a.daddr.toNat) 64).map (cmdByte s t c))
    let pair := if a.topair then some a.pair.toNat else none
    let depth := if d.depth = 0 then (getJob s c.job).elim 2 (·.depth) else d.depth
    let goes := !blocked c (.xreq t a) && !xreqHeld s t c a d && xreqFits s t c d pair depth
    (goes = true → xreqCause s t c d pair depth = none →
      ∃ s' x, exec (.xreq t a) s = .next s'
        ∧ getCmd s' t = some { moved c with credits := c.credits + d.credits depth }
        ∧ (getGey s' (t / 8)).xfers = (getGey s (t / 8)).xfers ++ [x]
        ∧ (getGey s' (t / 8)).nextId = (getGey s (t / 8)).nextId + 1
        ∧ x.desc = d ∧ x.tile = t ∧ x.task = c.task ∧ x.id = (getGey s (t / 8)).nextId ∧ x.held = d.credits depth
        ∧ s'.mem = s.mem ∧ s'.host = s.host)
    ∧ (goes = false → queueLen c (some .xfer) < 16 →
      exec (.xreq t a) s = .next (setCmd s t (fun c =>
        { moved c with queue := c.queue ++ [{ instr := .xreq t a, pc := c.pc, started := false }] })))
    ∧ (goes = false → 16 ≤ queueLen c (some .xfer) →
      exec (.xreq t a) s = .next (setCmd s t (fun c => { c with phase := .execute, wait := some .queue })))

/-! ## Registers -/

/-- A counter clear sets every counter of its block, and the records that clear with them, to 0 at once, and changes nothing else; with
CLR 0 it changes no counter. An access to a tile wakes it (R111, R142, R222, R260, R337, R374, R417, R462, R497, R617, R642). -/
def Obligations.CounterClears : Prop :=
  ∀ (s : State) (v : W64) (t c p n : Nat), s.Units → t < 96 → c < 12 → p < 12 → n < 8 →
    let z := fun (k : Nat) => List.replicate k 0
    let all := [(Instr.tleMxeCntClr t v, RegBlock.tile t, 0x420, 8, wakeTile s t, setTile (wakeTile s t) t (fun x => { x with mxeCnt := z 8 })),
      (.tleVecCntClr t v, .tile t, 0x510, 6, wakeTile s t, setTile (wakeTile s t) t (fun x => { x with vecCnt := z 6 })),
      (.tleCntClr t v, .tile t, 0x48, 5, wakeTile s t, setTile (wakeTile s t) t (fun x => { x with cnt := z 5, commitMax := 0 })),
      (.tleAttCntClr t v, .tile t, 0x618, 4, wakeTile s t, setTile (wakeTile s t) t (fun x => { x with attCnt := z 4 })),
      (.geyCntClr c v, .geyser c, 0x38, 7, s, setGey s c (fun g => { g with cnt := z 7, lateMax := 0, lateStream := 0 })),
      (.orcCntClr p v, .orchard p, 0x28, 11, s, setPart s p (fun x => { x with orcCnt := z 11 })),
      (.orcKvCntClr p v, .orchard p, 0x120, 8, s, setPart s p (fun x => { x with kvCnt := z 8 })),
      (.mgtPartCntClr p v, .mgtPart p, 0x28, 5, s, setPart s p (fun x => { x with mgtCnt := z 5 })),
      (.tdmCntClr n v, .tdm n, 0xA8, 6, s, setPort s n (fun q => { q with cnt := z 6 })),
      (.pwrCntClr v, .pwr, 0x18, 2, s, { s with pwr := { s.pwr with cntThrottle := 0, cntSupply := 0 } })]
    ∀ x ∈ all,
      (v.getLsbD 0 = true → exec x.1 s = .next x.2.2.2.2.2 ∧ ∀ k, k < x.2.2.2.1 → readReg x.2.2.2.2.2 x.2.1 (x.2.2.1 + 8 * k) = 0)
      ∧ (v.getLsbD 0 = false → exec x.1 s = .next x.2.2.2.2.1)

/-- A write of a shadowed register is live at once while its block is idle, and waits in the pending copy, which the register then
reads with PENDING, while the block runs a command; DROP_LATE of a set that is to become live job-wide is pending too; a reserved
value changes nothing (R9, R210, R215, R255, R334, R108, R447). -/
def Obligations.ShadowedWrites : Prop :=
  ∀ (s : State) (v : W64), s.Units →
    let w := v.toNat
    (∀ t, t < 96 →
      let s0 := wakeTile s t
      let busy := (getCmd s t).isSome
      (10 ≤ bitsAt w 0 5 ∧ bitsAt w 0 5 ≤ 24 → ∃ s', exec (.shadowedConfigWrite (.tile t) 0x008 v) s = .next s'
        ∧ s' = setTile s0 t (fun x => if busy then { x with pendWdogExp := some (bitsAt w 0 5) }
            else { x with wdogExp := bitsAt w 0 5, pendWdogExp := none })
        ∧ readReg s' (.tile t) 0x008 = bitsAt w 0 5 + (if busy then 2 ^ 31 else 0))
      ∧ (bitsAt w 0 5 < 10 ∨ 24 < bitsAt w 0 5 → exec (.shadowedConfigWrite (.tile t) 0x008 v) s = .next s0)
      ∧ (∃ s', exec (.shadowedConfigWrite (.tile t) 0x400 v) s = .next s'
        ∧ s' = setTile s0 t (fun x => if busy then { x with pendMxe := some (bitAt w 0, bitsAt w 1 3) }
            else { x with chkEn := bitAt w 0, chkSlack := bitsAt w 1 3, pendMxe := none })
        ∧ readReg s' (.tile t) 0x400 = b2n (bitAt w 0) + 2 * bitsAt w 1 3 + (if busy then 2 ^ 31 else 0)))
    ∧ (∀ c, c < 12 → bitsAt w 8 8 ≠ 0 →
      ∃ s', exec (.shadowedConfigWrite (.geyser c) 0x008 v) s = .next s'
        ∧ s' = setGey s c (fun g => if clusterBusy s c then { g with pend := some (bitsAt w 0 6, bitsAt w 8 8) }
            else { g with mergeWait := bitsAt w 0 6, bgSlack := bitsAt w 8 8, pend := none })
        ∧ readReg s' (.geyser c) 0x008 = bitsAt w 0 6 + 2 ^ 8 * bitsAt w 8 8 + (if clusterBusy s c then 2 ^ 31 else 0))
    ∧ (∀ p, p < 12 →
      let busy := (partJobs s p).any (fun e => e.2.state = .running || e.2.state = .stopping)
      ∃ s', exec (.shadowedConfigWrite (.orchard p) 0x008 v) s = .next s'
        ∧ s' = setPart s p (fun x => if busy then { x with pendOrc := some (bitAt w 0, bitAt w 1) }
            else { x with schedEn := bitAt w 0, dropLate := bitAt w 1, pendOrc := none })
        ∧ readReg s' (.orchard p) 0x008 = b2n (bitAt w 0)
            + 2 * b2n (if busy then bitAt w 1 else (dropComing s p).getD (bitAt w 1))
            + (if busy || (dropComing s p).isSome then 2 ^ 31 else 0))

/-- A write of a register of a tile, Geyser, a partition or the clocks: 64 bits at a multiple of 8, 32 bits at a multiple of 4, any
other access has no effect; writing 1 to a W1C bit clears it and 0 leaves it; a read-only register keeps its value
(R6, R9, R218, R219, R258, R461, R514, R636, R639).
CLK_FMEAS with START runs a measurement with the clocks, unit and window it names; when the window ends the count is there and
DONE is set. A read of PWR_SUPPLY sets VMIN to 0xFFFF and VMAX to 0 (R615, R638, R641).
Where a clause rests on a choice of the model it is that of notes/assumptions/66.md. -/
def Obligations.RegisterWritesAndMeasurements : Prop :=
  (∀ (s : State) (v : W64),
     let w := v.toNat
     (∀ (b : RegBlock) (off : Nat), off % 8 ≠ 0 → exec (.registerWrite b off false v) s = .next s)
     ∧ (∀ (b : RegBlock) (off : Nat), off % 4 ≠ 0 → exec (.registerWrite b off true v) s = .next s)
     ∧ (∀ t, exec (.registerWrite (.tile t) 0x008 false v) s = exec (.shadowedConfigWrite (.tile t) 0x008 v) s
       ∧ exec (.registerWrite (.tile t) 0x020 false v) s = .next (setTile (wakeTile s t) t
           (fun x => { x with flagSticky := x.flagSticky &&& ~~~(v.setWidth 8) }))
       ∧ exec (.registerWrite (.tile t) 0x028 false v) s = .next (if bitAt w 0 then setTile (wakeTile s t) t
           (fun x => { x with abort := { x.abort with valid := false } }) else wakeTile s t)
       ∧ ∀ off, off ∈ [0x000, 0x010, 0x018, 0x030, 0x038, 0x408, 0x500, 0x600, 0x608] →
           exec (.registerWrite (.tile t) off false v) s = .next (wakeTile s t))
     ∧ (∀ c, exec (.registerWrite (.geyser c) 0x020 false v) s = .next (if bitAt w 0 then
         setGey s c (fun g => { g with fault := { g.fault with valid := false } }) else s))
     ∧ (∀ p, exec (.registerWrite (.mgtPart p) 0x018 false v) s = .next (if bitAt w 0 then
         setPart s p (fun x => { x with audit := { x.audit with mismatch := false } }) else s))
     ∧ (∀ d, d < 2 → exec (.registerWrite .clk (0x08 + 8 * d) false v) s = .next (setDie s d
         (fun x => { x with csel := bitsAt w 0 6, fsel := bitAt w 8, fumsel := bitAt w 9 })))
     ∧ (∀ t, t < 96 → exec (.registerWrite .clk (0x100 + 8 * t) false v) s = .next (if bitsAt w 8 3 ≠ 0 then s else resumeQueues s (setTile s t
         (fun x => { x with runEn := bitsAt w 0 4, sleepEn := bitsAt w 4 4, dsleepEn := bitsAt w 8 4 })))))
  ∧ (∀ s : State,
        (∀ v : W64, bitsAt v.toNat 0 5 < 0x0E → bitsAt v.toNat 8 5 < 0x0E → bitAt v.toNat 31 = true →
          exec (.fmeasStart v) s = .next { s with clk := { s.clk with
            fRef := bitsAt v.toNat 0 5, fTgt := bitsAt v.toNat 8 5, fIdx := bitsAt v.toNat 16 4, fWexp := bitsAt v.toNat 24 4
            fRun := true, fDone := false } })
        ∧ (∀ n, n < 2 ^ 40 → s.clk.fRun = true → ¬ (s.clk.fTgt = 8 ∧ s.clk.fRef = 0) →
          ∃ s', exec (.fmeasDone n) s = .next s' ∧ s' = { s with clk := { s.clk with fRun := false, fDone := true, fCount := n } }
            ∧ readReg s' .clk 0x28 = n)
        ∧ exec .pwrSupplyRead s = .next { s with pwr := { s.pwr with vmin := 0xFFFF, vmax := 0 } })

/-! ## The host interface -/

/-- The enable bits of a function's rings: a ring of a valid size is enabled with its counts at 0, one that may not be is refused with
CFG_ERR, and clearing an enable keeps what was fetched, completed or posted (R518, R520, R526).
Counts that the host writes: a submission tail no more than ENTRIES ahead of HEAD is taken, any other sets SQ_ERR; a consumer head
between its old value and TAIL is taken, any other is ignored; the event records that HEAD passes acknowledge their errors
(R521, R522, R670).
Where a clause rests on a choice of the model it is that of notes/assumptions/49.md. -/
def Obligations.RingRegisters : Prop :=
  (∀ (s : State) (n : Nat),
     let f := getFunc s n
     (f.sqEn = false → exec (.sqEnable n) s = .next (setFunc s n (fun f =>
       if f.cqEn && sizeOk 16 f.sqSize then { f with sqEn := true, sqHead := 0, sqTail := 0 } else { f with cfgErr := true })))
     ∧ exec (.sqDisable n) s = .next (setFunc s n (fun f => { f with sqEn := false }))
     ∧ (f.cqEn = false → f.cqHeld = [] → exec (.cqEnable n) s = .next (setFunc s n (fun f =>
       if sizeOk 16 f.cqSize then { f with cqEn := true, cqHead := 0, cqTail := 0 } else { f with cfgErr := true })))
     ∧ exec (.cqDisable n) s = .next (setFunc s n (fun f => { f with cqEn := false }))
     ∧ (f.evtEn = false → exec (.evtEnable n) s = .next (setFunc s n (fun f =>
       if sizeOk 64 f.evtSize then { f with evtEn := true, evtHead := 0, evtTail := 0 } else { f with cfgErr := true })))
     ∧ (f.evtEn = true → f.evtRing = [] → exec (.evtDisable n) s = .next (setFunc s n (fun f => { f with evtEn := false })))
     ∧ (∀ a r z, s.Units → n < 13 → f.evtEn = true → f.evtLost = none → f.evtRing = a :: r → f.evtRing.getLast? = some z →
       ∃ s', exec (.evtDisable n) s = .next s' ∧ (getFunc s' n).evtEn = false ∧ (getFunc s' n).evtRing = []
         ∧ (∃ l, (getFunc s' n).evtLost = some l ∧ l.count = f.evtRing.length ∧ l.first = a.time ∧ l.last = z.time)
         ∧ s'.mem = s.mem ∧ s'.host = s.host))
  ∧ (∀ (s : State) (n : Nat) (v : W32),
        let f := getFunc s n
        let w := v.toNat
        exec (.dciSqTail n v) s = .next (setFunc s n (fun f =>
          if countDiff w f.sqHead ≤ f.sqSize then { f with sqTail := w } else { f with sqErr := true }))
        ∧ (countDiff w f.cqHead ≤ countDiff f.cqTail f.cqHead → f.cqHeld = [] →
          exec (.dciCqHead n v) s = .next (setFunc s n (fun f => { f with cqHead := w })))
        ∧ (countDiff f.cqTail f.cqHead < countDiff w f.cqHead → exec (.dciCqHead n v) s = .next s)
        ∧ (countDiff w f.evtHead ≤ countDiff f.evtTail f.evtHead → s.Units → n < 13 →
          ∃ s', exec (.evtRingHead n v) s = .next s' ∧ (getFunc s' n).evtHead = w
            ∧ (getFunc s' n).evtRing = f.evtRing.drop (countDiff w f.evtHead)
            ∧ (∀ x, x ∈ s'.errors ↔ x ∈ s.errors ∧ ¬ (x.fn = n ∧ ∃ e ∈ f.evtRing.take (countDiff w f.evtHead), e.cls ≠ 0 ∧ x.seq = some e.seq)))
        ∧ (countDiff f.evtTail f.evtHead < countDiff w f.evtHead → exec (.evtRingHead n v) s = .next s))

/-- Entries of the rings: an enabled ring of a served function with room reserved for the completion is fetched at HEAD, which a failed
read leaves where it is: the command that the entry spells joins the outstanding ones, and an entry that its doorbell overtook spells
what its free bytes do; a record of the queue is written at TAIL of an event ring with room; a vector that may be sent is written as its
data at its address, another is pending until it is unmasked (R505, R512, R513, R521, R524, R526, R527).
Where a clause rests on a choice of the model it is that of notes/assumptions/11.md and notes/assumptions/50.md. -/
def Obligations.RingsMoveEntries : Prop :=
  ∀ (s : State) (n : Nat), s.Units → n < 13 →
    let f := getFunc s n
    ((∀ o ∈ f.outstanding, o.cmd.isSome = true) → f.sqEn = true → f.sqHead ≠ f.sqTail → funcReady s n = true →
      funcServed s n = true → fetchRoom f = true →
      (tagFree s n = false → ∀ r, exec (.submissionFetch n r) s = .next s)
      ∧ (tagFree s n = true → ∀ r, (r = .failed ∨ hostReadOk s n = false) →
        exec (.submissionFetch n r) s = .next (setFunc s n (fun f => { f with sqErr := true, sqEn := false })))
      ∧ (hostReadOk s n = true → tagFree s n = true →
        let b := hostRead s (f.sqBase + 64 * (f.sqHead % f.sqSize)) 64
        let o : DciOut := { tag := BitVec.ofNat 32 (leAt b 4 4), cmd := decodeEntry n b, fence := bitAt (leAt b 2 2) 0,
                            fetched := now s, seq := s.fetchSeq, stage := .fetched }
        ((decodeEntry n b).isSome = true →
          exec (.submissionFetch n .data) s = .next (setFunc { s with fetchSeq := s.fetchSeq + 1 } n (fun f => { f with
            sqHead := (f.sqHead + 1) % 2 ^ 32, outstanding := f.outstanding ++ [o] })))
        ∧ ∃ s', exec (.submissionFetch n .early) s = .next s' ∧ (getFunc s' n).sqHead = (f.sqHead + 1) % 2 ^ 32 ∧ s'.mem = s.mem))
    ∧ (∀ e r, f.evtEn = true → hostWriteOk s n = true → evtRoom f = true → f.evtLost = none → f.evtIrq = false →
      (evQueue s n).ents = e :: r →
      ∃ s', exec (.eventRingWrite n) s = .next s' ∧ (evQueue s' n).ents = r
        ∧ (getFunc s' n).evtTail = (f.evtTail + 1) % 2 ^ 32 ∧ (getFunc s' n).evtRing = f.evtRing ++ [e]
        ∧ (Memory.wf s.host → hostRead s' (f.evtBase + 64 * (f.evtTail % f.evtSize)) 64 = eventBytes e) ∧ s'.mem = s.mem)
    ∧ (∀ v e, v < 64 → f.msix[v]? = some e → e.pendingBit = true → hostWriteOk s n = true →
      (∀ k x, k ≠ v → f.msix[k]? = some x → x.pendingBit = false) →
      ∃ s', exec (.msixUnmask n v) s = .next s'
        ∧ (getFunc s' n).msix[v]? = some { e with masked := false, pendingBit := false }
        ∧ (Memory.wf s.host → hostRead s' e.addr.toNat 4 = leBytes 4 e.data.toNat) ∧ s'.mem = s.mem)

/-- A function-level reset returns BAR0 and Bus Master Enable to their reset values and keeps what the device holds for the function; a
link-down or a hot reset does so for every function, loses the IDE keys and the device cache, and leaves partitions, jobs, streams,
tiles, ports, memory and Tyrax as they were (R502, R506, R628).
The link and time: training to a link that R499 supports sets width, speed and DEGRADED and lets what was held go out, and no other
link trains; a configuration request has its effect once a slice has come online, and none before, and setting VF Enable has none while the
link is degraded; a read returns the capability's value; a PTM dialog with a large first offset steps device time, and one beyond 1 ms
leaves its rate; no dialog for 1 s clears PTM_VALID; a failed stream is insecure; a snoop drops the line and the host's write is where a
coherent region shows it (R499, R500, R503, R505, R508, R510, R528, R530, R630).
Where a clause rests on a choice of the model it is that of notes/assumptions/11.md, notes/assumptions/49.md and notes/assumptions/51.md. -/
def Obligations.InterfaceResetsLinkAndTime : Prop :=
  (∀ (s : State), s.Units →
     let clean := fun (x y : Func) => { y with outstanding := [], cqHeld := [], feeds := [], evtLost := none } = Func.reset
       ∧ y.outstanding = x.outstanding ∧ y.cqHeld = x.cqHeld ∧ y.feeds = x.feeds
     let rest := fun (s' : State) => s'.parts.map (fun p => { p with queue := EvQueue.reset }) = s.parts.map (fun p => { p with queue := EvQueue.reset })
       ∧ s'.jobs = s.jobs ∧ s'.streams = s.streams ∧ s'.tasks = s.tasks ∧ s'.tiles = s.tiles ∧ s'.ports = s.ports ∧ s'.mem = s.mem
       ∧ s'.host = s.host ∧ s'.mgt = s.mgt ∧ s'.scopes = s.scopes
     (∀ n, n < 13 → ∃ s', exec (.flr n) s = .next s' ∧ clean (getFunc s n) (getFunc s' n) ∧ rest s'
       ∧ (∀ k, k ≠ n → getFunc s' k = getFunc s k) ∧ s'.link = s.link ∧ s'.cache = s.cache)
     ∧ (∀ i ∈ [Instr.linkDown, .hxPerstN], ∃ s', exec i s = .next s' ∧ (∀ n, n < 13 → clean (getFunc s n) (getFunc s' n)) ∧ rest s'
       ∧ s'.cache = [] ∧ s'.link.ideSecure = [] ∧ s'.link.ideKeys = [] ∧ s'.link.width = 0 ∧ s'.link.speed = 0
       ∧ s'.link.vfEnable = s.link.vfEnable ∧ s'.link.numVFs = s.link.numVFs))
  ∧ (∀ s : State,
        (∀ w v flit68,
          let d := decide (w < 8) || decide (4 ≤ v)
          let l := { s.link with width := w, speed := v, flit68 := flit68, degraded := d }
          (w ∈ [1, 2, 4, 8, 16] ∧ 1 ≤ v ∧ v ≤ 6 ∧ (flit68 = true → v = 1 ∨ v = 2) →
            (∃ s', exec (.linkTrained w { speed := v, flit68 := flit68 }) s = .next s' ∧ s'.link = l)
            ∧ (s.heldWrites = [] → (∀ n, (getFunc s n).cqHeld = [] ∧ ∀ e ∈ (getFunc s n).msix, e.pendingBit = false) →
              exec (.linkTrained w { speed := v, flit68 := flit68 }) s = .next { s with cache := if d then [] else s.cache, link := l }))
          ∧ (w ∉ [1, 2, 4, 8, 16] ∨ v = 0 ∨ 6 < v ∨ (flit68 = true ∧ v ≠ 1 ∧ v ≠ 2) → exec (.linkTrained w { speed := v, flit68 := flit68 }) s = .next s))
        ∧ ((∀ x ∈ s.slices, x.online = false) → ∀ r, exec (.configurationRequest r) s = .next s)
        ∧ ((∃ x ∈ s.slices, x.online = true) →
          (∀ b, exec (.configurationRequest (.ptmEnable b)) s = .next { s with time := { s.time with ptmEnable := b } })
          ∧ (s.link.degraded = true → exec (.configurationRequest (.vfEnable true)) s = .next s
            ∧ ∃ s', exec (.configurationRequest (.vfEnable false)) s = .next s' ∧ s'.link = { s.link with vfEnable := false })
          ∧ (∀ n, 12 < n → exec (.configurationRequest (.numVFs n)) s = .next s)
          ∧ (∀ p ∈ [(CfgReg.totalVFs, 12), (.initialVFs, 12), (.firstVfOffset, 1), (.vfStride, 1), (.numVFs, s.link.numVFs)],
              exec (.configurationRequest (.read p.1)) s = .next { s with link := { s.link with cfgData := p.2 } })
          ∧ (∀ n, s.Units → n < 13 → funcServed s n = true →
              exec (.configurationRequest (.busMaster n false)) s = .next (setFunc s n (fun f => { f with bme := false }))))
        ∧ (∀ off : Int, s.time.ptmEnable = true → s.clk.xtalOk = true → tyraxUp s = true → s.time.noStep = false →
          s.time.ptmSeen = false → ∃ s', exec (.ptmDialog true off) s = .next s'
            ∧ s'.time.acc = ((s.time.acc : Int) + off * 2 ^ 40).toNat ∧ s'.time.ptmValid = true ∧ s'.time.ptmSeen = true
            ∧ s'.time.auditNext = ((s.time.auditNext : Int) + off).toNat ∧ s'.mem = s.mem ∧ s'.tiles = s.tiles)
        ∧ (∀ off : Int, s.time.ptmEnable = true → s.clk.xtalOk = true → tyraxUp s = true → s.time.noStep = true →
          ∃ s', exec (.ptmDialog true off) s = .next s' ∧ s'.time.acc = s.time.acc
            ∧ (off.natAbs < 1000 → s'.time.ptmValid = true) ∧ (1000000 < off.natAbs → s'.time.ptmValid = false ∧ s'.time.incr = s.time.incr))
        ∧ (∃ s', exec .ptmTimeout s = .next s' ∧ s'.time = { s.time with ptmValid := false } ∧ s'.mem = s.mem ∧ s'.tiles = s.tiles)
        ∧ (∀ k, k ∈ s.link.ideSecure → ∃ s', exec (.ideFailure k) s = .next s' ∧ k ∉ s'.link.ideSecure
          ∧ (∀ j, j ≠ k → (j ∈ s'.link.ideSecure ↔ j ∈ s.link.ideSecure)) ∧ s'.mem = s.mem)
        ∧ (∀ a bs, ∃ s', exec (.h2dSnoop a bs) s = .next s' ∧ a / 64 * 64 ∉ s'.cache ∧ s'.mem = s.mem
          ∧ (∀ r, ((List.range 13).flatMap (funcRegions s)).filter regCoherent = [r] → r.hpa ≤ a → a + bs.length ≤ r.hpa + r.len →
              Memory.wf s.host → hostRead s' (r.bus + (a - r.hpa)) bs.length = bs)))

/-! ## DCI commands in general -/

/-- Every DCI command is checked in the order of R537, and the first check that fails decides its status; a command whose entry has not
been fetched, that comes before one fetched earlier is taken, that FENCE orders behind another, or that comes while Tyrax does not run, has
no effect yet; a codec's TABLE_LOAD that loads nothing has RESULT 0xFFFFFFFF, and one behind another of its job and codec is checked at its
turn (R168, R524, R532, R534, R536, R537, R574, R594).
The commands that R425 orders run one after another for each partition, in the order in which they reached it: while one is in
progress, or one that came earlier waits, a later one is held and takes its place in the queue (R425).
Where a clause rests on a choice of the model it is that of notes/assumptions/40.md, notes/assumptions/41.md and notes/assumptions/76.md. -/
def Obligations.DciChecksInOrder : Prop :=
  (∀ (i : Instr) (h : DciHdr) (k : DciKind) (s : State), Instr.dci i = some (h, k) →
     let result := match i with
       | .tableLoad _ kind _ _ _ _ _ => if kind = 1 ∨ kind = 2 then 0xFFFFFFFF else 0
       | _ => 0
     let refused := fun (st : Nat) => exec i s = .next (turnOver i h (dciComplete s h.fn h.tag st result 0))
     let dev := h.fn = 0 ∧ h.part = 0xF0
     let bad := h.rsv = true ∨ (k.tmo = false ∧ h.timeout ≠ 0)
       ∨ (k.part = true ∧ ¬ (h.part.toNat < 12 ∨ (h.fn ≠ 0 ∧ h.part = 0xFF) ∨ (k.dev = true ∧ dev)))
     let denied := h.fn ≠ 0 ∧ (k.pf = true ∨ (k.part = true ∧ h.part ≠ 0xFF ∧ h.part.toNat ≠ h.fn - 1))
     let st := (getPart s (partOf h)).state
     let first := match i with
       | .tableLoad _ kind job _ _ _ _ => ∀ w ∈ s.waiters, tableKey w.what ≠ some (kind.toNat, job)
       | _ => True
     (dciHeld s i h = true → exec i s = .next s)
     ∧ (dciHeld s i h = false → (takesTurn i h = true → atOnce i h s = true ∨ shapeTurn s h = true) → first →
       (bad → refused stInvalid)
       ∧ (¬ bad → denied → refused stDenied)
       ∧ (¬ bad → ¬ denied → k.part = true → ¬ dev → st = .none → k.exempt = false → refused stNotFound)
       ∧ (¬ bad → ¬ denied → k.part = true → ¬ dev → st = .faulted → k.faulted = false → refused stFaulted)))
  ∧ (∀ (i : Instr) (h : DciHdr) (k : DciKind) (s : State), Instr.dci i = some (h, k) → takesTurn i h = true → dciHeld s i h = false →
        atOnce i h s = false →
        let p := partOf h
        let q := (getPart s p).shapeQ
        (getPart s p).shapeOp.isSome = true ∨ (getPart s p).tableNext.isSome = true
          ∨ (∃ w ∈ s.waiters, ∃ j x, w.what = .jobStop j ∧ getJob s j = some x ∧ x.part = p)
          ∨ (∃ w ∈ s.waiters, ∃ n b, w.what = .cfg p n b)
          ∨ (∃ e, q.head? = some e ∧ e ≠ (h.fn, h.tag)) →
        exec i s = .next (setStage (setPart s p (fun x => { x with
          shapeQ := if (h.fn, h.tag) ∈ q then q else q ++ [(h.fn, h.tag)] })) h .taken))

/-- A completion of 16 bytes goes to the slot of TAIL with the phase of its pass when the ring is enabled, may be written and has room;
else it is held. Either way the command is outstanding no longer (R505, R518, R525).
A submitted chunk is queued in its ring, or ends DROPPED at once with the first cause of R301 that holds; both count it submitted
(R301, R302, R305, R331).
Where a clause rests on a choice of the model it is that of notes/assumptions/35.md. -/
def Obligations.DciCompletionsAndChunks : Prop :=
  (∀ (s : State) (fn : Nat) (tag : W32) (st r d : Nat), s.Units → fn < 13 → r < 2 ^ 32 → d < 2 ^ 64 →
     let f := getFunc s fn
     let gone := fun (f : Func) => { f with outstanding := f.outstanding.eraseP (fun o => o.tag = tag) }
     let room := decide (countDiff f.cqTail f.cqHead < f.cqSize)
     let phase := if f.cqTail / f.cqSize % 2 = 0 then 1 else 0
     let bytes := leBytes 4 (tag.toNat % 2 ^ 24 + 2 ^ 24 * st + 2 ^ 31 * phase) ++ leBytes 4 r ++ leBytes 8 d
     (f.cqEn = true → hostWriteOk s fn = true → f.cqHeld = [] → room = true → f.cqIrq = false →
       dciComplete s fn tag st r d =
         setFunc (hostWrite s (f.cqBase + 16 * (f.cqTail % f.cqSize)) bytes) fn
           (fun f => { gone f with cqTail := (f.cqTail + 1) % 2 ^ 32 }))
     ∧ (f.cqEn = false ∨ hostWriteOk s fn = false ∨ room = false →
       dciComplete s fn tag st r d = setFunc s fn (fun f => { gone f with
         cqHeld := f.cqHeld ++ [{ tag := tag.toNat, status := st, result := r, detail := d }] })))
  ∧ (∀ (s : State) (i : Nat) (st : Stream) (j : Job) (d : FeedDesc), s.Units → st.part < 12 → getStream s i = some st →
        getJob s st.job = some j →
        let s' := (submitChunk s i st d).2
        let need := (32 + d.bytes + 63) / 64 * 64
        (getPart s' st.part).totSubmitted = (getPart s st.part).totSubmitted + 1
        ∧ (∀ k, (submitChunk s i st d).1 = some k →
            (∃ (x : Job) (e : ChunkDone), getJob s' st.job = some x ∧ x.compQ = j.compQ ++ [e] ∧ e.ring = st.cring ∧ e.tag = d.tag
              ∧ e.stream = i ∧ e.status = 2 ∧ e.detail / 256 % 256 = k ∧ e.time = now s)
            ∧ (getStream s' i).map (·.chunks) = some st.chunks
            ∧ k = (if st.state = .faulted then 6 else if st.state = .closing then 4
                else if j.hdr.frameMax < d.frames ∨ d.bytes = 0 ∨ j.hdr.chunkMax < d.bytes ∨ (d.mark ≠ 0xFFFF ∧ d.frames ≤ d.mark) then 3
                else if 1023 ≤ (st.chunks.filter (fun c => !c.ended)).length then 2 else 1))
        ∧ ((submitChunk s i st d).1 = none →
            ∃ (x : Stream) (c : Chunk), getStream s' i = some x ∧ x.chunks = st.chunks ++ [c] ∧ c.tag = d.tag ∧ c.bytes = d.bytes
              ∧ c.landed = false ∧ c.ended = false ∧ c.off + need ≤ 64 * st.irunits ∧ x.irtail = st.irtail + c.used
              ∧ need ≤ c.used ∧ x.irtail - x.irhead ≤ 64 * st.irunits
              ∧ c.deadline = (if st.dclass < 2 then some (d.arrival + 1000 * j.hdr.chunkBound) else none)))

/-! ## Feeds and completions -/

/-- A doorbell gives a ring its tail, or is ignored and counted; Orchard reads the descriptor at the head, handles it and writes the
new head back; a read that fails stops the ring and is counted once; the read waits for a host-interface tag (R298, R300, R301, R513).
Where a clause rests on a choice of the model it is that of notes/assumptions/35.md. -/
def Obligations.FeedRings : Prop :=
  ∀ (s : State) (fn ring : Nat) (c : FeedCfg), feedCfg s fn ring = some c → 0 < fn →
    let f := getFeed s fn ring
    let a := c.base + 32 * (f.head % c.entries)
    let next := (f.head + 1) % 2 ^ 32
    (∀ v : W64, funcServed s fn = true → (getPart s (fn - 1)).state ≠ .none →
      (countDiff (v.toNat % 2 ^ 32) f.head ≤ c.entries → exec (.feedDb fn ring v) s = .next (setFeed s fn ring
        { f with tail := v.toNat % 2 ^ 32, doorbells := f.doorbells ++ [(v.toNat % 2 ^ 32, now s)], failed := false }))
      ∧ (c.entries < countDiff (v.toNat % 2 ^ 32) f.head → exec (.feedDb fn ring v) s = .next (orcAdd s (fn - 1) 4 1)))
    ∧ (tagFree s fn = false → ∀ r, exec (.feedDescriptor fn ring r) s = .next s)
    ∧ (f.head ≠ f.tail → f.failed = false → tagFree s fn = true →
      (∀ r, r = .failed ∨ hostReadOk s fn = false ∨ regionAt (funcRegions s fn) a 32 = none →
        exec (.feedDescriptor fn ring r) s = .next (setFeed (orcAdd s (fn - 1) 4 1) fn ring { f with failed := true }))
      ∧ (hostReadOk s fn = true → (regionAt (funcRegions s fn) a 32).isSome →
        ∃ (g : FeedRing) (t : Nat) (s1 : State), g.head = next ∧ g.tail = f.tail ∧ g.failed = false
          ∧ s1 = handleFeed (setFeed s fn ring g) (fn - 1) (parseFeed (dpaRead s (funcRegions s fn) a 32) t)
          ∧ exec (.feedDescriptor fn ring .data) s = .next (dpaPut s1 fn c.headwb (leBytes 4 next))))
    ∧ (∀ (s1 : State) (p : Nat) (d : FeedDesc),
      ((∀ st, getStream s1 d.stream = some st → st.part ≠ p) → handleFeed s1 p d = orcAdd s1 p 4 1)
      ∧ (∀ st, getStream s1 d.stream = some st → st.part = p →
        (d.rsv = true ∨ (d.frames = 0 ∧ d.flags % 2 = 0) ∨ (d.frames ≠ 0 ∧ d.flags % 2 = 1) → handleFeed s1 p d = orcAdd s1 p 4 1)
        ∧ (d.rsv = false → d.frames = 0 → d.flags % 2 = 1 → st.state ≠ .closing → st.state ≠ .faulted →
          handleFeed s1 p d = setStream s1 d.stream (fun x =>
            if x.state = .waiting then { x with rstNext := true } else { x with rstPend := true }))
        ∧ (d.rsv = false → d.frames ≠ 0 → d.flags % 2 = 0 → handleFeed s1 p d = (submitChunk s1 d.stream st d).2)))

/-- A payload that lands makes its chunk available: the record and the payload lie in the stream's ring in Caldera, and an OPEN stream
is RUNNABLE; a posted completion is the record of R305 at the ring's tail, whose word follows, and a PART_DESTROY that waits for it goes
on; a ring that the partition may not write tears its job down; a poll takes the head word (R26, R296, R302, R304 to R306, R508). -/
def Obligations.PayloadsAndCompletions : Prop :=
  ∀ (s : State), Memory.wf s.mem → s.Units →
    (∀ (i k : Nat) (st : Stream) (c : Chunk) (r : Region), getStream s i = some st → fetchIx st = some k → st.chunks[k]? = some c →
      c.ended = false → tagFree s (st.part + 1) = true → hostReadOk s (st.part + 1) = true → isHost c.src = true →
      regionAt (funcRegions s (st.part + 1)) c.src c.bytes = some r →
      let bs := hostRead s (busAddr r c.src) c.bytes
      ∃ s', exec (.payloadLanded i true) s = .next s'
        ∧ devRead s' (calAddr st.home (64 * st.irbase) + c.off) (32 + c.bytes) =
          leBytes 2 c.frames ++ leBytes 2 c.mark ++ leBytes 4 c.bytes ++ leBytes 4 c.tag ++ leBytes 4 0 ++ leBytes 8 c.arrival
            ++ leBytes 8 (c.deadline.getD (2 ^ 64 - 1)) ++ bs
        ∧ (∀ x, getStream s' i = some x → x.chunks = st.chunks.modify k (fun c => { c with landed := true })
          ∧ (x.state = st.state ∨ (st.state = .open ∨ st.state = .runnable) ∧ (x.state = .open ∨ x.state = .runnable)))
        ∧ (k = 0 → st.state = .open → (getStream s' i).map (·.state) = some .runnable) ∧ s'.host = s.host)
    ∧ (∀ (j n : Nat) (x : Job) (r : Ring) (d : ChunkDone), getJob s j = some x → x.rings[n]? = some r → waitingDone x n = some d →
      ringWritable s x.part r = true → countDiff r.tail r.head < r.nrec → writeOpen s (x.part + 1) r.base = true → writeOpen s (x.part + 1) r.ctl = true →
      let rs := funcRegions s (x.part + 1)
      let tail := (r.tail + 1) % 2 ^ 32
      ∃ s1, exec (.completionPost j n) s = .next (dropPosted (tryFree s1 d.stream) j)
        ∧ getJob s1 j = some { x with
            compQ := x.compQ.eraseP (fun e => e.ring = n), rings := x.rings.modify n (fun r => { r with tail := tail }) }
        ∧ (r.vector = 0xFFFF → s1.mem = (dpaWrite (dpaWrite s rs (r.base + 32 * (r.tail % r.nrec)) (chunkDoneBytes d)) rs (r.ctl + 4)
            (leBytes 4 tail)).mem
          ∧ s1.host = (dpaWrite (dpaWrite s rs (r.base + 32 * (r.tail % r.nrec)) (chunkDoneBytes d)) rs (r.ctl + 4)
            (leBytes 4 tail)).host)
        ∧ s1.streams = s.streams)
    ∧ (∀ (j n : Nat) (x : Job) (r : Ring) (d : ChunkDone), getJob s j = some x → x.rings[n]? = some r → waitingDone x n = some d →
      ringWritable s x.part r = false → exec (.completionPost j n) s = .next (if x.state = .tornDown then s else teardown s j 2 0))
    ∧ (∀ (j n : Nat) (x : Job) (r : Ring) (d : ChunkDone), getJob s j = some x → x.rings[n]? = some r → waitingDone x n = some d →
      headReadable s x.part r = true →
      ∃ s', exec (.ringHeadPoll j n) s = .next s'
        ∧ getJob s' j = some { x with rings := x.rings.modify n (fun r => { r with
            head := leNat (dpaRead s (funcRegions s (x.part + 1)) r.ctl 4) }) }
        ∧ s'.mem = s.mem ∧ s'.host = s.host ∧ s'.streams = s.streams)

/-! ## Streams -/

/-- STREAM_OPEN of a job with room, without a prefix: an OPEN entry with a reset due, on its home tile, with a ring, a free state slot
and a RESIDENT window of its own where the job has them (R292 to R296, R379, R551).
Where a clause rests on a choice of the model it is that of notes/assumptions/53.md. -/
def Obligations.StreamOpens : Prop :=
  ∀ (h : DciHdr) (dc : BitVec 2) (sr src : Bool) (prio : BitVec 4) (job : Nat) (units cring thr : BitVec 16) (lim : W32) (tag : W64)
    (s : State) (x : Job) (i ir : Nat),
    let cmd := Instr.streamOpen h dc sr src prio job units cring thr lim tag 0 0
    let p := partOf h
    let home := homeTile s job x
    Taken cmd h s → jobOf s p job = some x → x.state = .loaded ∨ x.state = .running → dc ≠ 3 → dc = 2 ∨ x.hdr.chunkBound ≠ 0 →
    2 ≤ units.toNat → (∃ r, x.rings[cring.toNat]? = some r ∧ r.kind = 1) → partUsed s p < (getPart s p).quota →
    tFree s.streams 0 65536 = some i → ringFit x home units.toNat = some ir →
    (∀ d, x.decl = some d → ∃ q, getPool s job (home / 8) = some q ∧ 2 * d.spare < q.free.length) →
    (∀ k, x.kv = some k → (freeWin k).isSome = true) →
    ∃ (s1 : State) (st : Stream) (handle : Nat),
      exec cmd s = .next (dciComplete s1 h.fn h.tag stOk 0 (i + 2 ^ 16 * home + 2 ^ 32 * handle))
      ∧ getStream s1 i = some st
      ∧ st.state = .open ∧ st.rstPend = true ∧ st.job = job ∧ st.part = p ∧ st.home = home ∧ st.step = 0 ∧ st.chunks = []
      ∧ st.irbase = ir ∧ st.irunits = units.toNat ∧ st.cring = cring.toNat ∧ st.dclass = dc.toNat ∧ st.prio = prio.toNat
      ∧ st.sr = sr ∧ st.src = src ∧ st.driftLimit = lim.toNat ∧ st.exitThr = thr.toNat ∧ st.tag = tag.toNat ∧ st.kvlen = 0
      ∧ (x.decl = none → st.slot = 0)
      ∧ (∀ d q, x.decl = some d → getPool s job (home / 8) = some q → st.slot ∈ q.free
        ∧ ∃ q', getPool s1 job (home / 8) = some q' ∧ q'.free = q.free.filter (fun a => a ≠ st.slot))
      ∧ (x.kv = none → handle = 0xFFFFFFFF ∧ st.kvw = none)
      ∧ (∀ k w, x.kv = some k → freeWin k = some w → st.kvw = some w ∧ handle = (k.winTab + 128 * w) / 128
        ∧ ∃ k' v, getKv s1 job = some k' ∧ tGet k'.wins w = some v ∧ v.state = .resident ∧ v.pages = [] ∧ v.stream = i)

/-- What the commands on one stream do in each of its states; a close waits while the flush of the stream's window is pending (R296,
R297, R389, R552 to R555).
Where a clause rests on a choice of the model it is that of notes/assumptions/28.md. -/
def Obligations.StreamCommands : Prop :=
  ∀ (h : DciHdr) (s : State) (i : Nat) (st : Stream), getStream s i = some st → st.part = partOf h →
    let put := fun (f : Stream → Stream) => setStream s i f
    let ok := fun (cmd : Instr) (s1 : State) (r d : Nat) => exec cmd s = .next (dciComplete s1 h.fn h.tag stOk r d)
    (∀ desc : List Byte, Taken (.streamFeed h desc) h s →
      let d := parseFeed desc (submitted s h.fn h.tag)
      d.stream = i → d.rsv = false →
        (d.frames ≠ 0 → d.flags % 2 = 0 →
          ok (.streamFeed h desc) (submitChunk s i st d).2 0 ((submitChunk s i st d).1.getD 0))
        ∧ (d.frames = 0 → d.flags % 2 = 1 → st.state ≠ .closing → st.state ≠ .faulted →
          ok (.streamFeed h desc) (put (fun x =>
            if x.state = .waiting then { x with rstNext := true } else { x with rstPend := true })) 0 0))
    ∧ (Taken (.streamPause h i) h s →
      (st.state ∈ [.open, .runnable, .paused] → ok (.streamPause h i) (put (fun x => { x with state := .paused })) 4 0)
      ∧ (st.state = .preempted → ok (.streamPause h i) (put (fun x => { x with ppause := true })) 5 0)
      ∧ (st.state = .waiting → exec (.streamPause h i) s =
          .next (nowWaits (.streamPause h i) h (dciWait (put (fun x => { x with ppause := true })) h.fn h.tag (.pause i) none))))
    ∧ (Taken (.streamResume h i) h s →
      let goes := fun (x : Stream) (r : Nat) => ∃ s1, ok (.streamResume h i) s1 r 0 ∧ OnlyStream s s1 i x
      (st.state = .open → goes st 1) ∧ (st.state = .runnable → goes st 2) ∧ (st.state = .waiting → goes { st with ppause := false } 3)
      ∧ (st.state = .preempted → goes { st with ppause := false } 5)
      ∧ (st.state = .paused → headReady st = true → goes { st with state := .runnable } 2)
      ∧ (st.state = .paused → headReady st = false → goes { st with state := .open } 1))
    ∧ (∀ discard, Taken (.streamClose h i discard) h s →
      let goes := fun (x : Stream) (r : Nat) => ∃ s1, ok (.streamClose h i discard) s1 r 0 ∧ OnlyStream s s1 i x
      (st.state ∈ [.open, .runnable, .paused] → st.chunks ≠ [] → discard = false → flushing s st = false → st.ppreempt = false →
        goes { st with state := .closing, ppause := false, pclose := false, discard := false } 6)
      ∧ (st.state = .waiting → discard = false → goes { st with pclose := true } 3)
      ∧ (st.state ∈ [.open, .runnable, .paused, .preempted] → flushing s st = true →
        exec (.streamClose h i discard) s = .next (nowWaits (.streamClose h i discard) h (dciWait (put (fun x => { x with
          pclose := true, discard := x.discard || discard })) h.fn h.tag (.close i) none)))
      ∧ (st.state ∈ [.open, .runnable, .paused] → st.chunks = [] → doneWaiting s st i = false → st.kvw = none →
        ∃ s1, ok (.streamClose h i discard) s1 0 0 ∧ getStream s1 i = none))
    ∧ (∀ (clr : Bool) (buf : W64), Taken (.streamQuery h i clr buf) h s →
      (buf = 0 ∨ (outFn s h (some (partOf h)) buf.toNat 128).isSome ∧ bufOpen s h (some (partOf h)) buf.toNat 128 = true) →
      let s1 := if buf = 0 then s else writeBuf s h (some (partOf h)) buf.toNat (entryBytes s st)
      ok (.streamQuery h i clr buf) (if clr then setStream s1 i (fun x => { x with driftSat := 0, driftNan := 0 }) else s1)
        (stCode st.state) (st.driftSat + 2 ^ 32 * st.driftNan + 2 ^ 48 * st.replays))

/-! ## The page unit -/

/-- Windows move between Caldera and HBM and the swap area: a swap-out preempts the stream and pins what it writes, or waits for the step
in flight or the pending flush; when it lands the window is SWAPPED, or RESIDENT again after a fault; a swap-in makes it RESIDENT and the
stream runs again; a swap lands when its transactions may, and faults while the function may not use host memory (R234, R296, R389, R406 to
R409, R505, R513).
A flush writes the complete run of a window in every layer, all of them or none, and clears FLUSH_PEND; a close, and else a
preemption, that waited for it follows; without frames the window waits (R388, R389, R405).
Where a clause rests on a choice of the model it is that of notes/assumptions/20.md, notes/assumptions/36.md, notes/assumptions/37.md, notes/assumptions/79.md and notes/assumptions/89.md. -/
def Obligations.KvSwapsAndFlushes : Prop :=
  (∀ (h : DciHdr) (s : State) (i w : Nat) (st : Stream) (k : KvJob) (v : Window),
     getStream s i = some st → st.kvw = some w → getKv s st.job = some k → tGet k.wins w = some v →
     let win := fun (s' : State) => (getKv s' st.job).bind (fun k => tGet k.wins w)
     let state := fun (s' : State) => (getStream s' i).map (·.state)
     let comes := fun (s' : State) => win s' = some { v with state := .swappingIn, moving := swappedRecs k v }
     (Taken (.kvSwapOut h i) h s → st.part = partOf h → v.state = .resident → ∀ a, swapFit s st.part (winImage k v) = some a →
       let waits := s.waiters ++ [{ fn := h.fn, tag := h.tag, what := .kvOut i, deadline := none }]
       (st.state ∈ [.open, .runnable, .paused] → v.flushPend = false →
         ∃ s' v', exec (.kvSwapOut h i) s = .next s' ∧ win s' = some v' ∧ v'.state = .swappingOut ∧ v'.swap = a
           ∧ v'.swapLen = winImage k v / 4096 ∧ v'.moving = swapRecs k v ∧ state s' = some .preempted ∧ s'.waiters = waits)
       ∧ (st.state = .waiting ∨ st.state ∈ [.open, .runnable, .paused] ∧ v.flushPend = true →
         exec (.kvSwapOut h i) s = .next (nowWaits (.kvSwapOut h i) h
           (setStream { s with waiters := waits } i (fun x => { x with ppreempt := true })))))
     ∧ (st.state = .preempted → v.state = .swappingOut →
       (hostReadOk s (st.part + 1) = true → swapReady s st.part st.job w = true →
         PageMemory s st.part ∨ (∃ bs, swapBodies s (st.part + 1) k v.moving = .ok bs) →
         ∃ s' v', exec (.swapOutLanded i true) s = .next s' ∧ win s' = some v' ∧ v'.state = .swapped ∧ v'.moving = []
           ∧ v'.swap = v.swap ∧ (∀ x ∈ s'.waiters, x.what ≠ .kvOut i))
       ∧ (∃ s' v', exec (.swapOutLanded i false) s = .next s' ∧ win s' = some v' ∧ v'.state = .resident ∧ v'.swap = 0
           ∧ (∀ x ∈ s'.waiters, x.what ≠ .kvOut i)
           ∧ (state s' = some .paused ∨ state s' = some .open ∨ state s' = some .runnable)))
     ∧ (v.state = .swapped → SwapInFits s st.job k v w →
       (Taken (.kvSwapIn h i) h s → st.part = partOf h → st.state ≠ .closing → st.state ≠ .faulted →
         ∃ s' n, exec (.kvSwapIn h i) s = .next s' ∧ comes s'
           ∧ s'.waiters = s.waiters ++ [{ fn := h.fn, tag := h.tag, what := .kvIn i n, deadline := none }])
       ∧ (v.stream = i → v.auto = true → st.state = .preempted → winPriv k v + k.hdr.reserve ≤ kvFreeFrames k →
         (∀ e ∈ k.wins, e.1 ≠ w → autoWaits s e.2 = none) →
         ∃ s', exec (.autoSwapIn i) s = .next s' ∧ comes s' ∧ s'.waiters = s.waiters))
     ∧ (st.state = .preempted → v.state = .swappingIn → swapReady s st.part st.job w = true → hostReadOk s (st.part + 1) = true →
       Decodes s (st.part + 1) v.swap (imageRecs k v).2 →
       ∃ s' v', exec (.swapInLanded i true) s = .next s' ∧ win s' = some v' ∧ v'.state = .resident ∧ v'.swap = 0 ∧ v'.moving = []
         ∧ (∀ x ∈ s'.waiters, ∀ n, x.what ≠ .kvIn i n)
         ∧ state s' = some (if st.ppause then .paused else if headReady st then .runnable else .open))
     ∧ (st.state = .preempted → v.state = .swappingIn →
       ∃ s' v', exec (.swapInLanded i false) s = .next s' ∧ win s' = some v' ∧ v'.state = .swapped ∧ state s' = some .preempted)
     ∧ (hostReadOk s (st.part + 1) = true → swapReady s st.part st.job w = false →
       (v.state = .swappingOut → exec (.swapOutLanded i true) s = .next s) ∧ (v.state = .swappingIn → exec (.swapInLanded i true) s = .next s))
     ∧ (hostReadOk s (st.part + 1) = false →
       (v.state = .swappingOut → exec (.swapOutLanded i true) s = exec (.swapOutLanded i false) s)
       ∧ (v.state = .swappingIn → exec (.swapInLanded i true) s = exec (.swapInLanded i false) s)))
  ∧ (∀ (s : State) (i w : Nat) (st : Stream) (k : KvJob) (v : Window),
        getStream s i = some st → st.kvw = some w → getKv s st.job = some k → tGet k.wins w = some v → v.flushPend = true →
        v.state = .resident → st.state ≠ .waiting →
        (∀ s1, flushRun s st.job w st = .ok s1 →
          exec (.kvFlush i) s = .next (tryFree (flushEnd (countFlush s1 st.job w i v) i) i)
          ∧ ∀ k' v', getKv s1 st.job = some k' → tGet k'.wins w = some v' → v'.flushPend = false ∧ v'.waitFrames = false)
        ∧ (st.state ∈ [.open, .runnable, .paused] → st.pclose = false → st.ppreempt = false → PageMemory s st.part →
          k.hdr.keep = 0 ∨ v.flushFrom % 2 = 0 →
          (∀ l, l < k.hdr.nlayers → ∃ x r, pageRec s st.job w l (if v.flushFrom ≤ 1 then 3 else pageOf (64 * v.flushFrom)) = some (x, r)
            ∧ r.ref = 1 ∧ r.pin = 0) →
          ∃ s', exec (.kvFlush i) s = .next s' ∧ (getStream s' i).map (·.state) = some st.state
            ∧ ((getKv s' st.job).bind (fun k => tGet k.wins w)).map (fun v => (v.flushPend, v.waitFrames)) = some (false, false))
        ∧ (flushRun s st.job w st = .error .noFrames → ∃ s', exec (.kvFlush i) s = .next s'
          ∧ ((getKv s' st.job).bind (fun k => tGet k.wins w)).map (·.waitFrames) = some true))

/-- PREFIX_INSERT makes the nodes that the background version lacks and PREFIX_DROP removes a node with all below it; each waits for
the switch, which comes at once in a partition that runs no job; at the switch lookups see the background version (R397 to R400).
Where a clause rests on a choice of the model it is that of notes/assumptions/38.md. -/
def Obligations.PrefixTrees : Prop :=
  ∀ (h : DciHdr) (s : State) (n : W32) (a : W64) (b : List Byte), PartReads s (partOf h) a.toNat (4 * n.toNat) b →
    let p := partOf h
    let waits := fun (i : Instr) (s1 : State) (r : Nat) => nowWaits i h (idleSwitch (setPart s1 p (fun x => { x with
      treeOps := x.treeOps ++ [{ fn := h.fn, tag := h.tag, result := r }] })) p)
    (∀ i st w k, Taken (.prefixInsert h i n a) h s → (levelAt n.toNat).isSome = true → openWin s p i = some (st, w, k) →
      n.toNat ≤ st.kvlen / 64 * 64 →
      let plan := insertPlan s k st.job w (tokenList b) 0 262 none (rootHash ((getJob s st.job).elim 0 (·.hdr.seed))) []
      let new := plan.filter (fun e => e.2.2.2.isSome)
      (treeNodes k).length + new.length ≤ k.hdr.nodes →
      treeToks k + (new.map (fun e => e.2.2.1.length)).sum ≤ k.hdr.tokwords →
      exec (.prefixInsert h i n a) s = .next (waits (.prefixInsert h i n a) (makeNodes st.job plan none s)
        (plan.getLast?.elim 0 (fun e => levelStart e.1 + levelSize e.1))))
    ∧ (∀ j x k l e, Taken (.prefixDrop h j n a) h s → levelAt n.toNat = some l → jobOf s p j = some x → x.kv = some k →
      let path := (matchFrom k.bg (fun _ => false) (tokenList b) none (rootHash x.hdr.seed) 0 (l + 1)).1
      path.length = l + 1 → path.getLast? = some e →
      exec (.prefixDrop h j n a) s = .next (waits (.prefixDrop h j n a) (removeNode s j e.1) (subtree k.bg e.1).length)
      ∧ ∀ k', getKv (removeNode s j e.1) j = some k' →
        k'.fg = k.fg ∧ (∀ m ∈ k'.bg, m ∈ k.bg) ∧ (∀ m ∈ k.bg, m ∈ k'.bg ∨ m.1 ∈ subtree k.bg e.1))
    ∧ (∀ j x k, getJob s j = some x → x.part = p → x.kv = some k →
      ∃ k', getKv (switchTrees s p) j = some k' ∧ k'.fg = k.bg ∧ k'.bg = k.bg ∧ k'.gone = [])
    ∧ (getPart (switchTrees s p) p).treeOps = []

/-! ## Partitions and jobs -/

/-- PART_CREATE takes free slices online, makes a new key and waits for the zeros; then the partition is EMPTY and schedules, its slices
read as zeros, and its set is version 1 with reset values and the quota (R421, R422, R424, R426, R545, R587).
PART_RESIZE and PART_DESTROY: the slices that leave and those that come are zeroed, the new set differs in version and quota, and a
destroyed partition has no state, key, slices or set, keeps its counts and the record of a failed audit, and waits for the completions of
its jobs (R423, R424, R461, R463, R545, R577, R589).
Where a clause rests on a choice of the model it is that of notes/assumptions/43.md. -/
def Obligations.PartitionShapes : Prop :=
  (∀ (s : State) (p : Nat), s.Units → p < 12 →
     (∀ (h : DciHdr) (m : BitVec 12) (q : W32), Taken (.partCreate h m q) h s → partOf h = p → (getPart s p).state = .none → m ≠ 0 →
       q.toNat ≤ 65536 → slicesFree s p m.toNat = true →
       let quota := if q = 0 then 5456 * popMask m.toNat else q.toNat
       otherQuotas s p + quota ≤ 65536 →
       ∃ s', exec (.partCreate h m q) s = .next s'
         ∧ (getPart s' p).shapeOp = some (.create h.fn h.tag) ∧ (getPart s' p).state = .none ∧ (getPart s' p).slices = m.toNat
         ∧ (getPart s' p).quota = quota ∧ (getPart s' p).entFree = quota ∧ (getPart s' p).key = some (Config.random s.freeCtr)
         ∧ (getPart s' p).keyGen = ((getPart s p).keyGen + 1) % 2 ^ 32 ∧ (∀ k, k ≠ p → getPart s' k = { getPart s k with
             tagsHeld := (getPart s' k).tagsHeld, tagsFree := (getPart s' k).tagsFree })
         ∧ s' = { s with parts := s'.parts, funcs := (setStage s h .waiting).funcs, freeCtr := s.freeCtr + 1 })
     ∧ (∀ fn tag, (getPart s p).shapeOp = some (.create fn tag) →
       ∃ s1, exec (.partZeroDone p) s = .next (dciComplete s1 fn tag stOk p 0)
         ∧ (getPart s1 p).state = .empty ∧ (getPart s1 p).shapeOp = none ∧ (getPart s1 p).schedEn = true
         ∧ (getPart s1 p).slices = (getPart s p).slices ∧ (getPart s1 p).key = (getPart s p).key
         ∧ curSet s1 p = some (CfgSet.reset p (getPart s p).quota)
         ∧ (∀ a n, sliceOf a = some n → bitAt (getPart s p).slices n = true → memGet s1.mem a = 0)
         ∧ (∀ a n, sliceOf a = some n → bitAt (getPart s p).slices n = false → memGet s1.mem a = memGet s.mem a)))
  ∧ (∀ (s : State) (p : Nat), s.Units → p < 12 →
        let x := getPart s p
        (∀ (h : DciHdr) (m : BitVec 12) (q : W32), Taken (.partResize h m q) h s → partOf h = p → x.state = .empty → m ≠ 0 →
          q.toNat ≤ 65536 → slicesFree s p m.toNat = true →
          let quota := if q = 0 then 5456 * popMask m.toNat else q.toNat
          otherQuotas s p + quota ≤ 65536 →
          exec (.partResize h m q) s = .next (nowWaits (.partResize h m q) h (setPart s p (fun y =>
            { y with shapeOp := some (.resize h.fn h.tag m.toNat quota) }))))
        ∧ (∀ fn tag m q, x.shapeOp = some (.resize fn tag m q) →
          ∃ s1, exec (.partZeroDone p) s = .next (dciComplete s1 fn tag stOk p 0)
            ∧ (getPart s1 p).slices = m ∧ (getPart s1 p).quota = q ∧ (getPart s1 p).entFree = x.entFree + q - x.quota ∧ (getPart s1 p).shapeOp = none ∧ (getPart s1 p).state = x.state
            ∧ (∀ c, curSet s p = some c → ∃ c', curSet s1 p = some c' ∧ c'.version = (c.version + 1) % 2 ^ 32 ∧ c'.quota = q
                ∧ c'.regions = c.regions ∧ c'.ports = c.ports ∧ c'.depth = c.depth ∧ c'.feeds = c.feeds)
            ∧ (∀ a n, sliceOf a = some n → bitAt x.slices n ≠ bitAt m n → memGet s1.mem a = 0)
            ∧ (∀ a n, sliceOf a = some n → bitAt x.slices n = bitAt m n → memGet s1.mem a = memGet s.mem a))
        ∧ (∀ h : DciHdr, Taken (.partDestroy h) h s → partOf h = p → x.state = .empty ∨ x.state = .faulted →
          exec (.partDestroy h) s = .next (nowWaits (.partDestroy h) h
            (dropFaulted (setPart s p (fun y => { y with shapeOp := some (.destroy h.fn h.tag) })) p)))
        ∧ (∀ fn tag, x.shapeOp = some (.destroy fn tag) → partJobs s p ≠ [] → exec (.partZeroDone p) s = .next s)
        ∧ (∀ fn tag, x.shapeOp = some (.destroy fn tag) → partJobs s p = [] →
          ∃ s1, exec (.partZeroDone p) s = .next (dciComplete s1 fn tag stOk 0 0)
            ∧ (getPart s1 p).state = .none ∧ (getPart s1 p).slices = 0 ∧ (getPart s1 p).key = none ∧ (getPart s1 p).stored = false
            ∧ curSet s1 p = none ∧ (getPart s1 p).audit = x.audit ∧ (getPart s1 p).mgtCnt = x.mgtCnt
            ∧ (∀ a n, sliceOf a = some n → bitAt x.slices n = true → memGet s1.mem a = 0)
            ∧ (∀ n, n < 12 → bitAt x.slices n = true → (getSlice s1 n).keySlot = none)))

/-- A well-formed and admitted cycle table is in force at once where there is none, else at the end of the period; a table with no
window removes it; a second one meanwhile is BUSY (R436 to R440).
Audits fall on instants 10 ms apart; an identity that fails faults its partition and is kept; without one nothing of a partition
changes but its count of late audits (R453 to R456, R461).
Where a clause rests on a choice of the model it is that of notes/assumptions/44.md and notes/assumptions/45.md. -/
def Obligations.CycleTablesAndAudits : Prop :=
  (∀ (s : State) (p : Nat) (t : CycleTab), s.Units → p < 12 →
     let inForce := fun (s1 : State) => (getPart s1 p).table = (if t.wins = [] then none else some t)
       ∧ (getPart s1 p).periodStart = now s ∧ (getPart s1 p).debits = [] ∧ (getPart s1 p).tableNext = none
     (∀ (h : DciHdr) (a : W64) (hd b : List Byte), Taken (.partCycleTable h a) h s → partOf h = p →
       let finishes := fun (s1 : State) => exec (.partCycleTable h a) s = .next (turnOver (.partCycleTable h a) h s1)
       BufReads s h (some p) a.toNat 16 hd → BufReads s h (some p) a.toNat (16 + 32 * leAt hd 4 1) b → parseCycle b = some t →
       (tableWf s p t = false → finishes (dciComplete s h.fn h.tag stInvalid 0 0))
       ∧ (tableWf s p t = true → tableAdmits s t = false → finishes (dciComplete s h.fn h.tag stNoResource 0 0))
       ∧ (tableWf s p t = true → tableAdmits s t = true →
         ((getPart s p).tableNext.isSome = true → finishes (dciComplete s h.fn h.tag stBusy 0 0))
         ∧ ((getPart s p).tableNext = none → (getPart s p).table = none →
           ∃ s1, finishes (dciComplete s1 h.fn h.tag stOk 0 0) ∧ inForce s1)
         ∧ ((getPart s p).tableNext = none → (getPart s p).table.isSome = true →
           finishes (setStage (setPart s p (fun x => { x with tableNext := some (t, h.fn, h.tag) })) h .waiting))))
     ∧ (∀ fn tag, (getPart s p).tableNext = some (t, fn, tag) →
       ∃ s1, exec (.cycleTableSwitch p) s = .next (dciComplete s1 fn tag stOk 0 0) ∧ inForce s1)
     ∧ (tableAdmits s t = true → ∀ w ∈ t.wins, ∀ j, getJob s w.job = some j → j.hdr.taskUs + 18 ≤ w.len))
  ∧ (∀ s : State, s.Units → tyraxUp s = true → s.time.auditNext ≤ now s →
        let past := now s - s.time.auditNext
        let fails := fun (p : Nat) => (getPart s p).state ≠ .none ∧ ∃ m ∈ partIdents s p, m.left ≠ m.right
        ∃ s', exec .audit s = .next s'
          ∧ s'.time.auditNext = s.time.auditNext + 10000000 * (past / 10000000 + 1)
          ∧ s'.time.auditSerial = s.time.auditSerial + past / 10000000 + 1
          ∧ ((∀ p, p < 12 → ¬ fails p) → s'.mem = s.mem ∧ s'.jobs = s.jobs ∧ s'.tiles = s.tiles ∧ ∀ p, p < 12 →
              getPart s' p = if (getPart s p).state = .none then getPart s p
                else { getPart s p with mgtCnt := cntAt (getPart s p).mgtCnt 4 ((past + 9999999) / 10000000) })
          ∧ (∀ p, p < 12 → fails p → (getPart s p).state ≠ .faulted → (∀ q, q < 12 → q ≠ p → (getPart s q).state = .none) →
              (getPart s' p).state = .faulted ∧ (getPart s' p).audit.mismatch = true ∧ (getPart s' p).schedEn = false))

/-- The life of a job: loaded, its partition is ACTIVE; started when its times allow it; stopped, its streams close and it is gone once
they are free (R424, R427 to R430, R438, R439, R546 to R549).
Where a clause rests on a choice of the model it is that of notes/assumptions/28.md. -/
def Obligations.JobCommands : Prop :=
  ∀ (h : DciHdr) (s : State), s.Units →
    let p := partOf h
    (∀ (n : W32) (a : W64) (m : BitVec 96) (b : List Byte), Taken (.jobLoad h n a m) h s → 4096 ≤ n.toNat → n.toNat ≤ 2 ^ 30 →
      BufReads s h (some p) a.toNat n.toNat b →
      let resizing := match (getPart s p).shapeOp with | some (.resize ..) => true | _ => false
      let share := (shareOf s p m.toNat).getD []
      let finishes := fun (s1 : State) => exec (.jobLoad h n a m) s = .next (turnOver (.jobLoad h n a m) h s1)
      let loaded := fun (s2 : State) (id : Nat) =>
        ∃ x, getJob s2 id = some x ∧ x.state = .loaded ∧ x.part = p ∧ x.digest = Config.shake256 b 64
      (∀ st, loadImage s p b m.toNat resizing = .error st → finishes (dciComplete s h.fn h.tag st 0 0))
      ∧ (∀ s1 id d, loadImage s p b m.toNat resizing = .ok (s1, id, d) →
        ∃ s2, finishes (dciComplete s2 h.fn h.tag stOk id d)
          ∧ s2 = { s1 with parts := s2.parts, log := s2.log }
          ∧ s2.parts = s1.parts.modify p (fun x => { x with state := .active })
          ∧ loaded s2 id)
      ∧ (∀ i pl id cs rs ss rings sites, resizing = false → shareOf s p m.toNat = some share → parseImage b = .ok i →
        (partJobs s p).length < 16 → shareFree s p share = true → placeImage s p i share ((List.range 12).filter (fun c =>
          share.any (fun t => t / 8 = c))) = some pl → freeJobId s = some id → placedCopies i pl share = some cs →
        placedRecords i pl share 6 32 = some rs → rs.mapM parseRing = some rings →
        placedRecords i pl share 5 128 = some ss → ss.mapM parseSite = some sites →
        (∀ r ∈ rings, ringOk s p i.hdr.frame pl share r = true) →
        ∃ s2 d, finishes (dciComplete s2 h.fn h.tag stOk id d) ∧ loaded s2 id))
    ∧ (∀ j x, Taken (.jobStart h j) h s → jobOf s p j = some x → x.state = .loaded →
      let finishes := fun (s1 : State) => exec (.jobStart h j) s = .next (turnOver (.jobStart h j) h s1)
      let admitted := match (getPart s p).table with
        | some t => admitsJob t j x
        | none => (x.hdr.sper = 0 || decide (x.hdr.taskUs + 6 ≤ x.hdr.sper))
          && (x.hdr.chunkBound = 0
            || decide (4 * (if x.hdr.sper = 0 then x.hdr.taskUs + 6 else x.hdr.sper) + 20 ≤ x.hdr.chunkBound))
      (admitted = false → finishes (dciComplete s h.fn h.tag stNoResource 0 0))
      ∧ (admitted = true → ∃ s1, finishes (dciComplete s1 h.fn h.tag stOk 0 (now s))
        ∧ getJob s1 j = some { x with state := .running, t0 := now s } ∧ s1.time = { s.time with noStep := true }
        ∧ s1.mem = s.mem ∧ s1.streams = s.streams ∧ s1.tiles = s.tiles))
    ∧ (∀ j x, Taken (.jobStop h j) h s → jobOf s p j = some x → x.state ≠ .tornDown → jobStreams s j = [] →
      (∀ e ∈ s.tasks, e.2.job = j → e.2.state = .built ∨ e.2.state = .executing) →
      ∃ s', exec (.jobStop h j) s = .next s' ∧ getJob s' j = some { x with state := .stopping }
        ∧ s'.waiters = s.waiters ++ [{ fn := h.fn, tag := h.tag, what := .jobStop j, deadline := none }]
        ∧ s'.mem = s.mem ∧ s'.tasks = s.tasks)
    ∧ (∀ j x, getJob s j = some x → x.state = .stopping → jobStreams s j = [] → (∀ e ∈ s.tasks, e.2.job ≠ j) →
      ∃ s', exec (.jobRelease j) s = .next s' ∧ getJob s' j = none ∧ (∀ w ∈ s'.waiters, w.what ≠ .jobStop j)
        ∧ s'.streams = s.streams ∧ s'.tasks = s.tasks)

/-! ## Decode tables and checks -/

/-- TABLE_LOAD of a codec: RETIRE, LOAD or both, into the lowest free slot; without one it is TABLE_BUSY or waits, and a retire stands in
every case; a waiting load takes a slot as soon as one is free, or times out (R163, R166 to R168, R536).
Where a clause rests on a choice of the model it is that of notes/assumptions/52.md. -/
def Obligations.CodecTableLoads : Prop :=
  ∀ (s : State) (job kind : Nat) (x : Job) (gen : Nat) (table : List Byte), getJob s job = some x → kind = 1 ∨ kind = 2 →
    let free := fun (d : DecSlot) => d.cond = .empty ∨ (d.cond = .retired ∧ genHeld s job kind d.gen = false)
    let slots := fun (s' : State) => (getJob s' job).map (fun y => codecSlots y kind)
    let fill := fun (l : List DecSlot) (n : Nat) => l.set n { cond := .live, gen := gen, table := table, order := x.loads }
    let takes := fun (l : List DecSlot) (n : Nat) => (n = 0 ∧ ∃ d, l[0]? = some d ∧ free d)
      ∨ (n = 1 ∧ (∀ d, l[0]? = some d → ¬ free d) ∧ ∃ d, l[1]? = some d ∧ free d)
    let none_ := fun (l : List DecSlot) => ∀ (n : Nat) (d : DecSlot), n < 2 → l[n]? = some d → ¬ free d
    (∀ (h : DciHdr) (flags rgen g : Byte), g.toNat = gen →
      let i := Instr.tableLoad h (BitVec.ofNat 8 kind) job flags rgen g table
      let retire := flags = 1 ∨ flags = 3
      let load := flags = 2 ∨ flags = 3
      let l := if retire then (codecSlots x kind).map (fun d => if d.cond = .live ∧ d.gen = rgen.toNat then { d with cond := .retired } else d)
        else codecSlots x kind
      Taken i h s → x.part = partOf h → x.state ≠ .tornDown → (∀ w ∈ s.waiters, tableKey w.what ≠ some (kind, job)) →
      retire ∨ load → rgen.toNat < 4 → gen < 4 → (load → tabValid table = true) →
      (load → ∀ d ∈ codecSlots x kind, d.cond ≠ .empty → d.gen ≠ gen) →
      (retire → (∃ d ∈ codecSlots x kind, d.cond = .live ∧ d.gen = rgen.toNat) ∧ (load → rgen.toNat ≠ gen)) →
      let bit := if retire then 1 else 0
      (¬ load → ∃ s1, exec i s = .next (dciComplete s1 h.fn h.tag stOk 0xFFFFFFFF 1) ∧ slots s1 = some l ∧ s1.mem = s.mem)
      ∧ (load → ∀ n, takes l n → ∃ s1, exec i s = .next (dciComplete s1 h.fn h.tag stOk n bit) ∧ slots s1 = some (fill l n))
      ∧ (load → none_ l → h.timeout = 0 →
        ∃ s1, exec i s = .next (dciComplete s1 h.fn h.tag stTableBusy 0xFFFFFFFF bit) ∧ slots s1 = some l)
      ∧ (load → none_ l → h.timeout ≠ 0 →
        ∃ s', exec i s = .next s' ∧ slots s' = some l ∧ (∃ w ∈ s'.waiters, w.fn = h.fn ∧ w.tag = h.tag ∧ w.deadline = some (timeoutAt s h))))
    ∧ (∀ (fn : Nat) (tag : W32) (retired : Bool) (w : Waiter), s.waiters.find? (isWaiter fn tag) = some w →
      w.what = .tableLoad kind job gen table retired → tyraxUp s = true →
      (∀ n, takes (codecSlots x kind) n → ∃ s', exec (.tableLoadResume fn tag) s = .next s'
        ∧ slots s' = some (fill (codecSlots x kind) n) ∧ (∀ v ∈ s'.waiters, isWaiter fn tag v = false))
      ∧ (w.deadline.isSome = true → s.waiters.filter (isWaiter fn tag) = [w] →
        exec (.commandTimeout fn tag) s = .next (dciComplete
          { s with waiters := s.waiters.filter (fun v => !isWaiter fn tag v) } fn tag stTimeout 0xFFFFFFFF (b2n retired))))

/-- TABLE_LOAD of bias entries writes the copy that is not live and makes it live; while a task references that copy it is TABLE_BUSY or
waits (R345).
A router site runs once, when its barrier has counted its logits: each row of the batch gets the K experts chosen, no more and none
twice, the output lies in every tile of the share on the cluster, and the output barrier counts one (R317 to R320).
Where a clause rests on a choice of the model it is that of notes/assumptions/26.md and notes/assumptions/52.md. -/
def Obligations.BiasTablesAndRouterSites : Prop :=
  (∀ (s : State) (h : DciHdr) (job : Nat) (x : Job) (table data : List Byte), Memory.wf s.mem →
     let i := Instr.tableLoad h 3 job 0 0 0 table
     let head0 := leAt table 0 2
     let n := leAt table 2 2
     let idle := fun (t : Nat) => calAddr t (x.base + x.hdr.biasoff) + 1024 * x.hdr.nbh * b2n (!x.biasLive)
     Taken i h s → getJob s job = some x → x.part = partOf h → x.state ≠ .tornDown → (∀ w ∈ s.waiters, tableKey w.what ≠ some (3, job)) →
     zeroAt table 4 4 = true → n ≠ 0 → head0 + n ≤ x.hdr.nbh → PartReads s (partOf h) (leAt table 8 8) (1024 * n) data →
     (idleCopyHeld s job x = false →
       ∃ s1, exec i s = .next (dciComplete s1 h.fn h.tag stOk (b2n !x.biasLive) 0)
         ∧ getJob s1 job = some { x with biasLive := !x.biasLive }
         ∧ (∀ t, x.share = [t] → devRead s1 (idle t + 1024 * head0) (1024 * n) = data))
     ∧ (idleCopyHeld s job x = true → h.timeout = 0 → exec i s = .next (dciComplete s h.fn h.tag stTableBusy 0 0))
     ∧ (idleCopyHeld s job x = true → h.timeout ≠ 0 →
       exec i s = .next (nowWaits i h (dciWait s h.fn h.tag (.bias job head0 n data) (some (timeoutAt s h))))))
  ∧ ((∀ (s : State) (k n : Nat) (x : Task) (j : Job) (st : Site), getTask s k = some x → getJob s x.job = some j → j.sites[n]? = some st →
        x.state = .executing → n ∉ x.sites → st.inBar < 32 → st.outBar < 32 →
        ((tGet x.bars st.inBar).getD 0 < st.inCnt → exec (.routeSite k n) s = .next s)
        ∧ (st.inCnt ≤ (tGet x.bars st.inBar).getD 0 →
          let t := 8 * x.cluster + st.ltile
          (∀ i, i < 4 * st.e * x.rows.length → isBad s (calAddr t st.logits + i) = false) →
          (∀ i, st.pres ≠ 0xFFFFFFFF → i < 4 * x.rows.length → isBad s (calAddr t st.pres + i) = false) →
          let cs := (List.range x.rows.length).map (rowChoices s t st)
          let out := routeBytes s j.part t st cs
          ∃ s' y, exec (.routeSite k n) s = .next s' ∧ getTask s' k = some y ∧ y.sites = x.sites ++ [n]
            ∧ tGet y.bars st.outBar = some ((tGet x.bars st.outBar).getD 0 + 1)
            ∧ y.rows = (x.rows.zip cs).map (fun rc => { rc.1 with experts := rc.1.experts ||| expertMask rc.2 })
            ∧ s'.host = s.host ∧ s'.jobs = s.jobs ∧ s'.streams = s.streams
            ∧ (Memory.wf s.mem → st.out + out.length ≤ 0x400000 →
              (∀ u ∈ shareOn j x.cluster, devRead s' (calAddr u st.out) out.length = out)
              ∧ (∀ a, (∀ u ∈ shareOn j x.cluster, a < calAddr u st.out ∨ calAddr u st.out + out.length ≤ a) →
                  memGet s'.mem a = memGet s.mem a))))
      ∧ (∀ (v : Nat → W32) (e k : Nat), (chooseExperts v e k).length = min k e ∧ (chooseExperts v e k).Nodup
        ∧ (∀ i ∈ chooseExperts v e k, i < e)))

/-- CHECK_STEP sets CHECK of a stream until its check concludes, or until its timeout when no row was placed; CHECK_TILE withdraws a tile,
and the end of its tests returns it to service or keeps it withdrawn (R566 to R568, R653, R654, R661, R663).
Where a clause rests on a choice of the model it is that of notes/assumptions/54.md. -/
def Obligations.ChecksOfStepsAndTiles : Prop :=
  ∀ (s : State), s.Units →
    (∀ (h : DciHdr) (i : Nat) (fum : Bool) (st : Stream), Taken (.checkStep h i fum) h s → getStream s i = some st → st.part = partOf h →
      st.check = false → (∀ c ∈ s.checks, c.stream ≠ i) → st.state ≠ .closing → st.state ≠ .faulted →
      let q : StepCheck :=
        { fn := h.fn, tag := h.tag, stream := i, fum := fum, placed := false, step := 0, firstTile := 0
          checkTile := none, thirdTile := none, result1 := none, result2 := none, mismatch := false
          deadline := if h.timeout = 0 then none else some (timeoutAt s h) }
      ∃ s', exec (.checkStep h i fum) s = .next s' ∧ getStream s' i = some { st with check := true } ∧ s'.checks = s.checks ++ [q]
        ∧ s'.mem = s.mem ∧ s'.tiles = s.tiles ∧ s'.waiters = s.waiters)
    ∧ (∀ (fn : Nat) (tag : W32) (c : StepCheck), s.waiters.find? (fun w => isWaiter fn tag w && w.deadline.isSome) = none →
      s.checks.find? (fun c => c.fn = fn && c.tag = tag && !c.placed && c.deadline.isSome) = some c → tyraxUp s = true →
      ∃ s1, exec (.commandTimeout fn tag) s = .next (dciComplete s1 fn tag stTimeout 0 0) ∧ (∀ q ∈ s1.checks, q.stream ≠ c.stream)
        ∧ (∀ st, getStream s c.stream = some st → getStream s1 c.stream = some { st with check := false }))
    ∧ (∀ (h : DciHdr) (t : Nat) (mask : W32) (keep : Bool), Taken (.checkTile h t mask keep) h s → t < 96 → mask.toNat < 2 ^ 10 →
      partOfSlice s (t / 8) = (if devScope h then none else some (partOf h)) → (getTile s t).withdrawn = false →
      (getTile s t).withdrawNext = false → lastInService s t = false → (getTile s t).cmd = none → (getSlice s (t / 8)).deep = false →
      ∃ s', exec (.checkTile h t mask keep) s = .next s' ∧ (getTile s' t).withdrawn = true ∧ tileInService s' t = false
        ∧ s'.tests = s.tests ++ [{ fn := h.fn, tag := h.tag, tile := t, mask := mask, keep := keep }])
    ∧ (∀ (t : Nat) (failed : W32) (c : TileTest), s.tests.find? (fun c => c.tile = t) = some c → (getTile s t).withdrawn = true →
      let bad := failed.toNat &&& (if c.mask = 0 then 0x3FF else c.mask.toNat)
      ∃ s1, exec (.checkTileDone t failed) s = .next (dciComplete s1 c.fn c.tag stOk bad 0)
        ∧ (∀ q ∈ s1.tests, q.tile ≠ t)
        ∧ (bad = 0 → (getTile s t).failed = false → (getTile s1 t).withdrawn = c.keep ∧ (getTile s1 t).failed = false)
        ∧ (bad ≠ 0 → (getTile s1 t).withdrawn = true ∧ (getTile s1 t).failed = true))

/-- The further runs of a command: the re-run of one that a checksum stopped, the checking run, the comparison that lets the first run
commit, and the third run that decides (R105, R446, R657 to R659).
Where a clause rests on a choice of the model it is that of notes/assumptions/24.md and notes/assumptions/68.md. -/
def Obligations.SecondRuns : Prop :=
  ∀ (s : State) (t u k : Nat) (x : Task) (j : Job),
    (∀ p, s.tasks.findSome? (fun e => if e.2.state = .executing then (e.2.pos.find? (rerunDue s t)).map (fun p => (e.1, e.2, p)) else none)
        = some (k, x, p) → getJob s x.job = some j → runTileFor s k [t] = some u →
      let sm := finishMoves s j.part
      let s0 := if u = p.ident then sm else writeList sm k x j p.ident u
      (∀ s1, startCmd s0 k x j { p with tile := u } p.run = .ok s1 →
        exec (.rerunStart t) s = .next (setPos s1 k p.ident (fun p => { p with tile := u }))
        ∧ (∃ c', getCmd s1 u = some c' ∧ c'.run = p.run ∧ c'.task = k ∧ c'.ident = p.ident ∧ c'.stage = p.stage ∧ c'.role = p.role)))
    ∧ (∀ (c : Cmd) (p : TilePos) (q : StepCheck), getCmd s t = some c → c.task = k → getTask s k = some x → getPos s k c.ident = some p →
      s.checks.find? (coversCmd s c) = some q → getJob s x.job = some j → q.result1 = none → runTileFor s k [t] = some u →
      awaitsCheck s c = true → waitsCommit c = false → committing c = false → checkRuns s c t = false →
      let s2 := { s with checks := s.checks.map (fun q => if coversCmd s c q then { q with firstTile := t, checkTile := some u } else q) }
      let sm := finishMoves s2 j.part
      let s0 := if u = p.ident then sm else writeList sm k x j p.ident u
      ∀ s1, startCmd s0 k x j { p with stage := c.stage, role := c.role, tile := u } (.check t) = .ok s1 →
        exec (.checkRunStart t) s = .next s1 ∧ ∃ c', getCmd s1 u = some c' ∧ c'.run = .check t ∧ c'.ident = c.ident)
    ∧ (∀ (c : Cmd) (q : StepCheck) (r1 : Published), getCmd s t = some c → c.wait = some .compare →
      s.checks.find? (coversCmd s c) = some q → q.result1 = some r1 →
      let own := publishedOf s t c
      (q.result2 = none → r1 = own → exec (.checkCompare t) s = .next (endCompare s t)
        ∧ (c.last = false → ∃ c', getCmd (endCompare s t) t = some c' ∧ c'.phase = .commit ∧ c'.wait = none))
      ∧ (q.result2 = none → r1 ≠ own → q.thirdTile.isSome = true ∨ noThird s t c q = false →
        ∃ s', exec (.checkCompare t) s = .next s' ∧ s' = { s with checks := s'.checks } ∧ (∃ q' ∈ s'.checks, q' = { q with mismatch := true }))
      ∧ (q.result2 = none → r1 ≠ own → q.thirdTile = none → noThird s t c q = true → ∀ y, getTask s c.task = some y →
        ∃ s1 a, exec (.checkCompare t) s = .next (abortTask s1 c.task a) ∧ a.tile = t ∧ a.pc = c.pc ∧ s1 = { s with freeCtr := s.freeCtr + 1 })
      ∧ (∀ r2, q.result2 = some r2 →
        (r2 = own → exec (.checkCompare t) s = .next (settle (countDisagree (endCompare s t) (q.checkTile.getD 0) c q)))
        ∧ (r2 ≠ own → r2 = r1 → exec (.checkCompare t) s = .next (settle (countDisagree (endCompare (adoptResult s t c r1) t) t c q)))
        ∧ (r2 ≠ own → r2 ≠ r1 → ∃ s1 a, exec (.checkCompare t) s = .next (abortTask s1 c.task a) ∧ a.tile = t ∧ a.pc = c.pc)))

/-! ## Configuration, queries, audits -/

/-- A set is staged by its issuer, installed by CFG_COMMIT with the next version when it was made against the version in force, and the
set before it is installed again by CFG_REVERT (R561, R563 to R565).
Where a clause rests on a choice of the model it is that of notes/assumptions/42.md. -/
def Obligations.ConfigurationSets : Prop :=
  ∀ (h : DciHdr) (s : State), s.Units →
    let sc := cfgScope h
    let staged := fun (s' : State) => if h.fn = 0 then (getScope s' sc).stagedPf else (getScope s' sc).stagedVf
    let prev := fun (s' : State) => (getScope s' sc).prev
    (∀ (a : W64) (b : List Byte), Taken (.cfgStage h a) h s → BufReads s h (if sc = 12 then none else some sc) a.toNat 2816 b →
      (cfgLayoutOk b (scopeCode sc) = false → exec (.cfgStage h a) s = .next (dciComplete s h.fn h.tag stInvalid 0 0))
      ∧ (cfgLayoutOk b (scopeCode sc) = true →
        ∃ s1, exec (.cfgStage h a) s = .next (dciComplete s1 h.fn h.tag stOk 0 0) ∧ staged s1 = some (parseCfg b)
          ∧ (∀ k, curSet s1 k = curSet s k) ∧ prev s1 = prev s ∧ s1.mem = s.mem ∧ s1.parts = s.parts))
    ∧ (∀ (i : Instr) (base : W32) (incoming : Option CfgSet), i = .cfgCommit h base ∧ incoming = staged s ∨
        i = .cfgRevert h base ∧ incoming = prev s → Taken i h s →
      let finishes := fun (s1 : State) => exec i s = .next (turnOver i h s1)
      (incoming = none → finishes (dciComplete s h.fn h.tag stNotFound 0 0))
      ∧ (∀ c old, incoming = some c → curSet s sc = some old →
        (base.toNat ≠ old.version → finishes (dciComplete s h.fn h.tag stVersion 0 0))
        ∧ (base.toNat = old.version →
          (∀ st, commitCheck s h.fn sc old c = some st → finishes (dciComplete s h.fn h.tag st 0 0))
          ∧ (commitCheck s h.fn sc old c = none →
            let new := { c with version := (old.version + 1) % 2 ^ 32 }
            let after := fun (s' : State) => curSet s' sc = some new ∧ prev s' = some old
              ∧ (i = .cfgCommit h base → staged s' = none) ∧ s'.mem = s.mem ∧ s'.jobs.map Prod.fst = s.jobs.map Prod.fst
            (sc = 12 → ∃ s1, finishes (dciComplete s1 h.fn h.tag stOk new.version 0) ∧ after s1)
            ∧ (sc < 12 → ∃ s', exec i s = .next s' ∧ after s')))))

/-- DEV_QUERY copies the device record or a register block of a unit that the function may see, and refuses another (R541, R542).
Where a clause rests on a choice of the model it is that of notes/assumptions/41.md. -/
def Obligations.DeviceQueries : Prop :=
  ∀ (h : DciHdr) (s : State) (a : W64) (code n : Nat), Taken (.devQuery h code n a) h s → (outFn s h none a.toNat 4096).isSome = true →
    bufOpen s h none a.toNat 4096 = true →
    let gives := fun (s1 : State) (bs : List Byte) (r : Nat) =>
      exec (.devQuery h code n a) s = .next (dciComplete (writeBuf s1 h none a.toNat bs) h.fn h.tag stOk r 0)
    let refused := fun (st : Nat) => exec (.devQuery h code n a) s = .next (dciComplete s h.fn h.tag st 0 0)
    let own := h.fn = 0 ∨ h.fn = n + 1
    (code = 0 → gives s (deviceRecord s h.fn) 256)
    ∧ (code = 1 → n < 96 → if seesSlice s h.fn (n / 8) then gives (wakeTile s n) (blockBytes s (.tile n)) 4096 else refused stDenied)
    ∧ (code = 2 → n < 12 → if seesSlice s h.fn n then gives s (blockBytes s (.geyser n)) 4096 else refused stDenied)
    ∧ (code = 3 → n < 12 → if own then gives s (blockBytes s (.orchard n)) 4096 else refused stDenied)
    ∧ (code = 3 → n = 15 → if h.fn = 0 then gives s (blockBytes s .orchardDev) 4096 else refused stDenied)
    ∧ (code = 4 → n < 12 → if own then gives s (blockBytes s (.mgtPart n)) 4096 else refused stDenied)
    ∧ (code = 5 → n < 8 → if h.fn = 0 ∨ portPart s n = some (h.fn - 1) then gives s (blockBytes s (.tdm n)) 4096 else refused stDenied)
    ∧ (6 ≤ code → code ≤ 8 → n < 12 → if own then ∀ c, querySet s h.fn code n = some c → gives s (cfgBytes c) c.version
        else refused stDenied)
    ∧ (8 < code → refused stInvalid)

/-! ## Tasks and commands -/

/-- Placement: every row goes to a tile of the cluster in service, no tile takes more than ROWCAP, and a row is left off only when every
tile is full (R310, R311).
A scheduling step: the pending ORC_CTRL fields take effect, and where the partition then schedules, the background trees, the head
words are read, and each cluster of the step resumes a suspended task, counts a skipped step, issues a replay task, or builds a task; an
error in what the step reads faults the partition (R55, R304, R307, R308, R328, R332, R334, R397, R648).
Where a clause rests on a choice of the model it is that of notes/assumptions/25.md and notes/assumptions/78.md. -/
def Obligations.PlacementAndSchedulingSteps : Prop :=
  (∀ (cap : Nat) (ts : List Nat) (home : Nat → Option Nat) (l : List Nat), ts.Nodup → (∀ x t, home x = some t → t ∈ ts) →
     let placed := (placeRows cap ts home l).1
     let off := (placeRows cap ts home l).2
     (∀ e ∈ placed, e.2 ∈ ts ∧ e.1 ∈ l) ∧ (∀ t, (placed.filter (fun e => e.2 = t)).length ≤ cap)
       ∧ placed.length + off.length = l.length
       ∧ (off ≠ [] → ∀ t ∈ ts, (placed.filter (fun e => e.2 = t)).length = cap)
       ∧ (placed.map Prod.snd).Pairwise (fun a b => a = b ∨ ts.idxOf a < ts.idxOf b))
  ∧ (∀ (s : State) (j : Nat) (x : Job), getJob s j = some x →
        (∀ cs cl, s.pwr.draining = false → stepsRun s x = true → stepClusters s j x cs = [cl] →
          let s0 := orcBoundary s x.part
          let s1 := readHeads (switchTrees s0 x.part) j
          ((getPart s0 x.part).schedEn = false → exec (.schedulingStep j { clusters := cs, bad := false }) s = .next s0)
          ∧ ((getPart s0 x.part).schedEn = true → ∃ s', exec (.schedulingStep j { clusters := cs, bad := false }) s = .next s'
            ∧ s' = setJob (stepOn s1 j cl) j (fun y => { y with sched := (y.sched + 1) % 2 ^ 32 }))
          ∧ (s.Units → x.part < 12 → (getPart s x.part).state ≠ .none → ∃ s',
            exec (.schedulingStep j { clusters := cs, bad := true }) s = .next s' ∧ (getPart s' x.part).state = .faulted))
        ∧ (∀ cl, modeBuilds s x cl = true →
          let ts := tasksOn s j cl
          let live := ts.filter (fun e => e.2.state ≠ .replayDue)
          (∀ k y, ts.find? (fun e => e.2.state = .suspended) = some (k, y) →
            stepOn s j cl = setTask s k (fun y => { y with state := .built }))
          ∧ ((∀ e ∈ ts, e.2.state ≠ .suspended) →
            (2 ≤ live.length → stepOn s j cl = orcAdd s x.part 10 1)
            ∧ (∀ k y, live.length < 2 → ts.find? (fun e => e.2.state = .replayDue) = some (k, y) → y.rows ≠ [] → serviceOn s x cl ≠ [] →
              0 < x.hdr.rowcap →
              let n := s.nextTask % (2 ^ 32 - 1) + 1
              ∃ z, getTask (stepOn s j cl) n = some z ∧ z.state = .built ∧ z.replay = true ∧ z.sched = y.sched
                ∧ z.refQ = y.refQ ∧ z.refS = y.refS
                ∧ (∀ r ∈ z.rows, r.replay = true ∧ r.tile ∈ serviceOn s x cl
                  ∧ ∃ q ∈ y.rows, q.stream = r.stream ∧ q.step = r.step ∧ q.active = r.active)
                ∧ (n ≠ k → ∀ q ∈ y.rows, (∃ r ∈ z.rows, r.stream = q.stream ∧ r.step = q.step)
                  ∨ ∃ w, getTask (stepOn s j cl) k = some w ∧ w.state = .replayDue ∧ q ∈ w.rows))
            ∧ (live.length < 2 → live = ts → (x.compQ ≠ [] → stepOn s j cl = s) ∧ (x.compQ = [] → stepOn s j cl = buildTask s j cl))))
        ∧ (∀ cl, (homed s j cl).filter (fun e => candidate s e.2) = [] → (getPart s x.part).dropLate = false →
          buildTask s j cl = orcAdd s x.part 9 0))

/-- A command starts at its stage's entry with cleared engine state, half 0 of each pair in COMPUTE, its task's reference set, the tile's
shadowed fields live and its watchdog running; COMMAND_START brings a built task's list to its cluster (R76, R164, R186, R187, R189,
R206, R211, R312).
What ends a command or a task: the watchdog aborts with cause 0x13, a stage commit and a task commit publish, a failed check of the
commit aborts; other commands that have started go on reading what lay there; when a window ends a task is suspended with nothing
published, or runs on in its commit phase, whose overrun its job owes (R29, R189, R194 to R196, R199, R443 to R445).
Where a clause rests on a choice of the model it is that of notes/assumptions/7.md, notes/assumptions/24.md and notes/assumptions/27.md. -/
def Obligations.CommandsStartAndEnd : Prop :=
  (∀ (s : State) (k : Nat) (x : Task) (j : Job) (p : TilePos) (run : RunKind),
     (∀ s1, p.tile < s.tiles.length → startCmd s k x j p run = .ok s1 →
       ∃ c, getCmd s1 p.tile = some c ∧ c.phase = .start ∧ c.pc = c.entry ∧ c.loops = [] ∧ c.wait = none ∧ c.written = [] ∧ c.holds = []
         ∧ c.task = k ∧ c.stage = p.stage ∧ c.role = p.role ∧ c.run = run ∧ c.refQ = x.refQ ∧ c.refS = x.refS
         ∧ (∀ q ∈ c.pairs, q.comp1 = false)
         ∧ c.wdogEnd = some (now s + 1000 * 2 ^ ((getTile s p.tile).pendWdogExp.getD (getTile s p.tile).wdogExp))
         ∧ (getTile s1 p.tile).eng = Engine.reset ∧ (getTile s1 p.tile).pendWdogExp = none ∧ (getTile s1 p.tile).pendMxe = none
         ∧ (getTile s1 p.tile).power = .run ∧ s1.mem = s.mem ∧ (∀ u, u ≠ p.tile → getTile s1 u = getTile s u))
     ∧ (∀ job cl, getJob s job = some j → (shareOn j cl).all (tileOpen s j.part job) = true →
       (∀ e ∈ tasksOn s job cl, e.2.state ≠ .executing) → nextBuilt s job cl = some (k, x) →
       exec (.commandStart job cl) s = .next (settle (arrive s k x j))))
  ∧ (∀ s : State, s.Units →
        (∀ t c, getCmd s t = some c → c.phase = .start ∨ c.phase = .execute → c.wdogEnd.isSome = true →
          exec (.watchdogExpiry t) s = .next (abortTask s c.task { cause := 0x13, tile := t, pc := c.pc, halt := 0, addr := 0 }))
        ∧ (∀ t c, getCmd s t = some c → committing c = true → shadowBad s c = none →
          exec (.stageCommit t) s = .next (debitOverrun (stageCommitOp s t) c.part c.job [t]))
        ∧ (∀ p j t, p < 12 →
          let s1 := debitOverrun s p j [t]
          s1 = { s with parts := s1.parts }
          ∧ (tGet (getPart s p).debits t = none → (getPart s1 p).owed = (getPart s p).owed ∧ (getPart s1 p).debits = (getPart s p).debits)
          ∧ (∀ e, tGet (getPart s p).debits t = some e → tGet (getPart s1 p).debits t = none
            ∧ (getPart s1 p).mgtCnt = cntAt (getPart s p).mgtCnt 1 (now s - e)
            ∧ ((getPart s1 p).owed.find? (fun o => o.tile = t && o.job = j)).map (·.ns) = some (now s - e)))
        ∧ (∀ (t : Nat) (c : Cmd), Memory.wf s.mem → (copyBytes c).Pairwise (fun a b => a.1 ≠ b.1) →
          (∀ a b, (a, b) ∈ copyBytes c → placeFind (getGey s (t / 8)) a = none ∧ (sliceOf a).isSome = true) →
          (∀ a b, (a, b) ∈ copyBytes c → memGet (stagePublish s t c).mem a = b)
          ∧ (∀ a, (∀ b, (a, b) ∉ copyBytes c) → memGet (stagePublish s t c).mem a = memGet s.mem a)
          ∧ (∀ u d, u ≠ t → getCmd s u = some d → d.part = c.part →
            ∃ d', getCmd (stagePublish s t c) u = some d' ∧ ∀ a b, (a, b) ∈ copyBytes c →
              tGet d'.old a = some ((tGet d.old a).getD (baseByte s (u / 8) c.part a)))
          ∧ (∀ b n x, c.barsig = [(b, n)] → getTask s c.task = some x →
            ((getTask (stagePublish s t c) c.task).bind (fun y => tGet y.bars b)) = some ((tGet x.bars b).getD 0 + n)))
        ∧ (∀ k x j, getTask s k = some x → getJob s x.job = some j → x.state = .executing → x.pos ≠ [] → (∀ p ∈ x.pos, p.fin = true) →
          (∀ cause, commitCause s x j = some cause →
            ∃ a, exec (.taskCommit k) s = .next (abortTask s k a) ∧ a.cause = cause)
          ∧ (commitCause s x j = none → (∀ t c, getCmd s t = some c → c.task = k → shadowBad s c = none) →
            let s1 := commitTask (debitOverrun s j.part x.job (taskTiles s k)) k x j
            exec (.taskCommit k) s = .next s1 ∧ getTask s1 k = none))
        ∧ (∀ p n w k x tab, (getPart s p).table = some tab → tab.wins[n]? = some w → getTask s k = some x →
          windowTasks s w.job (endingTiles s p tab w) = [(k, x)] → x.state = .executing →
          (∀ j, getJob s x.job = some j → j.state = .running ∧ inCommit s x j = false) → (getJob s x.job).isSome = true → x.streak < 3 →
          (∀ t c, getCmd s t = some c → c.task = k → c.phase ≠ .commit) → (∀ e ∈ s.jobs, unserved s e.2 = false) →
          (∀ y ∈ s.tiles, y.withdrawNext = false) →
          ∃ s' y, exec (.windowEnd p n) s = .next s' ∧ getTask s' k = some y ∧ y.state = .suspended ∧ y.streak = x.streak + 1
            ∧ y.finals = [] ∧ y.rows = x.rows ∧ (∀ t c, getCmd s' t = some c → c.task ≠ k)
            ∧ (p < 12 → (getPart s' p).mgtCnt = cntAt (getPart s p).mgtCnt 0 1) ∧ s'.mem = s.mem)
        ∧ (∀ p n w k x tab j, (getPart s p).table = some tab → tab.wins[n]? = some w → getTask s k = some x →
          windowTasks s w.job (endingTiles s p tab w) = [(k, x)] → getJob s x.job = some j → inCommit s x j = true →
          (∀ e ∈ s.jobs, unserved s e.2 = false) → (∀ y ∈ s.tiles, y.withdrawNext = false) →
          ∃ s', exec (.windowEnd p n) s = .next s' ∧ getTask s' k = some { x with streak := 0 } ∧ s'.mem = s.mem
            ∧ (p < 12 → ∀ t ∈ taskTiles s k, tGet (getPart s' p).debits t = some (now s))))

/-- The steps of a task complete: a list that arrives starts its first command in the START phase; a word of no class and a watchdog abort
their task, which the tile records and which runs nowhere after; a stage commit records the flags; a task commit ends its task; a window
end suspends its task (R179, R187, R189, R194, R196, R219, R443).
Where a clause rests on a choice of the model it is that of notes/assumptions/7.md and notes/assumptions/22.md. -/
def Obligations.TaskStepsComplete : Prop :=
  ∀ s : State, s.Units →
    (∀ job cl k x y j p s1, getJob s job = some j → (shareOn j cl).all (tileOpen s j.part job) = true →
      (∀ e ∈ tasksOn s job cl, e.2.state ≠ .executing) → nextBuilt s job cl = some (k, x) → x.pos = [p] → x.job = job →
      let sA := listArrives s k x j
      getTask sA k = some y → y.pos = [p] → y.job = job → p.tile < 96 → p.tile = p.ident → p.fin = false → p.run = .first →
      tileInService sA p.tile = true → tileIdle sA p.tile = true → startCmd (finishMoves sA j.part) k y j p .first = .ok s1 →
      (∀ e ∈ s1.jobs, unserved s1 e.2 = false) → (∀ y ∈ s1.tiles, y.withdrawNext = false) →
      ∃ s' c, exec (.commandStart job cl) s = .next s' ∧ getCmd s' p.tile = some c ∧ c.phase = .start ∧ c.task = k ∧ c.pc = c.entry)
    ∧ (∀ t c x, t < 96 → getCmd s t = some c → getTask s c.task = some x → (getJob s x.job).isSome = true →
      (getTile s t).abort.valid = false →
      let aborts := fun (i : Instr) (cause : Nat) => ∃ s', exec i s = .next s'
        ∧ (∀ u d, u < 96 → getCmd s' u = some d → d.task ≠ c.task)
        ∧ (getTile s' t).abort = { valid := true, cause := cause, aux := c.pc, task := c.task }
      (∀ w, dispatches s t c = true → decodeWord t w = none → aborts (.reservedOpcode t w) 0x10)
      ∧ (c.phase = .start ∨ c.phase = .execute → c.wdogEnd.isSome = true → aborts (.watchdogExpiry t) 0x13))
    ∧ (∀ t c, t < 96 → getCmd s t = some c → committing c = true → shadowBad s c = none →
      ∃ s', exec (.stageCommit t) s = .next s' ∧ (getTile s' t).flagLast = (getTile s t).eng.flags
        ∧ (getTile s' t).flagSticky = (getTile s t).flagSticky ||| (getTile s t).eng.flags)
    ∧ (∀ k x j, getTask s k = some x → getJob s x.job = some j → x.state = .executing → x.pos ≠ [] → (∀ p ∈ x.pos, p.fin = true) →
      commitCause s x j = none → (∀ t c, getCmd s t = some c → c.task = k → shadowBad s c = none) →
      ∃ s', exec (.taskCommit k) s = .next s' ∧ getTask s' k = none ∧ ∀ u d, u < 96 → getCmd s' u = some d → d.task ≠ k)
    ∧ (∀ p n w k x j tab, (getPart s p).table = some tab → tab.wins[n]? = some w → getTask s k = some x →
      windowTasks s w.job (endingTiles s p tab w) = [(k, x)] → getJob s x.job = some j → j.state = .running → inCommit s x j = false →
      x.streak < 3 → (∀ e ∈ s.jobs, unserved s e.2 = false) → (∀ y ∈ s.tiles, y.withdrawNext = false) →
      ∃ s' y, exec (.windowEnd p n) s = .next s' ∧ getTask s' k = some y ∧ y.state = .suspended ∧ y.rows = x.rows ∧ y.finals = []
        ∧ ∀ u d, u < 96 → getCmd s' u = some d → d.task = k → committing d = true)

/-! ## Geyser -/

/-- A slab or a COPY issues when its credits, its engine's entries, its tags and its depth allow and no request that waits at one of its
targets goes first, and counts its bursts; one that reads another cluster's Caldera takes system entries there; a small request that
waited for a successor issues when its wait ends (R224, R234, R237, R242, R244, R245, R257, R513). A COPY lands by one write of its bytes
and leaves the engine; a slab that is not the pair's next goes to the slab store; a read that fails is the command's fault; what a
cancelled transfer had in flight lands nowhere; what waits in the XFER queue follows, and what waited for its tags goes out (R178, R226,
R238, R246, R250).
Where a clause rests on a choice of the model it is that of notes/assumptions/12.md, notes/assumptions/14.md, notes/assumptions/15.md, notes/assumptions/75.md and notes/assumptions/80.md. -/
def Obligations.GeyserTransfers : Prop :=
  ∀ (s : State) (cl id : Nat) (x : Xfer) (c : Cmd), getXfer s cl id = some x → x.tile / 8 = cl → getCmd s x.tile = some c →
    (x.cancelled = false →
      (canIssue s c x = true → ∃ s', exec (.slabIssue cl id) s = .next s'
        ∧ getXfer s' cl id = some { x with issued := x.issued + 1 }
        ∧ (getGey s' cl).cnt = cntAt (getGey s cl).cnt 2 (slabBursts x) ∧ s'.tiles = s.tiles ∧ s'.mem = s.mem ∧ s'.host = s.host
        ∧ (∀ h, remoteOf cl (nextSrc s x) = some h → h < s.geys.length →
            ∃ r, (getGey s' h).sys = (getGey s h).sys ++ [r] ∧ r.queue = 40 ∧ r.who = cl ∧ r.what = id))
      ∧ (canIssue s c x = false → exec (.slabIssue cl id) s = .next s)
      ∧ (∀ m y d, m < s.geys.length → y ∈ (getGey s m).xfers → y.tile / 8 ≠ cl ∨ y.id ≠ id → getCmd s y.tile = some d →
        issuable s d y = true → (∃ gx ∈ targetsOf s x, ∃ gy ∈ targetsOf s y, sameTarget gx.1 gy.1 = true) →
        reqDeadline s y y.issued < reqDeadline s x x.issued → exec (.slabIssue cl id) s = .next s)
      ∧ (x.waiting = true →
        let s1 := setXfer s cl id (fun y => { y with waiting := false })
        let i := canIssue s1 c { x with waiting := false }
        ∃ s', exec (.mergeWaitExpiry cl id) s = .next s'
          ∧ getXfer s' cl id = some { x with waiting := false, issued := x.issued + (if i then 1 else 0) }
          ∧ s'.tiles = s.tiles ∧ s'.mem = s.mem ∧ s'.host = s.host))
    ∧ (canLand s x = false → ∀ e, exec (.transactionLanded cl id e) s = .next s)
    ∧ (canLand s x = true → (∀ y ∈ (getGey s cl).xfers, y.member ≠ some id) →
      let j := x.landed + x.store.length
      let lands := fun (s1 : State) =>
        exec (.transactionLanded cl id .clean) s = .next ((partOfSlice s cl).elim s1 (fun p => releaseHeld s1 (p + 1)))
      (x.cancelled = true → ∃ s1, lands s1 ∧ s1.tiles = s.tiles ∧ s1.mem = s.mem
        ∧ s1.host = s.host ∧ (inFlight x ≤ 1 → getXfer s1 cl id = none))
      ∧ (x.cancelled = false → (∀ k, slabBytes s x.tile c x.desc j false = .error k →
        lands (drainQueue (xferFault s x c k) x.tile)))
      ∧ (x.cancelled = false → ∀ raw, slabBytes s x.tile c x.desc j false = .ok raw → (now s : Int) ≤ slabDeadline x c j →
        let n := readLen s x.tile c x.desc j
        let s1 := geyAdd (geyAdd (leaveRemote s x) cl 0 n) cl 5 (readSaved s x.tile c x.desc j)
        (x.desc.isCopy = true → x.landed = 0 → ∀ s2, deliver s1 x c raw = .ok s2 →
          lands (drainQueue s2 x.tile) ∧ getXfer s2 cl id = none)
        ∧ (x.desc.isCopy = false → (∀ p, c.pairs[x.pair]? = some p → (j : Int) ≠ slabCur x p + 1) → (c.pairs[x.pair]?).isSome →
          c.queue = [] → ∃ s1, lands s1
            ∧ getXfer s1 cl id = some { x with store := x.store ++ [(j, raw)] } ∧ s1.tiles = s.tiles ∧ s1.mem = s.mem)))

/-- Tyrax and queue 42 of the engine whose slice holds the source move an aligned range of a partition, or where the map is full the
smallest that covers it and a range redirected already: the range is copied, and its entry switches in every engine of the partition and
no other at a command boundary, which is at once where the partition runs no command; a destination in HBM that is not coded then reads as
the range's bytes; a move that is not allowed changes nothing; on an error the range stays where it was (R229, R230, R248, R251).
Where a clause rests on a choice of the model it is that of notes/assumptions/16.md. -/
def Obligations.PlacementAndSpillMoves : Prop :=
  ∀ (s : State) (cl base k dest p : Nat), State.Good s → partOfSlice s cl = some p →
    let down := decide (levelOf (placedAt s cl base) < levelOf dest)
    let holds := sliceHolds cl (placedAt s cl base)
    let range := fun (b : Bool) => redirected s p base k dest b
    let allowed := fun (b : Bool) => canMove s p (range b).1 (range b).2 dest b
    let move := fun (b : Bool) => ({ part := p, cluster := cl, base := (range b).1, k := (range b).2, dest := dest, coded := b,
                                     marked := [] } : Move)
    let units := fun (b : Bool) => List.range (2 ^ (range b).2 / 4096)
    let waits := fun (b : Bool) => waitingMove s cl p base k dest b
    let event := fun (c : Instr) (b : Bool) (err : Option Nat) =>
      c = .placementMove cl base k dest { coded := b, err := err } ∨ c = .spillMove cl base k dest err ∧ b = down ∧ holds = true
    (∀ c b, event c b none → waits b = none → allowed b = true → moveFault s (move b) (units b) none = none → tagFree s (p + 1) = true →
      (partIdle s p = true → (∀ m ∈ s.moves, m.part ≠ p) → ∀ bs, rangeBytes s cl p (range b).1 (2 ^ (range b).2) = some bs →
        ∃ s', exec c s = .next s'
          ∧ (∀ m ∈ partClusters s p, (getGey s' m).place = placeSet (getGey s m).place (range b).1 (range b).2 dest b)
          ∧ (∀ m, m ∉ partClusters s p → getGey s' m = getGey s m) ∧ s'.tiles = s.tiles
          ∧ (∀ n off, b = false → placeOf dest = .hbm n off → devRead s' dest (2 ^ (range b).2) = bs))
      ∧ (partIdle s p = false →
        let s1 := copyUnits s (move b) (units b)
        exec c s = .next { s1 with moves := s1.moves ++ [move b] } ∧ ∀ m, (getGey s1 m).place = (getGey s m).place))
    ∧ (∀ c b m, event c b none → waits b = some m → exec c s = .next (finishMoves s p))
    ∧ (∀ b, (mapRoom s p base k dest b = true → range b = (base, k))
      ∧ (base % 2 ^ k = 0 → (range b).1 ≤ base ∧ base + 2 ^ k ≤ (range b).1 + 2 ^ (range b).2))
    ∧ (∀ c b err, event c b err → waits b = none → allowed b = false → exec c s = .next s)
    ∧ (∀ err, holds = false → exec (.spillMove cl base k dest err) s = .next s)
    ∧ (∀ c b err f, event c b err → waits b = none → allowed b = true → moveFault s (move b) (units b) err = some f →
      exec c s = .next (spillFault s cl p f)
      ∧ (s.errors = [] → ∀ m, (getGey (spillFault s cl p f) m).place = (getGey s m).place))

/-! ## Serial audio ports -/

/-- The port commands: a block that keeps its tables and binds makes the port CONFIGURED; a start sets every member's totals to 0 and
brings a slave to LOCKING and a master to LEADIN; a stop ends the starts that wait and acts on a group at one input-frame boundary, the
next after every frame in progress, or at once where no data runs; a group forms of configured ports that agree and dissolves when they
are stopped (R465, R472, R473, R483, R484, R490, R492, R557 to R560).
Where a clause rests on a choice of the model it is that of notes/assumptions/48.md and notes/assumptions/96.md. -/
def Obligations.PortCommands : Prop :=
  ∀ (h : DciHdr) (s : State) (n : Nat), s.Units → n < 8 →
    let q := getPort s n
    let ms := portMembers s n
    let ok := fun (s1 : State) (r : Nat) => Host.Outcome.next (dciComplete s1 h.fn h.tag stOk r 0)
    let no := fun (st : Nat) => Host.Outcome.next (dciComplete s h.fn h.tag st 0 0)
    let parked := fun (x : Port) => x.state = .off ∨ x.state = .configured ∨ x.state = .fault
    let others := fun (s1 : State) (l : List Nat) => ∀ m, m ∉ l → getPort s1 m = getPort s m
    (∀ (a : W64) (b : List Byte), Taken (.portConfig h n a) h s → holdsPort s h n = true →
      BufReads s h (some (partOf h)) a.toNat 128 b →
      ((cfgTableOk b && cfgBindOk s (partOf h) n b) = false → exec (.portConfig h n a) s = no stInvalid)
      ∧ ((cfgTableOk b && cfgBindOk s (partOf h) n b) = true → parked q → q.group = 0 →
        (cfgMaster b = false ∨ familyOf b = some s.clk.family ∨ mastersRun s = false) →
        ∃ s1, exec (.portConfig h n a) s = ok s1 0 ∧ getPort s1 n = { q with cfg := b, state := .configured, unbound := [] }
          ∧ others s1 [n] ∧ s1.mem = s.mem ∧ s1.streams = s.streams ∧ s1.jobs = s.jobs))
    ∧ (Taken (.portStart h n) h s → holdsPort s h n = true →
      (q.state ≠ .configured → exec (.portStart h n) s = no stInvalid)
      ∧ (q.state = .configured → (q.group = 0 ∨ q.leader = n) →
        ∃ s', exec (.portStart h n) s = .next s' ∧ others s' ms
          ∧ (∀ m ∈ ms, let x := getPort s' m
            x.state = (if cfgMaster (getPort s m).cfg then .leadin else .locking) ∧ x.left = cfgLeadin (getPort s m).cfg
            ∧ x.cfg = (getPort s m).cfg ∧ x.rxFidx = 0 ∧ x.rxDelivered = 0 ∧ x.rxGap = 0 ∧ x.txFidx = 0 ∧ x.txDelivered = 0
            ∧ x.txGap = 0 ∧ x.idx = 0 ∧ x.frames = [])
          ∧ ∃ w ∈ s'.waiters, w.fn = h.fn ∧ w.tag = h.tag ∧ w.what = .portStart n))
    ∧ (Taken (.portStop h n) h s → (h.fn = 0 ∨ holdsPort s h n = true) →
      (q.state = .off ∨ q.state = .configured → exec (.portStop h n) s = ok s 0)
      ∧ (q.state ≠ .off → q.state ≠ .configured →
        ∃ s', exec (.portStop h n) s = .next s' ∧ others s' ms
          ∧ (∀ m ∈ ms, let x := getPort s m
            let e := stopIndex s ms
            (x.state = .run ∨ x.state = .hold → getPort s' m = { x with stopAt := some e } ∧ (0 < cfgIfr x.cfg → x.idx < e)
              ∧ (ms = [m] → e = (x.idx / cfgIfr x.cfg + 1) * cfgIfr x.cfg))
            ∧ (x.state = .leadin → getPort s' m =
                if 0 < e then { x with stopAt := some e } else { x with state := .tail, left := cfgTail x.cfg })
            ∧ (x.state = .locking ∨ x.state = .fault → (getPort s' m).state = .off)
            ∧ (x.state = .off ∨ x.state = .configured ∨ x.state = .tail → getPort s' m = x)
            ∧ (x.state = .run ∨ x.state = .hold ∨ x.state = .leadin ∨ x.state = .tail → ∃ w ∈ s'.waiters, w.fn = h.fn ∧ w.tag = h.tag
                ∧ w.what = .portStop (ms.map (fun k => (k, portCode (getPort s k).state)))))
          ∧ (∀ w ∈ s'.waiters, ∀ m ∈ ms, w.what ≠ .portStart m)))
    ∧ (∀ (g op : Byte), Taken (.portGroup h g op) h s →
      let l := (List.range 8).filter (bitAt g.toNat)
      (l.length < 2 ∨ 1 < op.toNat → exec (.portGroup h g op) s = no stInvalid)
      ∧ (2 ≤ l.length → (∀ m ∈ l, holdsPort s h m = true) →
        (op = 0 → (∀ m ∈ l, cfgAgree (getPort s (l.headD 0)).cfg (getPort s m).cfg = true) →
          (∀ m ∈ l, (getPort s m).state = .configured ∧ (getPort s m).group = 0) →
          ∃ s1, exec (.portGroup h g op) s = ok s1 (l.headD 0) ∧ others s1 l
            ∧ ∀ m ∈ l, getPort s1 m = { getPort s m with group := g.toNat, leader := l.headD 0 })
        ∧ (op = 1 → (∀ m ∈ l, (getPort s m).group = g.toNat ∧ parked (getPort s m)) →
          ∃ s1, exec (.portGroup h g op) s = ok s1 0 ∧ others s1 l
            ∧ ∀ m ∈ l, getPort s1 m = { getPort s m with group := 0, leader := 0 })))

/-- A port outside a group: a slave locks at two edges FLEN apart, counts its lead-in and runs; each frame of a running port is delivered
or is a GAP and is counted once in each direction that runs; an edge elsewhere is a slip of the nearest number of frames, or finds a slave
in HOLD when it comes more than 2 × FLEN periods late; without its clock a port holds and counts GAP frames; TAIL counts down to OFF. An
edge of the polarity that FSPOL does not name, one while the port's clocks do not run, and one that a master does not drive do nothing,
and EDGE names the BCLK edge at which DIN is sampled (R466, R467, R469, R470, R480, R482 to R486, R493).
Where a clause rests on a choice of the model it is that of notes/assumptions/46.md and notes/assumptions/47.md. -/
def Obligations.PortFrames : Prop :=
  ∀ (s : State) (n t bclks : Nat) (pins : TdmPins), s.Units → n < 8 →
    let q := getPort s n
    let slots := sampledSlots q.cfg pins.dinRise pins.dinFall
    let fl := cfgFlen q.cfg
    let tg := q.edge.getD 0
    let ts := t % 2 ^ 64
    let chunk := cfgChunkif q.cfg * cfgIfr q.cfg
    let taken := pins.rising ≠ cfgFspol q.cfg ∧ clocksRun s q = true ∧ (cfgMaster q.cfg = true → q.edge = none ∨ bclks = fl)
    let only := fun (s' : State) (x : Port) => getPort s' n = x ∧ (∀ m, m ≠ n → getPort s' m = getPort s m)
    let edge := fun (P : State → Prop) => ∃ s', exec (.tdmFrame n t bclks pins) s = .next s' ∧ P s'
    let receives := cfgRxen q.cfg = true ∧ q.raw = [] ∧ q.rxGroup = none
    (¬ taken → exec (.tdmFrame n t bclks pins) s = .next s)
    ∧ (taken →
      (q.state = .off ∨ q.state = .configured ∨ q.state = .fault → exec (.tdmFrame n t bclks pins) s = .next s)
      ∧ (q.state = .locking → edge (fun s' => only s'
          (if q.edge.isSome ∧ bclks = fl then { q with lastTs := ts, state := .leadin, left := cfgLeadin q.cfg, edge := some t }
           else { q with lastTs := ts, edge := some t })))
      ∧ (q.state = .leadin → q.edge.isSome = true → bclks = fl →
        (2 ≤ q.left → edge (fun s' => only s' { q with lastTs := ts, edge := some t, left := q.left - 1 }))
        ∧ (q.left ≤ 1 → q.group = 0 → edge (fun s' =>
          (getPort s' n).state = .run ∧ (getPort s' n).idx = 0 ∧ (getPort s' n).zeroTs = t ∧ (getPort s' n).edge = some t)))
      ∧ (q.state = .run → q.group = 0 → q.stopAt = none → q.slip = none → q.win.length < 64 →
        (bclks = fl → cfgTxen q.cfg = true → edge (fun s' =>
          let x := getPort s' n
          x.state = .run ∧ x.txFidx = q.txFidx + 1
            ∧ (q.txKind = 0 → x.txDelivered = q.txDelivered + 1 ∧ x.txGap = q.txGap)
            ∧ (q.txKind ≠ 0 → x.txDelivered = q.txDelivered ∧ x.txGap = q.txGap + 1)))
        ∧ (receives → cfgTxen q.cfg = false →
          (bclks = fl → q.frames.length + 1 < chunk → edge (fun s' => only s'
            { q with lastTs := ts, cnt := cntAt q.cnt 0 1, rxFidx := q.rxFidx + 1, rxDelivered := q.rxDelivered + 1,
                     frames := q.frames ++ [{ time := tg, fin := t, slots := slots, kind := 0 }],
                     idx := q.idx + 1, edge := some t, win := q.win ++ [t] }))
          ∧ (bclks ≠ fl → bclks ≤ 2 * fl → let k := max 1 ((2 * bclks + fl) / (2 * fl))
            q.frames.length + k < chunk → edge (fun s' =>
              let x := getPort s' n
              x.state = .run ∧ x.rxFidx = q.rxFidx + k ∧ x.rxGap = q.rxGap + k ∧ x.rxDelivered = q.rxDelivered ∧ x.idx = q.idx + k
                ∧ x.edge = some t ∧ x.win = [t]
                ∧ x.slip = some { first := q.idx, n := k, tg := tg, dur := t - tg }))
          ∧ (2 * fl < bclks → cfgMaster q.cfg = false → edge (fun s' =>
            let x := getPort s' n
            x.state = .hold ∧ x.idx = q.idx + 1 ∧ x.edge = some t ∧ x.hold = some { first := q.idx, n := 1, tg := tg, dur := 0 }))))
      ∧ (q.state = .hold → q.group = 0 → q.stopAt = none → ∀ g, q.hold = some g →
        (cfgMaster q.cfg = true ∨ (q.edge.isSome = true ∧ bclks = fl) → edge (fun s' =>
          let x := getPort s' n
          x.state = .run ∧ x.hold = none ∧ x.edge = some t ∧ (t ≤ g.tg + tfTimes q.cfg g.n → x.idx = q.idx)))
        ∧ (cfgMaster q.cfg = false → (q.edge = none ∨ bclks ≠ fl) → edge (fun s' => only s' { q with lastTs := ts, edge := some t })))
      ∧ (q.state = .tail → edge (fun s' => (getPort s' n).state = (if q.left - 1 = 0 then .off else .tail)
          ∧ (getPort s' n).left = q.left - 1 ∧ ∀ m, m ≠ n → getPort s' m = getPort s m)))
    ∧ (let due := if cfgMaster q.cfg then s.clk.audLock = false else 4 * 1000000000 ≤ (t - tg) * cfgBclk q.cfg
      (q.state ≠ .run ∨ ¬ due → exec (.tdmHold n t) s = .next s)
      ∧ (q.state = .run → due → q.group = 0 → q.stopAt = none → receives → q.frames.length + 1 < chunk →
        ∃ s', exec (.tdmHold n t) s = .next s' ∧ (∀ m, m ≠ n → getPort s' m = getPort s m)
          ∧ let x := getPort s' n
            x.state = .hold ∧ x.hold = some { first := q.idx, n := 1, tg := tg, dur := 0 } ∧ x.idx = q.idx + 1 ∧ x.edge = none
            ∧ x.rxFidx = q.rxFidx + 1 ∧ x.rxGap = q.rxGap + 1 ∧ x.rxDelivered = q.rxDelivered ∧ x.cfg = q.cfg))
    ∧ (q.state = .hold → q.group = 0 → q.stopAt = none → ∀ g, q.hold = some g → receives → q.frames.length + 1 < chunk →
      ∃ s', exec (.gapTick n) s = .next s' ∧ (getPort s' n).state = .hold ∧ (getPort s' n).hold = some { g with n := g.n + 1 }
        ∧ (getPort s' n).idx = q.idx + 1 ∧ (getPort s' n).rxGap = q.rxGap + 1 ∧ (getPort s' n).rxFidx = q.rxFidx + 1)
    ∧ (q.state = .tail → ∃ s', exec (.gapTick n) s = .next s'
      ∧ (getPort s' n).state = (if q.left - 1 = 0 then .off else .tail) ∧ (getPort s' n).left = q.left - 1
      ∧ ∀ m, m ≠ n → getPort s' m = getPort s m)

/-! ## Firmware and the management port -/

/-- Firmware commands: an image that verifies and is not below the floor takes the bank that staging writes, a refused one leaves that
bank empty and unverified; the other bank is marked for the next reset in the copy of the control record with the lower sequence number,
or a live activation switches its components in order, that of the transfer engines once each has come to its boundary, ending with that
bank active or, when a component fails its check, with the old bank running (R571, R572, R586, R593 to R596).
Where a clause rests on a choice of the model it is that of notes/assumptions/64.md and notes/assumptions/94.md. -/
def Obligations.FirmwareCommands : Prop :=
  ∀ (h : DciHdr) (s : State),
    let o := bankOf s.fw (!s.fw.active)
    let recorded := fun (x y : FwSt) =>
      let r := fun (n : Nat) => ({ active := y.active, tryBank := y.tryBank, tries := y.tries, seq := n + 1 } : CtrlRec)
      (x.ctrlA.seq < x.ctrlB.seq → y.ctrlA = r x.ctrlB.seq ∧ y.ctrlB = x.ctrlB)
        ∧ (x.ctrlB.seq ≤ x.ctrlA.seq → y.ctrlB = r x.ctrlA.seq ∧ y.ctrlA = x.ctrlA)
    (∀ (a : W64) (n : W32) (b : List Byte), Taken (.fwStage h a n) h s → n.toNat % 4096 = 0 → 0 < n.toNat → n.toNat ≤ 25165824 →
      BufReads s h none a.toNat n.toNat b →
      (parseFwImage b = none → exec (.fwStage h a n) s = .next (dciComplete s h.fn h.tag stInvalid 0 0))
      ∧ (∀ cs, parseFwImage b = some cs →
        (s.fw.op.isSome = true → exec (.fwStage h a n) s = .next (dciComplete s h.fn h.tag stBusy 0 0))
        ∧ (s.fw.op = none →
          let t := stageBank s
          let x := imageBank b cs
          let ends := fun (st r : Nat) (z : FwBank) => ∃ s1, exec (.fwStage h a n) s = .next (dciComplete s1 h.fn h.tag st r 0)
            ∧ bankOf s1.fw t = z ∧ bankOf s1.fw (!t) = bankOf s.fw (!t) ∧ s1.fw.active = s.fw.active ∧ s1.mgt = s.mgt ∧ s1.mem = s.mem
          (Config.verifyImage b = false → ends stDenied 0 FwBank.empty)
          ∧ (Config.verifyImage b = true → x.rbc < s.fw.floor → ends stVersion 0 FwBank.empty)
          ∧ (Config.verifyImage b = true → s.fw.floor ≤ x.rbc → ends stOk x.version x))))
    ∧ (∀ (c : Instr) (rb defer : Bool), (c = .fwActivate h defer ∧ rb = false) ∨ (c = .fwRollback h defer ∧ rb = true) → Taken c h s →
      let fails := fun (st : Nat) => exec c s = .next (dciComplete s h.fn h.tag st 0 0)
      (s.fw.op.isSome = true → fails stBusy)
      ∧ (s.fw.op = none → o.verified = false → fails stNotFound)
      ∧ (s.fw.op = none → o.verified = true → o.rbc < s.fw.floor → fails stVersion)
      ∧ (s.fw.op = none → o.verified = true → s.fw.floor ≤ o.rbc →
        let x : FwOp := { fn := some h.fn, tag := h.tag, rollback := rb, todo := [1, 2, 3, 5].filter o.comps.elem, done := [] }
        (defer = true → ∃ s1, exec c s = .next (dciComplete s1 h.fn h.tag stPending o.version 0)
          ∧ s1.fw = { s.fw with tryBank := some (!s.fw.active), tries := 0, ctrlA := s1.fw.ctrlA, ctrlB := s1.fw.ctrlB }
          ∧ recorded s.fw s1.fw ∧ s1.mgt = s.mgt)
        ∧ (defer = false → exec c s = .next (nowWaits c h { s with
            mgt := { s.mgt with state := .updating }, fw := { s.fw with op := some x } }))))
    ∧ (∀ (t : Nat) (ok : Bool) (x : FwOp), s.fw.op = some x → x.todo.head? = some t → s.mgt.state = .updating →
      (t = 2 → ∀ y ∈ s.tiles, ∀ c, y.cmd = some c → committing c = false) →
      let taken := fun (g : Gey) => t ≠ 3 ∨ g.setVer = o.version
      (ok = false → t = 2 ∨ t = 3 → ∃ s', exec (.fwComponentSwitch t ok) s = .next s' ∧ s'.mgt.state = .ready
        ∧ s'.fw = { s.fw with
          op := none, running := s.fw.active, compVer := putVers s.fw.compVer x.done (bankOf s.fw s.fw.active).version })
      ∧ (ok = true ∨ (t ≠ 2 ∧ t ≠ 3) → (∃ g ∈ (switchGeysers s o.version).geys, ¬ taken g) →
        ∃ s', exec (.fwComponentSwitch t ok) s = .next s' ∧ s' = { s with geys := s'.geys }
          ∧ (∀ c, c < s.geys.length → (∀ e ∈ s.tasks, e.2.cluster = c → e.2.state ≠ .executing) → (getGey s' c).setVer = o.version))
      ∧ (ok = true ∨ (t ≠ 2 ∧ t ≠ 3) → (∀ g ∈ (switchGeysers s o.version).geys, taken g) → ∃ s', exec (.fwComponentSwitch t ok) s = .next s'
        ∧ (t = 1 → s'.mgt.state = .boot ∧ s'.fw.running = (!s.fw.active) ∧ s'.fw.verifiedBoot = false ∧ s'.fw.active = s.fw.active)
        ∧ (t ≠ 1 → x.todo.drop 1 ≠ [] → s'.fw = { s.fw with
            compVer := putVers s.fw.compVer [t] o.version, op := some { x with todo := x.todo.drop 1, done := x.done ++ [t] } })
        ∧ (t ≠ 1 → x.todo.drop 1 = [] → s'.mgt.state = .ready ∧ s'.fw.active = (!s.fw.active) ∧ s'.fw.op = none
            ∧ s'.fw.tryBank = none ∧ s'.fw.tries = 0 ∧ recorded s.fw s'.fw)))

/-- Booting: the ROM runs the bank it has verified, with the identity key of the device and a wrapping key of the reset; a trial, of the bank
of TRY in the boots after a module reset alone, that does not verify, or does not reach READY in time, counts a try, and the
third ends the trials; with no bank that verifies Tyrax stays in RECOVERY. READY ends a trial with its bank active and raises the
rollback floor to the image's counter. The watchdog restarts Tyrax alone (R572, R587, R594 to R597, R628).
Where a clause rests on a choice of the model it is that of notes/assumptions/64.md and notes/assumptions/95.md. -/
def Obligations.BootingTyrax : Prop :=
  ∀ s : State,
    let recorded := fun (x y : FwSt) =>
      let r := fun (n : Nat) => ({ active := y.active, tryBank := y.tryBank, tries := y.tries, seq := n + 1 } : CtrlRec)
      (x.ctrlA.seq < x.ctrlB.seq → y.ctrlA = r x.ctrlB.seq ∧ y.ctrlB = x.ctrlB)
        ∧ (x.ctrlB.seq ≤ x.ctrlA.seq → y.ctrlB = r x.ctrlA.seq ∧ y.ctrlA = x.ctrlA)
    let b := bootBank s.fw
    let trial := s.fw.op.isNone && s.fw.tryBank.isSome && s.fw.fromReset
    let tried := fun (s' : State) => s'.mgt = { s.mgt with state := .boot } ∧ recorded s.fw s'.fw ∧ s'.fw = { s.fw with
      tries := (if 2 ≤ s.fw.tries then 3 else s.fw.tries + 1), tryBank := (if 2 ≤ s.fw.tries then none else s.fw.tryBank)
      ctrlA := s'.fw.ctrlA, ctrlB := s'.fw.ctrlB, verifiedBoot := false, onTrial := false }
    let runs := fun (s' : State) (x : Bool) =>
      s'.mgt = { s.mgt with wrapKey := s'.mgt.wrapKey
                            identity := Config.shake256 (Config.deviceSecret ++ [0x42, 0x4E, 0x31, 0x2D, 0x49, 0x44]) 96 }
      ∧ (s.mgt.wrapKey = none → s'.mgt.wrapKey = some ((Config.random s.freeCtr).setWidth 256))
      ∧ (s.mgt.wrapKey.isSome = true → s'.mgt.wrapKey = s.mgt.wrapKey)
      ∧ s'.fw = { s.fw with verifiedBoot := true, booted := true, running := x, onTrial := trial }
    (∀ x, s.fw.op = none → s.fw.tryBank = some x → b = if s.fw.fromReset then x else s.fw.active)
    ∧ (s.mgt.state = .boot → running s = true → s.clk.mgtLock = true → s.fw.verifiedBoot = false →
      ∃ s', exec .bootVerify s = .next s' ∧ s'.mem = s.mem ∧ s'.jobs = s.jobs
        ∧ ((bankOf s.fw b).verified = true → runs s' b)
        ∧ ((bankOf s.fw b).verified = false → trial = true → tried s')
        ∧ ((bankOf s.fw b).verified = false → trial = false → (bankOf s.fw (!b)).verified = true → runs s' (!b))
        ∧ ((bankOf s.fw b).verified = false → trial = false → (bankOf s.fw (!b)).verified = false →
            s'.mgt = { s.mgt with state := .recovery } ∧ s'.fw = s.fw))
    ∧ (s.mgt.state = .boot → s.fw.onTrial = true → ∃ s', exec .trialBootTimeout s = .next s' ∧ tried s')
    ∧ (tyraxUp s = true → exec .tyraxWatchdog s = .next { s with
        fw := { s.fw with verifiedBoot := false }, mgt := { s.mgt with state := .boot } })
    ∧ (s.mgt.state = .boot → running s = true → s.fw.verifiedBoot = true → s.fw.op = none →
      ∃ s', exec .tyraxReady s = .next s' ∧ s'.mgt.state = .ready ∧ s'.mgt.strap.isSome = true ∧ s'.fw.running = s.fw.running
        ∧ s'.fw.active = (if s.fw.onTrial then s.fw.running else s.fw.active) ∧ s'.fw.onTrial = false ∧ s'.fw.fromReset = false
        ∧ (s.fw.onTrial = true → s'.fw.tryBank = none ∧ s'.fw.tries = 0 ∧ recorded s.fw s'.fw)
        ∧ s'.fw.floor = max s.fw.floor (bankOf s.fw s.fw.running).rbc)

/-- What the management port asks of Tyrax is answered once, in order; it reads sensors, whose extremes then start again, the CPER records of
unread events, the log and MGT_ registers, sets its own power cap, stages and activates firmware, starts a reset by a drain; IDE_KM is
taken in a session on the DOE mailbox alone; without Tyrax nothing is answered (R529, R573, R578, R583 to R586, R588, R628).
Where a clause rests on a choice of the model it is that of notes/assumptions/65.md. -/
def Obligations.ManagementPort : Prop :=
  ∀ s : State,
    let answers := fun (c : Instr) (bs : List Byte) => exec c s = .next { s with mgt := { s.mgt with replies := s.mgt.replies ++ [bs] } }
    (portUp s = false → ∀ c, c ∈ [Instr.logFlush, .mpResetRequest] ∨ (∃ m, c = .spdmRequest m) ∨ (∃ m, c = .mctpControl m)
        ∨ (∃ x, c = .pldmMonitoring x) ∨ (∃ r, c = .pldmFirmwareUpdate r) ∨ (∃ a n, c = .logRead a n) ∨ (∃ w, c = .mpPowerCap w)
        ∨ (∃ d, c = .mpFwRollback d) ∨ (∃ a, c = .mpRegisterRead a) → exec c s = .next s)
    ∧ (portUp s = true →
      (∀ m, answers (.mctpControl m) (Config.mctpReply m))
      ∧ (∀ a, answers (.mpRegisterRead a) (leBytes 8 (readMgt s a)))
      ∧ (∀ x, ∃ s', exec (.pldmMonitoring (some x)) s = .next s' ∧ s'.mgt = { s.mgt with replies := s.mgt.replies ++ [sensorReport s x] }
          ∧ (sensorReport s x).take 4 = leBytes 4 (BitVec.ofInt 32 ((readSensor s x).getD 0)).toNat
          ∧ (∀ y, readSensor s' y = readSensor s y) ∧ (∀ e, sensorOf s x = some e → sensorOf s' x = some { e with lo := e.value, hi := e.value }))
      ∧ (s.mgt.unread = [] → answers (.pldmMonitoring none) [])
      ∧ (∀ e r, s.mgt.unread = e :: r → exec (.pldmMonitoring none) s = .next { s with
          mgt := { s.mgt with unread := r, replies := s.mgt.replies ++ [e] } })
      ∧ (∀ first n, answers (.logRead first n) (((s.log.flash ++ s.log.buffer).filter (fun r =>
          decide (first ≤ r.seq ∧ r.seq < first + n))).flatMap (fun r => logBytes r ++ padZero 8 r.chk)))
      ∧ (s.fw.deferred = false → exec .logFlush s = .next { s with
          log := { s.log with flash := flashAdd s.log.flash s.log.buffer, buffer := [] } })
      ∧ (∀ slh kem, exec (.spdmRequest (.negotiate slh kem)) s = .next { s with mgt := { s.mgt with
          spdmOk := slh, spdmKem := slh && kem, replies := s.mgt.replies ++ [Config.mctpReply (leBytes 1 (b2n slh) ++ leBytes 1 (b2n (slh && kem)))] } })
      ∧ (∀ i, answers (.spdmRequest (.getCertificate i)) (if s.mgt.spdmOk then (certChain s).getD i [] else Config.mctpReply []))
      ∧ (∀ n, answers (.spdmRequest (.challenge n)) (if s.mgt.spdmOk then Config.slhSign s.mgt.identity [] n else Config.mctpReply []))
      ∧ (∀ doe i key k, let taken := (doe && s.mgt.spdmOk && s.mgt.spdmKem) = true ∧ i < 3
          ∃ s', exec (.spdmRequest (.ideKm doe i key k)) s = .next s' ∧ s'.mgt.replies = s.mgt.replies ++ [Config.mctpReply []]
          ∧ (¬ taken → s'.link = s.link)
          ∧ (taken → i ∈ s'.link.ideConfigured ∧ i ∈ s'.link.ideSecure ∧ tGet s'.link.ideKeys i = some key
              ∧ (i = 2 → s'.link.containment = k)))
      ∧ (∀ w, (capOf w = none → answers (.mpPowerCap w) (Config.mctpReply (leBytes 4 stInvalid)))
        ∧ (∀ n, capOf w = some n → ∃ s', exec (.mpPowerCap w) s = .next s' ∧ s'.fw = s.fw ∧ s'.mgt = { s.mgt with
            capMp := n, replies := s.mgt.replies ++ [Config.mctpReply (leBytes 4 stOk)] }))
      ∧ (∀ b, exec (.pldmFirmwareUpdate (.transfer b)) s = .next { (stageImage s b).2.2 with
          mgt := { s.mgt with replies := s.mgt.replies ++ [Config.mctpReply (leBytes 4 (stageImage s b).1)] } })
      ∧ (∀ c d, (c = .pldmFirmwareUpdate (.activate d) ∨ c = .mpFwRollback d) → tyraxUp s = true → s.fw.op = none →
        let o := bankOf s.fw (!s.fw.active)
        (o.verified = false → answers c (Config.mctpReply (leBytes 4 stNotFound)))
        ∧ (o.verified = true → s.fw.floor ≤ o.rbc → ∃ s', exec c s = .next s'
          ∧ (d = true → s'.fw.tryBank = some (!s.fw.active) ∧ s'.fw.tries = 0
            ∧ s'.mgt = { s.mgt with replies := s.mgt.replies ++ [Config.mctpReply (leBytes 4 stPending)] })
          ∧ (d = false → s'.mgt = { s.mgt with state := .updating } ∧ (s'.fw.op.map (·.fn)) = some none)))
      ∧ (s.pwr.draining = false → running s = true → ∃ s', exec .mpResetRequest s = .next s' ∧ s'.pwr.draining = true
          ∧ s'.pwr.mpReset = true ∧ s'.mgt.state = .draining ∧ s'.tasks = [] ∧ ∀ g ∈ s'.geys, g.xfers = []))

/-- A certificate of the chain, a quote of the device or of a partition over the issuer's nonce, signed by the identity key once every quote
fetched before it is done, and the physical function's power cap (R534, R535, R569, R570, R573, R586, R588, R590 to R592).
Where a clause rests on a choice of the model it is that of notes/assumptions/65.md. -/
def Obligations.IdentityQuotesAndCap : Prop :=
  ∀ (h : DciHdr) (s : State) (a : W64),
    let ends := fun (c : Instr) (s1 : State) (st r : Nat) => exec c s = .next (turnOver c h (dciComplete s1 h.fn h.tag st r 0))
    (∀ (i : Nat) (cap : W32), Taken (.idCert h i a cap) h s →
      let p := some (partOf h)
      ((outFn s h p a.toNat cap.toNat).isSome = false → ends (.idCert h i a cap) s stInvalid 0)
      ∧ ((outFn s h p a.toNat cap.toNat).isSome = true →
        ((certChain s)[i]? = none → ends (.idCert h i a cap) s stNotFound 0)
        ∧ (∀ c, (certChain s)[i]? = some c →
          (cap.toNat < c.length → ends (.idCert h i a cap) s stNoResource c.length)
          ∧ (c.length ≤ cap.toNat → bufOpen s h p a.toNat c.length = true →
            ends (.idCert h i a cap) (writeBuf s h p a.toNat c) stOk c.length))))
    ∧ (∀ nonce, Taken (.attestQuote h nonce a) h s →
      let p := if cfgScope h = 12 then none else some (cfgScope h)
      let bs := quoteBody s (cfgScope h) nonce ++ quoteSig s (quoteBody s (cfgScope h) nonce)
      ((outFn s h p a.toNat 65536).isSome = false → ends (.attestQuote h nonce a) s stInvalid 0)
      ∧ ((outFn s h p a.toNat 65536).isSome = true → quoteAhead s (.attestQuote h nonce a) h = false → bufOpen s h p a.toNat 65536 = true →
        ∃ s1, ends (.attestQuote h nonce a) s1 stOk bs.length ∧ s1 = { writeBuf s h p a.toNat bs with mgt := s1.mgt }
          ∧ s1.mgt = { s.mgt with quotes := s.mgt.quotes + 1 }))
    ∧ (∀ w : BitVec 16, Taken (.powerCap h w) h s →
      (capOf w.toNat = none → ends (.powerCap h w) s stInvalid 0)
      ∧ (∀ n, capOf w.toNat = some n → ∃ s1,
        exec (.powerCap h w) s = .next (dciComplete s1 h.fn h.tag stOk (min n s.mgt.capMp) (min 65535 (inputPower s s.pwr.samples)))
          ∧ s1.mgt = { s.mgt with capPf := n } ∧ s1.mem = s.mem ∧ s1.pwr = s.pwr ∧ s1.tiles = s.tiles))

/-! ## Supply, resets, clocks, sensors -/

/-- A sample of the supply is recorded, is taken by the input's sensors while Tyrax runs, moves the supply level and counts the samples below
38 V; what waits on tiles for passes to begin starts as the level allows; the fourth in a row starts the drain; its end takes the power away, or resets for the management port. A reset takes every register
to its reset value and keeps flash, host memory and what the configuration store holds, and the control record of the higher sequence
number is in force (R577 to R579, R595, R619 to R623, R626, R628, R639, R641, R686).
Where a clause rests on a choice of the model it is that of notes/assumptions/57.md, notes/assumptions/58.md and notes/assumptions/59.md. -/
def Obligations.SupplyAndResets : Prop :=
  ∀ s : State,
    let level := fun (v : Nat) => if 42000 ≤ v then 0 else if 41000 ≤ v then 1 else if 40000 ≤ v then 2 else if 39000 ≤ v then 3 else 4
    let uses := fun (s' : State) (r : CtrlRec) =>
      s'.fw.active = r.active ∧ s'.fw.tryBank = r.tryBank ∧ s'.fw.tries = r.tries ∧ s'.fw.fromReset = true
    let reset := fun (s' : State) => s'.mem = [] ∧ s'.host = s.host ∧ s'.jobs = [] ∧ s'.streams = [] ∧ s'.tasks = []
      ∧ s'.tiles = State.reset.tiles ∧ s'.ports = State.reset.ports ∧ s'.clk = State.reset.clk ∧ s'.mgt.state = .boot
      ∧ bankOf s'.fw = bankOf s.fw ∧ s'.fw.floor = s.fw.floor ∧ s'.fw.ctrlA = s.fw.ctrlA ∧ s'.fw.ctrlB = s.fw.ctrlB
      ∧ (s.fw.ctrlA.seq < s.fw.ctrlB.seq → uses s' s.fw.ctrlB) ∧ (s.fw.ctrlB.seq ≤ s.fw.ctrlA.seq → uses s' s.fw.ctrlA)
      ∧ s'.parts.map (fun x => (x.keyGen, x.stored, x.storedSlices)) = s.parts.map (fun x => (x.keyGen, x.stored, x.storedSlices))
      ∧ s'.parts.map (·.state) = s.parts.map (fun _ => PartState.none)
    (∀ (mV : Int) (mA : Nat), -60000 ≤ mV → mV ≤ 80000 → s.pwr.powered = true →
      let v := mV.toNat
      ∃ s1 s', exec (.supplySample mV mA) s = .next s'
        ∧ (portUp s = false → s1.sensors = s.sensors)
        ∧ (portUp s = true → (∀ e, sensorOf s .inputVoltage = some e → e.failed = false → 0 ≤ mV →
            (sensorOf s1 .inputVoltage).map (fun y => (y.value, y.failed)) = some (mV / 10, false))
          ∧ (mV < 0 → sensorFailed s1 .inputVoltage = true) ∧ (6000 < mA / 10 → sensorFailed s1 .inputCurrent = true))
        ∧ s1.pwr.samples = ((v, mA) :: s.pwr.samples).take 10000 ∧ s1.pwr.vmin = min s.pwr.vmin (v / 10)
        ∧ s1.pwr.vmax = min 65535 (max s.pwr.vmax (v / 10)) ∧ s1.pwr.below = (if v < 38000 then s.pwr.below + 1 else 0)
        ∧ (s.pwr.supply ≤ level v → s1.pwr.supply = level v)
        ∧ (level v < s.pwr.supply → s1.pwr.supply = s.pwr.supply ∨ s1.pwr.supply = s.pwr.supply - 1)
        ∧ s1.pwr.draining = s.pwr.draining ∧ s1.tiles = s.tiles ∧ s1.tasks = s.tasks ∧ s1.clk = s.clk ∧ s1.ports = s.ports
        ∧ (v < 38000 → 3 ≤ s.pwr.below → running s = true → s'.pwr.draining = true ∧ s'.sensors = s1.sensors
            ∧ s'.pwr.samples = s1.pwr.samples ∧ s'.pwr.supply = s1.pwr.supply ∧ s'.pwr.vmin = s1.pwr.vmin ∧ s'.pwr.vmax = s1.pwr.vmax)
        ∧ (38000 ≤ v ∨ s.pwr.below < 3 → s' = resumeQueues s s1))
    ∧ (∀ s0 s1, (∀ t c, getCmd s1 t = some c → c.queue = []) → resumeQueues s0 s1 = s1)
    ∧ (∀ mV mA, -60000 ≤ mV → mV ≤ 80000 → s.pwr.powered = false → exec (.supplySample mV mA) s = .next s)
    ∧ (s.pwr.draining = true → ∃ s', exec .drainComplete s = .next s' ∧ reset s' ∧ s'.log.buffer = []
        ∧ s'.log.flash = flashAdd s.log.flash s.log.buffer ∧ s'.pwr.powered = (s.pwr.mpReset && s.pwr.powered) ∧ s'.pwr.draining = false)
    ∧ (s.pwr.powered = false → exec .powerOn s = .next { s with pwr := { s.pwr with powered := true } })
    ∧ (s.pwr.draining = false → ∃ s', exec (.mgRstN true) s = .next s' ∧ reset s' ∧ s'.mgt.rstLow = true ∧ running s' = false)
    ∧ (s.pwr.draining = true → exec (.mgRstN true) s = .next { s with mgt := { s.mgt with rstLow := true } })
    ∧ exec (.mgRstN false) s = .next { s with mgt := { s.mgt with rstLow := false } }
    ∧ (s.pwr.powered = true → ∀ d, ∃ s', exec (.thermalTrip d) s = .next s' ∧ reset s' ∧ s'.pwr.powered = false ∧ s'.pwr.tripped = true)

/-- The crystal's count starts device time, and a frequency outside 25 MHz ± 3 % leaves Tyrax in RECOVERY; a PLL gains and loses its
lock, by its own event or a frequency more than 1,000 ppm off; a die whose CORE_A loses lock serves reduced until the PLL has been locked
for 1 s (R607 to R609, R615, R635, R655).
Where a clause rests on a choice of the model it is that of notes/assumptions/60.md. -/
def Obligations.ClocksAndLocks : Prop :=
  ∀ s : State,
    (running s = true → s.clk.counted = false → s.mgt.state = .boot →
      (∀ f, 24250 ≤ f → f ≤ 25750 → ∃ s', exec (.crystalStable f) s = .next s' ∧ s'.clk = { s.clk with counted := true, xtalOk := true }
        ∧ s'.time.acc = 0 ∧ s'.mgt = s.mgt ∧ s'.fw = s.fw)
      ∧ (∀ c, c = .crystalFailTimeout ∨ (∃ f, c = .crystalStable f ∧ (f < 24250 ∨ 25750 < f)) → ∃ s', exec c s = .next s'
        ∧ s'.mgt = { s.mgt with state := .recovery } ∧ s'.clk.xtalOk = s.clk.xtalOk ∧ s'.fw = { s.fw with deferred := true }))
    ∧ (s.clk.counted = true → exec .crystalFailTimeout s = .next s ∧ ∀ f, exec (.crystalStable f) s = .next s)
    ∧ (running s = true → s.clk.xtalOk = true → 3 ≤ s.clk.die0.length → 3 ≤ s.clk.die1.length → 12 ≤ s.clk.hbm.length → ∀ p,
      (∀ n, p = .hbm n → n < 12) → ∃ s', exec (.pllLock p) s = .next s' ∧ isLocked s'.clk p = true
        ∧ s'.time = s.time ∧ s'.clk.xtalOk = s.clk.xtalOk ∧ s'.clk.family = s.clk.family ∧ s'.clk.refsel = s.clk.refsel
        ∧ (∀ q ∈ [Pll.xfab, .audio, .cxl], q ≠ p → isLocked s'.clk q = isLocked s.clk q)
        ∧ ∀ d, p = .coreA d → isLocked s.clk p = false → tGet s'.clk.relock d = some (now s))
    ∧ (s.clk.xtalOk = false → ∀ p, exec (.pllLock p) s = .next s)
    ∧ (∀ p, isLocked s.clk p = true →
      (∃ s', exec (.pllLosesLock p) s = .next s' ∧ isLocked s'.clk p = false ∧ (p ≠ .audio → s' = { s with clk := s'.clk }))
      ∧ (∀ e : Int, 1000 < e.natAbs → ∃ s', exec (.freqCheck p e) s = .next s' ∧ isLocked s'.clk p = false
        ∧ (∀ d t, p = .coreA d → d < s.dies.length → tGet s.clk.relock d = some t → (getDie s' d).coreLost = true))
      ∧ (∀ e : Int, e.natAbs ≤ 1000 → ((∀ d, p ≠ .coreA d) → exec (.freqCheck p e) s = .next s)
        ∧ (∀ d t, p = .coreA d → d < s.dies.length → (getDie s d).coreLost = true → tGet s.clk.relock d = some t →
          ∃ s', exec (.freqCheck p e) s = .next s' ∧ s'.clk = s.clk
            ∧ (getDie s' d).coreLost = (if t + 1000000000 ≤ now s then false else true))))
    ∧ (∀ p, isLocked s.clk p = false → exec (.pllLosesLock p) s = .next s)

/-- A sensor reads its last sample; out of its range, or after four missed samples, it has failed and reads its worst value; a second
junction reading of 105 °C or more in a row drains the package. The input reads the mean of its last 1 ms, its power comes from those
samples alone, and a failed input sensor counts there as its worst value. The thermal level of a die and the cap level move one step a
tick within their range, the cap at 1,200 W while the power-stage controller switches (R578, R579, R594, R625 to R627).
Where a clause rests on a choice of the model it is that of notes/assumptions/58.md. -/
def Obligations.SensorsAndThrottling : Prop :=
  ∀ s : State,
    let input := [Sensor.inputVoltage, .inputCurrent, .inputPower]
    let w := (s.pwr.samples.take 1000).map (fun e =>
      (if sensorFailed s .inputVoltage then 0 else e.1, if sensorFailed s .inputCurrent then 60000 else e.2))
    (w ≠ [] → readSensor s .inputVoltage = some (((w.map Prod.fst).sum / w.length : Nat) / 10)
      ∧ readSensor s .inputCurrent = some (((w.map Prod.snd).sum / w.length : Nat) / 10)
      ∧ readSensor s .inputPower = some (((w.map (fun x => x.1 * x.2)).sum / (1000000 * w.length) : Nat)))
    ∧ (∀ v, exec (.sensorSample .inputPower v) s = .next s)
    ∧ (portUp s = true →
      (∀ x v, x ∉ input → Instr.Rated (.sensorSample x (some v)) →
        ∃ s', exec (.sensorSample x (some v)) s = .next s'
          ∧ (s'.pwr.draining = s.pwr.draining → s'.mem = s.mem ∧ s'.jobs = s.jobs ∧ s'.tiles = s.tiles ∧ s'.clk = s.clk)
          ∧ (∀ y, y ≠ x → readSensor s' y = readSensor s y)
          ∧ ((sensorRange x).1 ≤ v → v ≤ (sensorRange x).2 → (∀ e, sensorOf s x = some e → e.failed = false) → readSensor s' x = some v)
          ∧ (v < (sensorRange x).1 ∨ (sensorRange x).2 < v → readSensor s' x = some (worst x))
          ∧ (∀ d k e, x = .junction d k → sensorOf s x = some e → 1 ≤ e.high → 420 ≤ v → running s = true → s'.pwr.draining = true))
      ∧ (∀ x e, x ∉ input → sensorOf s x = some e → ∃ s', exec (.sensorSample x none) s = .next s'
          ∧ readSensor s' x = some (if e.failed ∨ 3 ≤ e.missed then worst x else e.value))
      ∧ (∀ x e, x = .inputVoltage ∨ x = .inputCurrent → sensorOf s x = some e → ∃ s', exec (.sensorSample x none) s = .next s'
          ∧ sensorFailed s' x = (e.failed || decide (3 ≤ e.missed))))
    ∧ (portUp s = false → ∀ x, exec (.sensorSample x none) s = .next s)
    ∧ (∀ d, d < s.dies.length →
      let hot := (∃ v ∈ junctions s d, 400 ≤ v) ∨ (∃ v ∈ stacksOf s d, 95 ≤ v)
      (hot → (getDie s d).therm < 7 → ∃ s', exec (.thermalTick d) s = .next s'
        ∧ getDie s' d = { getDie s d with therm := (getDie s d).therm + 1 } ∧ s'.tiles = s.tiles ∧ s'.jobs = s.jobs)
      ∧ (hot → 7 ≤ (getDie s d).therm → exec (.thermalTick d) s = .next s)
      ∧ (¬ hot → (∀ v ∈ junctions s d, v ≤ 388) →
        ∃ s', exec (.thermalTick d) s = .next s' ∧ getDie s' d = { getDie s d with therm := (getDie s d).therm - 1 }
          ∧ s' = { s with dies := s'.dies })
      ∧ (¬ hot → (∃ v ∈ junctions s d, 388 < v) → exec (.thermalTick d) s = .next s))
    ∧ (tyraxUp s = true →
      let cap := if s.fw.op.any (fun o => o.todo.head? = some 5) then min 1200 (min s.mgt.capPf s.mgt.capMp) else min s.mgt.capPf s.mgt.capMp
      ∃ n, exec .powerCapTick s = .next (let s1 := { s with pwr := { s.pwr with capLevel := n } }
          if n < s.pwr.capLevel then resumeQueues s s1 else s1)
        ∧ (cap < inputPower s s.pwr.samples → n = min 8 (s.pwr.capLevel + 1))
        ∧ (inputPower s s.pwr.samples ≤ cap → n = s.pwr.capLevel ∨ n = s.pwr.capLevel - 1))
    ∧ (tyraxUp s = false → exec .powerCapTick s = .next s)

/-! ## Power states, bring-up, scrubbing -/

/-- Idle tiles sleep and idle slices outside use are power-gated with their records; a tile that passes phase 1 brings its trained slice
online, one that fails stays withdrawn; after phase 2 the tiles that failed stay withdrawn; a stack holds its new requests while it is
retrained, which waits for those in flight, and a stack whose first training fails is bad (R599, R616 to R618, R630, R631, R654).
Where a clause rests on a choice of the model it is that of notes/assumptions/61.md, notes/assumptions/62.md and notes/assumptions/77.md. -/
def Obligations.PowerStatesAndBringUp : Prop :=
  ∀ s : State, s.Units →
    (∀ t, t < 96 → (getTile s t).power = .run →
      (tileState s t = 0 → ∃ s', exec (.tileSleep t) s = .next s' ∧ getTile s' t = { getTile s t with power := .sleep }
        ∧ (∀ u, u ≠ t → getTile s' u = getTile s u) ∧ s' = { s with tiles := s'.tiles })
      ∧ (tileState s t ≠ 0 → exec (.tileSleep t) s = .next s))
    ∧ (∀ n, n < 12 → tyraxUp s = true → (getSlice s n).deep = false → (getGey s n).phase2 = false →
      (∀ i, i < 8 → (getTile s (8 * n + i)).cmd = none) →
      ((getSlice s n).online = false ∨ ∃ p, partOfSlice s n = some p ∧ (getPart s p).state = .empty ∧ (getPart s p).shapeOp = none) →
      ∃ s', exec (.sliceDeepSleep n) s = .next s' ∧ (getSlice s' n).deep = true ∧ s'.mem = s.mem
        ∧ (∀ i, i < 8 → let x := getTile s (8 * n + i)
            getTile s' (8 * n + i) = { x with power := .deep, record := some (x.phase1, x.phase2) })
        ∧ (∀ u, u / 8 ≠ n → getTile s' u = getTile s u) ∧ s'.parts = s.parts)
    ∧ (∀ t, t < 96 → tyraxUp s = true → (getTile s t).phase1 = false → (getTile s t).failed = false →
      (∃ s', exec (.phase1Done t true) s = .next s' ∧ (getTile s' t).phase1 = true ∧ (getTile s' t).failed = false
        ∧ ((getSlice s (t / 8)).trained = true → (getSlice s (t / 8)).bad = false → (getSlice s' (t / 8)).online = true))
      ∧ (∃ s', exec (.phase1Done t false) s = .next s' ∧ (getTile s' t).phase1 = false ∧ (getTile s' t).failed = true
        ∧ (getTile s' t).withdrawn = true))
    ∧ (∀ c l, c < 12 → (getGey s c).phase2 = true →
      ∃ s', exec (.phase2Done c l) s = .next s' ∧ ∀ i, i < 8 → let x := getTile s (8 * c + i); let y := getTile s' (8 * c + i)
        (x.phase1 = true → x.failed = false → i ∈ l → y.failed = true ∧ y.withdrawn = true ∧ y.phase2 = x.phase2)
        ∧ (x.phase1 = true → x.failed = false → i ∉ l → y.failed = false ∧ y.phase2 = true))
    ∧ (∀ n, n < 12 →
      (mayRetrain s n = true → exec (.stackRetrain n) s = .next (setGey s n (fun g => { g with held := true })))
      ∧ (mayRetrain s n = false → exec (.stackRetrain n) s = .next s)
      ∧ ((getGey s n).held = true → stackBusy s n = true → ∀ ok, exec (.retrainDone n ok) s = .next s)
      ∧ ((getGey s n).held = true → stackBusy s n = false →
        (∃ s', exec (.retrainDone n true) s = .next s' ∧ (getGey s' n).held = false ∧ (getSlice s' n).trained = true
          ∧ (getSlice s' n).trainTime = now s ∧ (getSlice s' n).trainTemp = (getSlice s n).temp ∧ (getSlice s' n).corrected = []
          ∧ s'.tiles = s.tiles ∧ s'.mem = s.mem)
        ∧ (∃ s', exec (.retrainDone n false) s = .next s' ∧ (getSlice s' n).online = false ∧ (getSlice s' n).bad = true))
      ∧ ((getGey s n).held = false → tyraxUp s = true → (getSlice s n).trained = false → (getSlice s n).bad = false →
        (∃ s', exec (.retrainDone n true) s = .next s' ∧ (getSlice s' n).trained = true ∧ (getSlice s' n).trainTime = now s)
        ∧ (∃ s', exec (.retrainDone n false) s = .next s' ∧ (getSlice s' n).trained = false ∧ (getSlice s' n).bad = true)))

/-- A scrub reads its next unit and goes on; a word it can correct is counted with its address and syndrome; one it cannot is raised as
UNCORRECTED, and faults the partition whose tables it holds; corrected errors of a unit are reported together, at most once a second
(R639, R643, R644, R646 to R649, R668).
Where a clause rests on a choice of the model it is that of notes/assumptions/63.md. -/
def Obligations.ScrubbingAndCorrectedErrors : Prop :=
  ∀ s : State, s.Units →
    let counted := fun (s' : State) (k u : Nat) (P : Nat → Prop) (syn : W32) => ∃ c, s'.corr.find? (fun c => c.utype = k && c.unit = u) = some c
      ∧ c.count = ((s.corr.find? (fun c => c.utype = k && c.unit = u)).elim 0 (·.count)) + 1 ∧ P c.addr ∧ c.syndrome = syn
    (∀ t, t < 96 → (getTile s t).power ≠ .deep → (getTile s t).scrubPos < 65536 →
      let pos := (getTile s t).scrubPos
      let goes := fun (s' : State) => (getTile s' t).scrubPos = (pos + 1) % 65536
      (scrubs (getTile s t) = false → ∀ r, exec (.patrolScrub t r) s = .next s)
      ∧ (scrubs (getTile s t) = true →
        (∃ s', exec (.patrolScrub t .clean) s = .next s' ∧ goes s' ∧ s' = { s with tiles := s'.tiles })
        ∧ (∀ syn, ∃ s', exec (.patrolScrub t (.corrected syn)) s = .next s' ∧ goes s' ∧ s'.mem = s.mem ∧ s'.badWords = s.badWords
          ∧ counted s' 1 t (fun a => ∃ w, w < 8 ∧ a = calAddr t (64 * pos) + 8 * w) syn)
        ∧ (∀ syn, s.errors = [] → (∀ w, w < 8 → tablesAt s (calAddr t (64 * pos) + 8 * w) = none) →
          ∃ s', exec (.patrolScrub t (.uncorrectable syn)) s = .next s' ∧ goes s' ∧ s'.mem = s.mem
            ∧ ∃ w, w < 8 ∧ codeWord (calAddr t (64 * pos) + 8 * w) ∈ s'.badWords)))
    ∧ (∀ n k, n < 12 → k < hbmBytes / 64 → (getSlice s n).trained = true → (getSlice s n).bad = false →
      let a := n * hbmBytes + 64 * k
      exec (.hbmScrub n k .clean) s = .next s
      ∧ (∀ syn, ∃ s', exec (.hbmScrub n k (.corrected syn)) s = .next s' ∧ s'.mem = s.mem ∧ s'.badWords = s.badWords
          ∧ counted s' 3 n (· = a) syn ∧ now s ∈ (getSlice s' n).corrected)
      ∧ (∀ syn, ∃ s', exec (.hbmScrub n k (.uncorrectable syn)) s = .next s'
          ∧ (s.errors = [] → tablesAt s a = none → codeWord a ∈ s'.badWords ∧ s'.mem = s.mem)
          ∧ (∀ p, tablesAt s a = some p → p < 12 → (getPart s p).state ≠ .none → (getPart s' p).state = .faulted)))
    ∧ (∀ k u c, s.corr.find? (fun c => c.utype = k && c.unit = u) = some c → tyraxUp s = true →
      (c.count = 0 ∨ (∃ t, c.lastPost = some t ∧ now s < t + 1000000000) → exec (.correctedReport k u) s = .next s)
      ∧ (0 < c.count → (∀ t, c.lastPost = some t → t + 1000000000 ≤ now s) →
        ∃ s', exec (.correctedReport k u) s = .next s' ∧ s'.tiles = s.tiles ∧ s'.mem = s.mem
          ∧ s'.corr.find? (fun c => c.utype = k && c.unit = u) = some { c with count := 0, lastPost := some (now s) }))
end

