-- ==== Sys2Proof/Laws/Sparse.lean ====
section
/-! SUPPORT. Laws of sparse maps and tables: canonical form kept, and what a read gives after a write. -/

namespace Sys2Proof.Machine

section
variable {α : Type} [DecidableEq α] {d : α}

theorem sWf_nil : sWf d ([] : Sparse α) := by simp [sWf]

theorem sWf_cons {k : Nat} {v : α} {r : Sparse α} :
    sWf d ((k, v) :: r) ↔ (∀ e ∈ r, k < e.1) ∧ v ≠ d ∧ sWf d r := by
  simp only [sWf, List.map_cons, List.pairwise_cons, List.mem_map, List.mem_cons, forall_eq_or_imp]
  constructor
  · rintro ⟨⟨h1, h2⟩, h3, h4⟩
    exact ⟨fun e he => h1 e.1 ⟨e, he, rfl⟩, h3, h2, h4⟩
  · rintro ⟨h1, h2, h3, h4⟩
    exact ⟨⟨by rintro a ⟨e, he, rfl⟩; exact h1 e he, h3⟩, h2, h4⟩

theorem sPut_keys {l : Sparse α} {k : Nat} {v : α} {e : Nat × α} (h : e ∈ sPut d l k v) : e.1 = k ∨ e ∈ l := by
  induction l with
  | nil =>
    simp only [sPut] at h
    split at h <;> simp_all
  | cons x r ih =>
    obtain ⟨k', v'⟩ := x
    simp only [sPut] at h
    split at h
    · split at h
      · exact .inr h
      · rcases List.mem_cons.1 h with rfl | h
        · exact .inl rfl
        · exact .inr h
    · split at h
      · split at h
        · exact .inr (List.mem_cons_of_mem _ h)
        · rcases List.mem_cons.1 h with rfl | h
          · exact .inl rfl
          · exact .inr (List.mem_cons_of_mem _ h)
      · rcases List.mem_cons.1 h with rfl | h
        · exact .inr (by simp)
        · rcases ih h with h | h
          · exact .inl h
          · exact .inr (List.mem_cons_of_mem _ h)

theorem sWf_sPut {l : Sparse α} (h : sWf d l) (k : Nat) (v : α) : sWf d (sPut d l k v) := by
  induction l with
  | nil =>
    simp only [sPut]
    split
    · exact sWf_nil
    · exact sWf_cons.2 ⟨by simp, by assumption, sWf_nil⟩
  | cons x r ih =>
    obtain ⟨k', v'⟩ := x
    obtain ⟨h1, h2, h3⟩ := sWf_cons.1 h
    simp only [sPut]
    split
    · split
      · exact h
      · refine sWf_cons.2 ⟨?_, by assumption, h⟩
        intro e he
        rcases List.mem_cons.1 he with rfl | he
        · assumption
        · have := h1 e he; omega
    · split
      · split
        · exact h3
        · subst k
          exact sWf_cons.2 ⟨h1, by assumption, h3⟩
      · refine sWf_cons.2 ⟨?_, h2, ih h3⟩
        intro e he
        rcases sPut_keys he with he | he
        · omega
        · exact h1 e he

theorem sWf_sPutAll {l : Sparse α} (h : sWf d l) (kvs : List (Nat × α)) : sWf d (sPutAll d l kvs) := by
  induction kvs generalizing l with
  | nil => exact h
  | cons x r ih => exact ih (sWf_sPut h _ _)

theorem sWf_filter {l : Sparse α} (h : sWf d l) (p : Nat × α → Bool) : sWf d (l.filter p) := by
  refine ⟨?_, fun e he => h.2 e (List.mem_filter.1 he).1⟩
  exact h.1.sublist ((List.filter_sublist).map _)

theorem sWf_sClear {l : Sparse α} (h : sWf d l) (a n : Nat) : sWf d (sClear l a n) := sWf_filter h _

omit [DecidableEq α] in
theorem sGet_of_lt {l : Sparse α} {k : Nat} (h : ∀ e ∈ l, k < e.1) : sGet d l k = d := by
  induction l with
  | nil => rfl
  | cons x r ih =>
    obtain ⟨k', v'⟩ := x
    have := h (k', v') (by simp)
    simp only [sGet]
    rw [if_neg (by simp at this; omega)]
    exact ih (fun e he => h e (List.mem_cons_of_mem _ he))

/-- A read of a written key gives the value written. -/
theorem sGet_sPut_self {l : Sparse α} (h : sWf d l) (k : Nat) (v : α) : sGet d (sPut d l k v) k = v := by
  induction l with
  | nil => simp only [sPut]; split <;> simp_all [sGet]
  | cons x r ih =>
    obtain ⟨k', v'⟩ := x
    obtain ⟨h1, _, h3⟩ := sWf_cons.1 h
    simp only [sPut]
    split
    · split
      · subst v
        refine sGet_of_lt (fun e he => ?_)
        rcases List.mem_cons.1 he with rfl | he
        · assumption
        · have := h1 e he; omega
      · simp [sGet]
    · split
      · split
        · subst v; subst k; exact sGet_of_lt h1
        · simp [sGet]
      · simp only [sGet]
        rw [if_neg (by omega)]
        exact ih h3

/-- A read of another key is as before. -/
theorem sGet_sPut_ne (l : Sparse α) {k j : Nat} (v : α) (hne : j ≠ k) : sGet d (sPut d l k v) j = sGet d l j := by
  induction l with
  | nil => simp only [sPut]; split <;> simp [sGet]; intro h; exact absurd h hne
  | cons x r ih =>
    obtain ⟨k', v'⟩ := x
    simp only [sPut]
    split
    · split
      · rfl
      · simp only [sGet]; rw [if_neg hne]
    · split
      · split
        · subst k; simp only [sGet]; rw [if_neg hne]
        · subst k; simp only [sGet]; rw [if_neg hne, if_neg hne]
      · simp only [sGet]; rw [ih]

/-- A key that no write names reads as before. -/
theorem sGet_sPutAll_ne (l : Sparse α) {j : Nat} (kvs : List (Nat × α)) (h : ∀ e ∈ kvs, e.1 ≠ j) :
    sGet d (sPutAll d l kvs) j = sGet d l j := by
  induction kvs generalizing l with
  | nil => rfl
  | cons x r ih =>
    show sGet d (sPutAll d (sPut d l x.1 x.2) r) j = _
    rw [ih _ (fun e he => h e (List.mem_cons_of_mem _ he)), sGet_sPut_ne _ _ (h x (by simp)).symm]

/-- Of writes to different keys, each key reads as written. -/
theorem sGet_sPutAll_mem {l : Sparse α} (hl : sWf d l) {kvs : List (Nat × α)} (hn : (kvs.map Prod.fst).Nodup) {k : Nat} {v : α}
    (h : (k, v) ∈ kvs) : sGet d (sPutAll d l kvs) k = v := by
  induction kvs generalizing l with
  | nil => simp at h
  | cons x r ih =>
    show sGet d (sPutAll d (sPut d l x.1 x.2) r) k = v
    simp only [List.map_cons, List.nodup_cons] at hn
    rcases List.mem_cons.1 h with rfl | h
    · rw [sGet_sPutAll_ne]
      · exact sGet_sPut_self hl _ _
      · intro e he hk
        exact hn.1 (List.mem_map.2 ⟨e, he, hk⟩)
    · exact ih (sWf_sPut hl _ _) hn.2 h

end

/-! ## Tables -/

section
variable {α : Type}

@[simp] theorem tGet_tPut_self (l : Tab α) (k : Nat) (v : α) : tGet (tPut l k v) k = some v := by
  induction l with
  | nil => simp [tPut, tGet]
  | cons x r ih =>
    simp only [tPut]
    split
    · simp [tGet]
    · split
      · simp [tGet]
      · simp only [tGet]; rw [if_neg (by omega)]; exact ih

theorem tGet_tPut_ne (l : Tab α) {k j : Nat} (v : α) (h : j ≠ k) : tGet (tPut l k v) j = tGet l j := by
  induction l with
  | nil => simp [tPut, tGet, h]
  | cons x r ih =>
    simp only [tPut]
    split
    · simp only [tGet]; rw [if_neg h]
    · split
      · subst k; simp only [tGet]; rw [if_neg h, if_neg h]
      · simp only [tGet]; rw [ih]

@[simp] theorem tGet_tDel_self (l : Tab α) (k : Nat) : tGet (tDel l k) k = none := by
  induction l with
  | nil => rfl
  | cons x r ih =>
    unfold tDel at ih ⊢
    by_cases h : x.1 = k
    · simp [h] at ih ⊢; exact ih
    · simp only [List.filter_cons, ne_eq, h, not_false_eq_true, decide_true, if_true, tGet]
      rw [if_neg (fun e => h e.symm)]; exact ih

theorem tGet_tDel_ne (l : Tab α) {k j : Nat} (h : j ≠ k) : tGet (tDel l k) j = tGet l j := by
  induction l with
  | nil => rfl
  | cons x r ih =>
    unfold tDel at ih ⊢
    by_cases hk : x.1 = k
    · simp only [List.filter_cons, hk, ne_eq, not_true_eq_false, decide_false]
      simp only [Bool.false_eq_true, if_false, tGet]
      rw [ih, if_neg (by omega)]
    · simp only [List.filter_cons, ne_eq, hk, not_false_eq_true, decide_true, if_true, tGet]
      rw [ih]

@[simp] theorem tGet_tMod_self (l : Tab α) (k : Nat) (f : α → α) : tGet (tMod l k f) k = (tGet l k).map f := by
  induction l with
  | nil => rfl
  | cons x r ih =>
    simp only [tMod, List.map_cons] at ih ⊢
    by_cases h : x.1 = k
    · simp [h, tGet]
    · rw [if_neg h]; simp only [tGet]; rw [if_neg (fun e => h e.symm), if_neg (fun e => h e.symm)]; exact ih

theorem tGet_tMod_ne (l : Tab α) {k j : Nat} (f : α → α) (h : j ≠ k) : tGet (tMod l k f) j = tGet l j := by
  induction l with
  | nil => rfl
  | cons x r ih =>
    simp only [tMod, List.map_cons] at ih ⊢
    by_cases hk : x.1 = k
    · rw [if_pos hk]; simp only [tGet]; rw [if_neg (by omega), if_neg (by omega)]; exact ih
    · rw [if_neg hk]; simp only [tGet]; rw [ih]

end

end Sys2Proof.Machine
end

