-- ==== Sys2Proof/Laws/State.lean ====
section
/-! SUPPORT. What each update of the state leaves alone: one lemma for each field of each update, and the reads of a unit after
its update. -/

namespace Sys2Proof.Machine

/-! ## setTile -/

@[simp] theorem setTile_pending (s : State) (t : Nat) (f : Tile → Tile) : (setTile s t f).pending = s.pending := rfl
@[simp] theorem setTile_time (s : State) (t : Nat) (f : Tile → Tile) : (setTile s t f).time = s.time := rfl
@[simp] theorem setTile_link (s : State) (t : Nat) (f : Tile → Tile) : (setTile s t f).link = s.link := rfl
@[simp] theorem setTile_cache (s : State) (t : Nat) (f : Tile → Tile) : (setTile s t f).cache = s.cache := rfl
@[simp] theorem setTile_mem (s : State) (t : Nat) (f : Tile → Tile) : (setTile s t f).mem = s.mem := rfl
@[simp] theorem setTile_host (s : State) (t : Nat) (f : Tile → Tile) : (setTile s t f).host = s.host := rfl
@[simp] theorem setTile_badWords (s : State) (t : Nat) (f : Tile → Tile) : (setTile s t f).badWords = s.badWords := rfl
@[simp] theorem setTile_funcs (s : State) (t : Nat) (f : Tile → Tile) : (setTile s t f).funcs = s.funcs := rfl
@[simp] theorem setTile_scopes (s : State) (t : Nat) (f : Tile → Tile) : (setTile s t f).scopes = s.scopes := rfl
@[simp] theorem setTile_parts (s : State) (t : Nat) (f : Tile → Tile) : (setTile s t f).parts = s.parts := rfl
@[simp] theorem setTile_jobs (s : State) (t : Nat) (f : Tile → Tile) : (setTile s t f).jobs = s.jobs := rfl
@[simp] theorem setTile_tasks (s : State) (t : Nat) (f : Tile → Tile) : (setTile s t f).tasks = s.tasks := rfl
@[simp] theorem setTile_geys (s : State) (t : Nat) (f : Tile → Tile) : (setTile s t f).geys = s.geys := rfl
@[simp] theorem setTile_slices (s : State) (t : Nat) (f : Tile → Tile) : (setTile s t f).slices = s.slices := rfl
@[simp] theorem setTile_dies (s : State) (t : Nat) (f : Tile → Tile) : (setTile s t f).dies = s.dies := rfl
@[simp] theorem setTile_streams (s : State) (t : Nat) (f : Tile → Tile) : (setTile s t f).streams = s.streams := rfl
@[simp] theorem setTile_ports (s : State) (t : Nat) (f : Tile → Tile) : (setTile s t f).ports = s.ports := rfl
@[simp] theorem setTile_mgt (s : State) (t : Nat) (f : Tile → Tile) : (setTile s t f).mgt = s.mgt := rfl
@[simp] theorem setTile_fw (s : State) (t : Nat) (f : Tile → Tile) : (setTile s t f).fw = s.fw := rfl
@[simp] theorem setTile_log (s : State) (t : Nat) (f : Tile → Tile) : (setTile s t f).log = s.log := rfl
@[simp] theorem setTile_clk (s : State) (t : Nat) (f : Tile → Tile) : (setTile s t f).clk = s.clk := rfl
@[simp] theorem setTile_pwr (s : State) (t : Nat) (f : Tile → Tile) : (setTile s t f).pwr = s.pwr := rfl
@[simp] theorem setTile_sensors (s : State) (t : Nat) (f : Tile → Tile) : (setTile s t f).sensors = s.sensors := rfl
@[simp] theorem setTile_devQueue (s : State) (t : Nat) (f : Tile → Tile) : (setTile s t f).devQueue = s.devQueue := rfl
@[simp] theorem setTile_errors (s : State) (t : Nat) (f : Tile → Tile) : (setTile s t f).errors = s.errors := rfl
@[simp] theorem setTile_corr (s : State) (t : Nat) (f : Tile → Tile) : (setTile s t f).corr = s.corr := rfl
@[simp] theorem setTile_checks (s : State) (t : Nat) (f : Tile → Tile) : (setTile s t f).checks = s.checks := rfl
@[simp] theorem setTile_tests (s : State) (t : Nat) (f : Tile → Tile) : (setTile s t f).tests = s.tests := rfl
@[simp] theorem setTile_waiters (s : State) (t : Nat) (f : Tile → Tile) : (setTile s t f).waiters = s.waiters := rfl
@[simp] theorem setTile_nextTask (s : State) (t : Nat) (f : Tile → Tile) : (setTile s t f).nextTask = s.nextTask := rfl
@[simp] theorem setTile_moves (s : State) (t : Nat) (f : Tile → Tile) : (setTile s t f).moves = s.moves := rfl
@[simp] theorem setTile_fetchSeq (s : State) (t : Nat) (f : Tile → Tile) : (setTile s t f).fetchSeq = s.fetchSeq := rfl
@[simp] theorem setTile_heldWrites (s : State) (t : Nat) (f : Tile → Tile) : (setTile s t f).heldWrites = s.heldWrites := rfl
@[simp] theorem setTile_pfTags (s : State) (t : Nat) (f : Tile → Tile) : (setTile s t f).pfTags = s.pfTags := rfl
@[simp] theorem setTile_freeCtr (s : State) (t : Nat) (f : Tile → Tile) : (setTile s t f).freeCtr = s.freeCtr := rfl

/-! ## setPart -/

@[simp] theorem setPart_pending (s : State) (p : Nat) (f : Part → Part) : (setPart s p f).pending = s.pending := rfl
@[simp] theorem setPart_time (s : State) (p : Nat) (f : Part → Part) : (setPart s p f).time = s.time := rfl
@[simp] theorem setPart_link (s : State) (p : Nat) (f : Part → Part) : (setPart s p f).link = s.link := rfl
@[simp] theorem setPart_cache (s : State) (p : Nat) (f : Part → Part) : (setPart s p f).cache = s.cache := rfl
@[simp] theorem setPart_mem (s : State) (p : Nat) (f : Part → Part) : (setPart s p f).mem = s.mem := rfl
@[simp] theorem setPart_host (s : State) (p : Nat) (f : Part → Part) : (setPart s p f).host = s.host := rfl
@[simp] theorem setPart_badWords (s : State) (p : Nat) (f : Part → Part) : (setPart s p f).badWords = s.badWords := rfl
@[simp] theorem setPart_funcs (s : State) (p : Nat) (f : Part → Part) : (setPart s p f).funcs = s.funcs := rfl
@[simp] theorem setPart_scopes (s : State) (p : Nat) (f : Part → Part) : (setPart s p f).scopes = s.scopes := rfl
@[simp] theorem setPart_jobs (s : State) (p : Nat) (f : Part → Part) : (setPart s p f).jobs = s.jobs := rfl
@[simp] theorem setPart_tasks (s : State) (p : Nat) (f : Part → Part) : (setPart s p f).tasks = s.tasks := rfl
@[simp] theorem setPart_tiles (s : State) (p : Nat) (f : Part → Part) : (setPart s p f).tiles = s.tiles := rfl
@[simp] theorem setPart_geys (s : State) (p : Nat) (f : Part → Part) : (setPart s p f).geys = s.geys := rfl
@[simp] theorem setPart_slices (s : State) (p : Nat) (f : Part → Part) : (setPart s p f).slices = s.slices := rfl
@[simp] theorem setPart_dies (s : State) (p : Nat) (f : Part → Part) : (setPart s p f).dies = s.dies := rfl
@[simp] theorem setPart_streams (s : State) (p : Nat) (f : Part → Part) : (setPart s p f).streams = s.streams := rfl
@[simp] theorem setPart_ports (s : State) (p : Nat) (f : Part → Part) : (setPart s p f).ports = s.ports := rfl
@[simp] theorem setPart_mgt (s : State) (p : Nat) (f : Part → Part) : (setPart s p f).mgt = s.mgt := rfl
@[simp] theorem setPart_fw (s : State) (p : Nat) (f : Part → Part) : (setPart s p f).fw = s.fw := rfl
@[simp] theorem setPart_log (s : State) (p : Nat) (f : Part → Part) : (setPart s p f).log = s.log := rfl
@[simp] theorem setPart_clk (s : State) (p : Nat) (f : Part → Part) : (setPart s p f).clk = s.clk := rfl
@[simp] theorem setPart_pwr (s : State) (p : Nat) (f : Part → Part) : (setPart s p f).pwr = s.pwr := rfl
@[simp] theorem setPart_sensors (s : State) (p : Nat) (f : Part → Part) : (setPart s p f).sensors = s.sensors := rfl
@[simp] theorem setPart_devQueue (s : State) (p : Nat) (f : Part → Part) : (setPart s p f).devQueue = s.devQueue := rfl
@[simp] theorem setPart_errors (s : State) (p : Nat) (f : Part → Part) : (setPart s p f).errors = s.errors := rfl
@[simp] theorem setPart_corr (s : State) (p : Nat) (f : Part → Part) : (setPart s p f).corr = s.corr := rfl
@[simp] theorem setPart_checks (s : State) (p : Nat) (f : Part → Part) : (setPart s p f).checks = s.checks := rfl
@[simp] theorem setPart_tests (s : State) (p : Nat) (f : Part → Part) : (setPart s p f).tests = s.tests := rfl
@[simp] theorem setPart_waiters (s : State) (p : Nat) (f : Part → Part) : (setPart s p f).waiters = s.waiters := rfl
@[simp] theorem setPart_nextTask (s : State) (p : Nat) (f : Part → Part) : (setPart s p f).nextTask = s.nextTask := rfl
@[simp] theorem setPart_moves (s : State) (p : Nat) (f : Part → Part) : (setPart s p f).moves = s.moves := rfl
@[simp] theorem setPart_fetchSeq (s : State) (p : Nat) (f : Part → Part) : (setPart s p f).fetchSeq = s.fetchSeq := rfl
@[simp] theorem setPart_heldWrites (s : State) (p : Nat) (f : Part → Part) : (setPart s p f).heldWrites = s.heldWrites := rfl
@[simp] theorem setPart_pfTags (s : State) (p : Nat) (f : Part → Part) : (setPart s p f).pfTags = s.pfTags := rfl
@[simp] theorem setPart_freeCtr (s : State) (p : Nat) (f : Part → Part) : (setPart s p f).freeCtr = s.freeCtr := rfl

/-! ## setFunc -/

@[simp] theorem setFunc_pending (s : State) (n : Nat) (f : Func → Func) : (setFunc s n f).pending = s.pending := rfl
@[simp] theorem setFunc_time (s : State) (n : Nat) (f : Func → Func) : (setFunc s n f).time = s.time := rfl
@[simp] theorem setFunc_link (s : State) (n : Nat) (f : Func → Func) : (setFunc s n f).link = s.link := rfl
@[simp] theorem setFunc_cache (s : State) (n : Nat) (f : Func → Func) : (setFunc s n f).cache = s.cache := rfl
@[simp] theorem setFunc_mem (s : State) (n : Nat) (f : Func → Func) : (setFunc s n f).mem = s.mem := rfl
@[simp] theorem setFunc_host (s : State) (n : Nat) (f : Func → Func) : (setFunc s n f).host = s.host := rfl
@[simp] theorem setFunc_badWords (s : State) (n : Nat) (f : Func → Func) : (setFunc s n f).badWords = s.badWords := rfl
@[simp] theorem setFunc_scopes (s : State) (n : Nat) (f : Func → Func) : (setFunc s n f).scopes = s.scopes := rfl
@[simp] theorem setFunc_parts (s : State) (n : Nat) (f : Func → Func) : (setFunc s n f).parts = s.parts := rfl
@[simp] theorem setFunc_jobs (s : State) (n : Nat) (f : Func → Func) : (setFunc s n f).jobs = s.jobs := rfl
@[simp] theorem setFunc_tasks (s : State) (n : Nat) (f : Func → Func) : (setFunc s n f).tasks = s.tasks := rfl
@[simp] theorem setFunc_tiles (s : State) (n : Nat) (f : Func → Func) : (setFunc s n f).tiles = s.tiles := rfl
@[simp] theorem setFunc_geys (s : State) (n : Nat) (f : Func → Func) : (setFunc s n f).geys = s.geys := rfl
@[simp] theorem setFunc_slices (s : State) (n : Nat) (f : Func → Func) : (setFunc s n f).slices = s.slices := rfl
@[simp] theorem setFunc_dies (s : State) (n : Nat) (f : Func → Func) : (setFunc s n f).dies = s.dies := rfl
@[simp] theorem setFunc_streams (s : State) (n : Nat) (f : Func → Func) : (setFunc s n f).streams = s.streams := rfl
@[simp] theorem setFunc_ports (s : State) (n : Nat) (f : Func → Func) : (setFunc s n f).ports = s.ports := rfl
@[simp] theorem setFunc_mgt (s : State) (n : Nat) (f : Func → Func) : (setFunc s n f).mgt = s.mgt := rfl
@[simp] theorem setFunc_fw (s : State) (n : Nat) (f : Func → Func) : (setFunc s n f).fw = s.fw := rfl
@[simp] theorem setFunc_log (s : State) (n : Nat) (f : Func → Func) : (setFunc s n f).log = s.log := rfl
@[simp] theorem setFunc_clk (s : State) (n : Nat) (f : Func → Func) : (setFunc s n f).clk = s.clk := rfl
@[simp] theorem setFunc_pwr (s : State) (n : Nat) (f : Func → Func) : (setFunc s n f).pwr = s.pwr := rfl
@[simp] theorem setFunc_sensors (s : State) (n : Nat) (f : Func → Func) : (setFunc s n f).sensors = s.sensors := rfl
@[simp] theorem setFunc_devQueue (s : State) (n : Nat) (f : Func → Func) : (setFunc s n f).devQueue = s.devQueue := rfl
@[simp] theorem setFunc_errors (s : State) (n : Nat) (f : Func → Func) : (setFunc s n f).errors = s.errors := rfl
@[simp] theorem setFunc_corr (s : State) (n : Nat) (f : Func → Func) : (setFunc s n f).corr = s.corr := rfl
@[simp] theorem setFunc_checks (s : State) (n : Nat) (f : Func → Func) : (setFunc s n f).checks = s.checks := rfl
@[simp] theorem setFunc_tests (s : State) (n : Nat) (f : Func → Func) : (setFunc s n f).tests = s.tests := rfl
@[simp] theorem setFunc_waiters (s : State) (n : Nat) (f : Func → Func) : (setFunc s n f).waiters = s.waiters := rfl
@[simp] theorem setFunc_nextTask (s : State) (n : Nat) (f : Func → Func) : (setFunc s n f).nextTask = s.nextTask := rfl
@[simp] theorem setFunc_moves (s : State) (n : Nat) (f : Func → Func) : (setFunc s n f).moves = s.moves := rfl
@[simp] theorem setFunc_fetchSeq (s : State) (n : Nat) (f : Func → Func) : (setFunc s n f).fetchSeq = s.fetchSeq := rfl
@[simp] theorem setFunc_heldWrites (s : State) (n : Nat) (f : Func → Func) : (setFunc s n f).heldWrites = s.heldWrites := rfl
@[simp] theorem setFunc_pfTags (s : State) (n : Nat) (f : Func → Func) : (setFunc s n f).pfTags = s.pfTags := rfl
@[simp] theorem setFunc_freeCtr (s : State) (n : Nat) (f : Func → Func) : (setFunc s n f).freeCtr = s.freeCtr := rfl

/-! ## setGey -/

@[simp] theorem setGey_pending (s : State) (c : Nat) (f : Gey → Gey) : (setGey s c f).pending = s.pending := rfl
@[simp] theorem setGey_time (s : State) (c : Nat) (f : Gey → Gey) : (setGey s c f).time = s.time := rfl
@[simp] theorem setGey_link (s : State) (c : Nat) (f : Gey → Gey) : (setGey s c f).link = s.link := rfl
@[simp] theorem setGey_cache (s : State) (c : Nat) (f : Gey → Gey) : (setGey s c f).cache = s.cache := rfl
@[simp] theorem setGey_mem (s : State) (c : Nat) (f : Gey → Gey) : (setGey s c f).mem = s.mem := rfl
@[simp] theorem setGey_host (s : State) (c : Nat) (f : Gey → Gey) : (setGey s c f).host = s.host := rfl
@[simp] theorem setGey_badWords (s : State) (c : Nat) (f : Gey → Gey) : (setGey s c f).badWords = s.badWords := rfl
@[simp] theorem setGey_funcs (s : State) (c : Nat) (f : Gey → Gey) : (setGey s c f).funcs = s.funcs := rfl
@[simp] theorem setGey_scopes (s : State) (c : Nat) (f : Gey → Gey) : (setGey s c f).scopes = s.scopes := rfl
@[simp] theorem setGey_parts (s : State) (c : Nat) (f : Gey → Gey) : (setGey s c f).parts = s.parts := rfl
@[simp] theorem setGey_jobs (s : State) (c : Nat) (f : Gey → Gey) : (setGey s c f).jobs = s.jobs := rfl
@[simp] theorem setGey_tasks (s : State) (c : Nat) (f : Gey → Gey) : (setGey s c f).tasks = s.tasks := rfl
@[simp] theorem setGey_tiles (s : State) (c : Nat) (f : Gey → Gey) : (setGey s c f).tiles = s.tiles := rfl
@[simp] theorem setGey_slices (s : State) (c : Nat) (f : Gey → Gey) : (setGey s c f).slices = s.slices := rfl
@[simp] theorem setGey_dies (s : State) (c : Nat) (f : Gey → Gey) : (setGey s c f).dies = s.dies := rfl
@[simp] theorem setGey_streams (s : State) (c : Nat) (f : Gey → Gey) : (setGey s c f).streams = s.streams := rfl
@[simp] theorem setGey_ports (s : State) (c : Nat) (f : Gey → Gey) : (setGey s c f).ports = s.ports := rfl
@[simp] theorem setGey_mgt (s : State) (c : Nat) (f : Gey → Gey) : (setGey s c f).mgt = s.mgt := rfl
@[simp] theorem setGey_fw (s : State) (c : Nat) (f : Gey → Gey) : (setGey s c f).fw = s.fw := rfl
@[simp] theorem setGey_log (s : State) (c : Nat) (f : Gey → Gey) : (setGey s c f).log = s.log := rfl
@[simp] theorem setGey_clk (s : State) (c : Nat) (f : Gey → Gey) : (setGey s c f).clk = s.clk := rfl
@[simp] theorem setGey_pwr (s : State) (c : Nat) (f : Gey → Gey) : (setGey s c f).pwr = s.pwr := rfl
@[simp] theorem setGey_sensors (s : State) (c : Nat) (f : Gey → Gey) : (setGey s c f).sensors = s.sensors := rfl
@[simp] theorem setGey_devQueue (s : State) (c : Nat) (f : Gey → Gey) : (setGey s c f).devQueue = s.devQueue := rfl
@[simp] theorem setGey_errors (s : State) (c : Nat) (f : Gey → Gey) : (setGey s c f).errors = s.errors := rfl
@[simp] theorem setGey_corr (s : State) (c : Nat) (f : Gey → Gey) : (setGey s c f).corr = s.corr := rfl
@[simp] theorem setGey_checks (s : State) (c : Nat) (f : Gey → Gey) : (setGey s c f).checks = s.checks := rfl
@[simp] theorem setGey_tests (s : State) (c : Nat) (f : Gey → Gey) : (setGey s c f).tests = s.tests := rfl
@[simp] theorem setGey_waiters (s : State) (c : Nat) (f : Gey → Gey) : (setGey s c f).waiters = s.waiters := rfl
@[simp] theorem setGey_nextTask (s : State) (c : Nat) (f : Gey → Gey) : (setGey s c f).nextTask = s.nextTask := rfl
@[simp] theorem setGey_moves (s : State) (c : Nat) (f : Gey → Gey) : (setGey s c f).moves = s.moves := rfl
@[simp] theorem setGey_fetchSeq (s : State) (c : Nat) (f : Gey → Gey) : (setGey s c f).fetchSeq = s.fetchSeq := rfl
@[simp] theorem setGey_heldWrites (s : State) (c : Nat) (f : Gey → Gey) : (setGey s c f).heldWrites = s.heldWrites := rfl
@[simp] theorem setGey_pfTags (s : State) (c : Nat) (f : Gey → Gey) : (setGey s c f).pfTags = s.pfTags := rfl
@[simp] theorem setGey_freeCtr (s : State) (c : Nat) (f : Gey → Gey) : (setGey s c f).freeCtr = s.freeCtr := rfl

/-! ## setSlice -/

@[simp] theorem setSlice_pending (s : State) (n : Nat) (f : Slice → Slice) : (setSlice s n f).pending = s.pending := rfl
@[simp] theorem setSlice_time (s : State) (n : Nat) (f : Slice → Slice) : (setSlice s n f).time = s.time := rfl
@[simp] theorem setSlice_link (s : State) (n : Nat) (f : Slice → Slice) : (setSlice s n f).link = s.link := rfl
@[simp] theorem setSlice_cache (s : State) (n : Nat) (f : Slice → Slice) : (setSlice s n f).cache = s.cache := rfl
@[simp] theorem setSlice_mem (s : State) (n : Nat) (f : Slice → Slice) : (setSlice s n f).mem = s.mem := rfl
@[simp] theorem setSlice_host (s : State) (n : Nat) (f : Slice → Slice) : (setSlice s n f).host = s.host := rfl
@[simp] theorem setSlice_badWords (s : State) (n : Nat) (f : Slice → Slice) : (setSlice s n f).badWords = s.badWords := rfl
@[simp] theorem setSlice_funcs (s : State) (n : Nat) (f : Slice → Slice) : (setSlice s n f).funcs = s.funcs := rfl
@[simp] theorem setSlice_scopes (s : State) (n : Nat) (f : Slice → Slice) : (setSlice s n f).scopes = s.scopes := rfl
@[simp] theorem setSlice_parts (s : State) (n : Nat) (f : Slice → Slice) : (setSlice s n f).parts = s.parts := rfl
@[simp] theorem setSlice_jobs (s : State) (n : Nat) (f : Slice → Slice) : (setSlice s n f).jobs = s.jobs := rfl
@[simp] theorem setSlice_tasks (s : State) (n : Nat) (f : Slice → Slice) : (setSlice s n f).tasks = s.tasks := rfl
@[simp] theorem setSlice_tiles (s : State) (n : Nat) (f : Slice → Slice) : (setSlice s n f).tiles = s.tiles := rfl
@[simp] theorem setSlice_geys (s : State) (n : Nat) (f : Slice → Slice) : (setSlice s n f).geys = s.geys := rfl
@[simp] theorem setSlice_dies (s : State) (n : Nat) (f : Slice → Slice) : (setSlice s n f).dies = s.dies := rfl
@[simp] theorem setSlice_streams (s : State) (n : Nat) (f : Slice → Slice) : (setSlice s n f).streams = s.streams := rfl
@[simp] theorem setSlice_ports (s : State) (n : Nat) (f : Slice → Slice) : (setSlice s n f).ports = s.ports := rfl
@[simp] theorem setSlice_mgt (s : State) (n : Nat) (f : Slice → Slice) : (setSlice s n f).mgt = s.mgt := rfl
@[simp] theorem setSlice_fw (s : State) (n : Nat) (f : Slice → Slice) : (setSlice s n f).fw = s.fw := rfl
@[simp] theorem setSlice_log (s : State) (n : Nat) (f : Slice → Slice) : (setSlice s n f).log = s.log := rfl
@[simp] theorem setSlice_clk (s : State) (n : Nat) (f : Slice → Slice) : (setSlice s n f).clk = s.clk := rfl
@[simp] theorem setSlice_pwr (s : State) (n : Nat) (f : Slice → Slice) : (setSlice s n f).pwr = s.pwr := rfl
@[simp] theorem setSlice_sensors (s : State) (n : Nat) (f : Slice → Slice) : (setSlice s n f).sensors = s.sensors := rfl
@[simp] theorem setSlice_devQueue (s : State) (n : Nat) (f : Slice → Slice) : (setSlice s n f).devQueue = s.devQueue := rfl
@[simp] theorem setSlice_errors (s : State) (n : Nat) (f : Slice → Slice) : (setSlice s n f).errors = s.errors := rfl
@[simp] theorem setSlice_corr (s : State) (n : Nat) (f : Slice → Slice) : (setSlice s n f).corr = s.corr := rfl
@[simp] theorem setSlice_checks (s : State) (n : Nat) (f : Slice → Slice) : (setSlice s n f).checks = s.checks := rfl
@[simp] theorem setSlice_tests (s : State) (n : Nat) (f : Slice → Slice) : (setSlice s n f).tests = s.tests := rfl
@[simp] theorem setSlice_waiters (s : State) (n : Nat) (f : Slice → Slice) : (setSlice s n f).waiters = s.waiters := rfl
@[simp] theorem setSlice_nextTask (s : State) (n : Nat) (f : Slice → Slice) : (setSlice s n f).nextTask = s.nextTask := rfl
@[simp] theorem setSlice_moves (s : State) (n : Nat) (f : Slice → Slice) : (setSlice s n f).moves = s.moves := rfl
@[simp] theorem setSlice_fetchSeq (s : State) (n : Nat) (f : Slice → Slice) : (setSlice s n f).fetchSeq = s.fetchSeq := rfl
@[simp] theorem setSlice_heldWrites (s : State) (n : Nat) (f : Slice → Slice) : (setSlice s n f).heldWrites = s.heldWrites := rfl
@[simp] theorem setSlice_pfTags (s : State) (n : Nat) (f : Slice → Slice) : (setSlice s n f).pfTags = s.pfTags := rfl
@[simp] theorem setSlice_freeCtr (s : State) (n : Nat) (f : Slice → Slice) : (setSlice s n f).freeCtr = s.freeCtr := rfl

/-! ## setDie -/

@[simp] theorem setDie_pending (s : State) (d : Nat) (f : Die → Die) : (setDie s d f).pending = s.pending := rfl
@[simp] theorem setDie_time (s : State) (d : Nat) (f : Die → Die) : (setDie s d f).time = s.time := rfl
@[simp] theorem setDie_link (s : State) (d : Nat) (f : Die → Die) : (setDie s d f).link = s.link := rfl
@[simp] theorem setDie_cache (s : State) (d : Nat) (f : Die → Die) : (setDie s d f).cache = s.cache := rfl
@[simp] theorem setDie_mem (s : State) (d : Nat) (f : Die → Die) : (setDie s d f).mem = s.mem := rfl
@[simp] theorem setDie_host (s : State) (d : Nat) (f : Die → Die) : (setDie s d f).host = s.host := rfl
@[simp] theorem setDie_badWords (s : State) (d : Nat) (f : Die → Die) : (setDie s d f).badWords = s.badWords := rfl
@[simp] theorem setDie_funcs (s : State) (d : Nat) (f : Die → Die) : (setDie s d f).funcs = s.funcs := rfl
@[simp] theorem setDie_scopes (s : State) (d : Nat) (f : Die → Die) : (setDie s d f).scopes = s.scopes := rfl
@[simp] theorem setDie_parts (s : State) (d : Nat) (f : Die → Die) : (setDie s d f).parts = s.parts := rfl
@[simp] theorem setDie_jobs (s : State) (d : Nat) (f : Die → Die) : (setDie s d f).jobs = s.jobs := rfl
@[simp] theorem setDie_tasks (s : State) (d : Nat) (f : Die → Die) : (setDie s d f).tasks = s.tasks := rfl
@[simp] theorem setDie_tiles (s : State) (d : Nat) (f : Die → Die) : (setDie s d f).tiles = s.tiles := rfl
@[simp] theorem setDie_geys (s : State) (d : Nat) (f : Die → Die) : (setDie s d f).geys = s.geys := rfl
@[simp] theorem setDie_slices (s : State) (d : Nat) (f : Die → Die) : (setDie s d f).slices = s.slices := rfl
@[simp] theorem setDie_streams (s : State) (d : Nat) (f : Die → Die) : (setDie s d f).streams = s.streams := rfl
@[simp] theorem setDie_ports (s : State) (d : Nat) (f : Die → Die) : (setDie s d f).ports = s.ports := rfl
@[simp] theorem setDie_mgt (s : State) (d : Nat) (f : Die → Die) : (setDie s d f).mgt = s.mgt := rfl
@[simp] theorem setDie_fw (s : State) (d : Nat) (f : Die → Die) : (setDie s d f).fw = s.fw := rfl
@[simp] theorem setDie_log (s : State) (d : Nat) (f : Die → Die) : (setDie s d f).log = s.log := rfl
@[simp] theorem setDie_clk (s : State) (d : Nat) (f : Die → Die) : (setDie s d f).clk = s.clk := rfl
@[simp] theorem setDie_pwr (s : State) (d : Nat) (f : Die → Die) : (setDie s d f).pwr = s.pwr := rfl
@[simp] theorem setDie_sensors (s : State) (d : Nat) (f : Die → Die) : (setDie s d f).sensors = s.sensors := rfl
@[simp] theorem setDie_devQueue (s : State) (d : Nat) (f : Die → Die) : (setDie s d f).devQueue = s.devQueue := rfl
@[simp] theorem setDie_errors (s : State) (d : Nat) (f : Die → Die) : (setDie s d f).errors = s.errors := rfl
@[simp] theorem setDie_corr (s : State) (d : Nat) (f : Die → Die) : (setDie s d f).corr = s.corr := rfl
@[simp] theorem setDie_checks (s : State) (d : Nat) (f : Die → Die) : (setDie s d f).checks = s.checks := rfl
@[simp] theorem setDie_tests (s : State) (d : Nat) (f : Die → Die) : (setDie s d f).tests = s.tests := rfl
@[simp] theorem setDie_waiters (s : State) (d : Nat) (f : Die → Die) : (setDie s d f).waiters = s.waiters := rfl
@[simp] theorem setDie_nextTask (s : State) (d : Nat) (f : Die → Die) : (setDie s d f).nextTask = s.nextTask := rfl
@[simp] theorem setDie_moves (s : State) (d : Nat) (f : Die → Die) : (setDie s d f).moves = s.moves := rfl
@[simp] theorem setDie_fetchSeq (s : State) (d : Nat) (f : Die → Die) : (setDie s d f).fetchSeq = s.fetchSeq := rfl
@[simp] theorem setDie_heldWrites (s : State) (d : Nat) (f : Die → Die) : (setDie s d f).heldWrites = s.heldWrites := rfl
@[simp] theorem setDie_pfTags (s : State) (d : Nat) (f : Die → Die) : (setDie s d f).pfTags = s.pfTags := rfl
@[simp] theorem setDie_freeCtr (s : State) (d : Nat) (f : Die → Die) : (setDie s d f).freeCtr = s.freeCtr := rfl

/-! ## setPort -/

@[simp] theorem setPort_pending (s : State) (p : Nat) (f : Port → Port) : (setPort s p f).pending = s.pending := rfl
@[simp] theorem setPort_time (s : State) (p : Nat) (f : Port → Port) : (setPort s p f).time = s.time := rfl
@[simp] theorem setPort_link (s : State) (p : Nat) (f : Port → Port) : (setPort s p f).link = s.link := rfl
@[simp] theorem setPort_cache (s : State) (p : Nat) (f : Port → Port) : (setPort s p f).cache = s.cache := rfl
@[simp] theorem setPort_mem (s : State) (p : Nat) (f : Port → Port) : (setPort s p f).mem = s.mem := rfl
@[simp] theorem setPort_host (s : State) (p : Nat) (f : Port → Port) : (setPort s p f).host = s.host := rfl
@[simp] theorem setPort_badWords (s : State) (p : Nat) (f : Port → Port) : (setPort s p f).badWords = s.badWords := rfl
@[simp] theorem setPort_funcs (s : State) (p : Nat) (f : Port → Port) : (setPort s p f).funcs = s.funcs := rfl
@[simp] theorem setPort_scopes (s : State) (p : Nat) (f : Port → Port) : (setPort s p f).scopes = s.scopes := rfl
@[simp] theorem setPort_parts (s : State) (p : Nat) (f : Port → Port) : (setPort s p f).parts = s.parts := rfl
@[simp] theorem setPort_jobs (s : State) (p : Nat) (f : Port → Port) : (setPort s p f).jobs = s.jobs := rfl
@[simp] theorem setPort_tasks (s : State) (p : Nat) (f : Port → Port) : (setPort s p f).tasks = s.tasks := rfl
@[simp] theorem setPort_tiles (s : State) (p : Nat) (f : Port → Port) : (setPort s p f).tiles = s.tiles := rfl
@[simp] theorem setPort_geys (s : State) (p : Nat) (f : Port → Port) : (setPort s p f).geys = s.geys := rfl
@[simp] theorem setPort_slices (s : State) (p : Nat) (f : Port → Port) : (setPort s p f).slices = s.slices := rfl
@[simp] theorem setPort_dies (s : State) (p : Nat) (f : Port → Port) : (setPort s p f).dies = s.dies := rfl
@[simp] theorem setPort_streams (s : State) (p : Nat) (f : Port → Port) : (setPort s p f).streams = s.streams := rfl
@[simp] theorem setPort_mgt (s : State) (p : Nat) (f : Port → Port) : (setPort s p f).mgt = s.mgt := rfl
@[simp] theorem setPort_fw (s : State) (p : Nat) (f : Port → Port) : (setPort s p f).fw = s.fw := rfl
@[simp] theorem setPort_log (s : State) (p : Nat) (f : Port → Port) : (setPort s p f).log = s.log := rfl
@[simp] theorem setPort_clk (s : State) (p : Nat) (f : Port → Port) : (setPort s p f).clk = s.clk := rfl
@[simp] theorem setPort_pwr (s : State) (p : Nat) (f : Port → Port) : (setPort s p f).pwr = s.pwr := rfl
@[simp] theorem setPort_sensors (s : State) (p : Nat) (f : Port → Port) : (setPort s p f).sensors = s.sensors := rfl
@[simp] theorem setPort_devQueue (s : State) (p : Nat) (f : Port → Port) : (setPort s p f).devQueue = s.devQueue := rfl
@[simp] theorem setPort_errors (s : State) (p : Nat) (f : Port → Port) : (setPort s p f).errors = s.errors := rfl
@[simp] theorem setPort_corr (s : State) (p : Nat) (f : Port → Port) : (setPort s p f).corr = s.corr := rfl
@[simp] theorem setPort_checks (s : State) (p : Nat) (f : Port → Port) : (setPort s p f).checks = s.checks := rfl
@[simp] theorem setPort_tests (s : State) (p : Nat) (f : Port → Port) : (setPort s p f).tests = s.tests := rfl
@[simp] theorem setPort_waiters (s : State) (p : Nat) (f : Port → Port) : (setPort s p f).waiters = s.waiters := rfl
@[simp] theorem setPort_nextTask (s : State) (p : Nat) (f : Port → Port) : (setPort s p f).nextTask = s.nextTask := rfl
@[simp] theorem setPort_moves (s : State) (p : Nat) (f : Port → Port) : (setPort s p f).moves = s.moves := rfl
@[simp] theorem setPort_fetchSeq (s : State) (p : Nat) (f : Port → Port) : (setPort s p f).fetchSeq = s.fetchSeq := rfl
@[simp] theorem setPort_heldWrites (s : State) (p : Nat) (f : Port → Port) : (setPort s p f).heldWrites = s.heldWrites := rfl
@[simp] theorem setPort_pfTags (s : State) (p : Nat) (f : Port → Port) : (setPort s p f).pfTags = s.pfTags := rfl
@[simp] theorem setPort_freeCtr (s : State) (p : Nat) (f : Port → Port) : (setPort s p f).freeCtr = s.freeCtr := rfl

/-! ## setJob -/

@[simp] theorem setJob_pending (s : State) (j : Nat) (f : Job → Job) : (setJob s j f).pending = s.pending := rfl
@[simp] theorem setJob_time (s : State) (j : Nat) (f : Job → Job) : (setJob s j f).time = s.time := rfl
@[simp] theorem setJob_link (s : State) (j : Nat) (f : Job → Job) : (setJob s j f).link = s.link := rfl
@[simp] theorem setJob_cache (s : State) (j : Nat) (f : Job → Job) : (setJob s j f).cache = s.cache := rfl
@[simp] theorem setJob_mem (s : State) (j : Nat) (f : Job → Job) : (setJob s j f).mem = s.mem := rfl
@[simp] theorem setJob_host (s : State) (j : Nat) (f : Job → Job) : (setJob s j f).host = s.host := rfl
@[simp] theorem setJob_badWords (s : State) (j : Nat) (f : Job → Job) : (setJob s j f).badWords = s.badWords := rfl
@[simp] theorem setJob_funcs (s : State) (j : Nat) (f : Job → Job) : (setJob s j f).funcs = s.funcs := rfl
@[simp] theorem setJob_scopes (s : State) (j : Nat) (f : Job → Job) : (setJob s j f).scopes = s.scopes := rfl
@[simp] theorem setJob_parts (s : State) (j : Nat) (f : Job → Job) : (setJob s j f).parts = s.parts := rfl
@[simp] theorem setJob_tasks (s : State) (j : Nat) (f : Job → Job) : (setJob s j f).tasks = s.tasks := rfl
@[simp] theorem setJob_tiles (s : State) (j : Nat) (f : Job → Job) : (setJob s j f).tiles = s.tiles := rfl
@[simp] theorem setJob_geys (s : State) (j : Nat) (f : Job → Job) : (setJob s j f).geys = s.geys := rfl
@[simp] theorem setJob_slices (s : State) (j : Nat) (f : Job → Job) : (setJob s j f).slices = s.slices := rfl
@[simp] theorem setJob_dies (s : State) (j : Nat) (f : Job → Job) : (setJob s j f).dies = s.dies := rfl
@[simp] theorem setJob_streams (s : State) (j : Nat) (f : Job → Job) : (setJob s j f).streams = s.streams := rfl
@[simp] theorem setJob_ports (s : State) (j : Nat) (f : Job → Job) : (setJob s j f).ports = s.ports := rfl
@[simp] theorem setJob_mgt (s : State) (j : Nat) (f : Job → Job) : (setJob s j f).mgt = s.mgt := rfl
@[simp] theorem setJob_fw (s : State) (j : Nat) (f : Job → Job) : (setJob s j f).fw = s.fw := rfl
@[simp] theorem setJob_log (s : State) (j : Nat) (f : Job → Job) : (setJob s j f).log = s.log := rfl
@[simp] theorem setJob_clk (s : State) (j : Nat) (f : Job → Job) : (setJob s j f).clk = s.clk := rfl
@[simp] theorem setJob_pwr (s : State) (j : Nat) (f : Job → Job) : (setJob s j f).pwr = s.pwr := rfl
@[simp] theorem setJob_sensors (s : State) (j : Nat) (f : Job → Job) : (setJob s j f).sensors = s.sensors := rfl
@[simp] theorem setJob_devQueue (s : State) (j : Nat) (f : Job → Job) : (setJob s j f).devQueue = s.devQueue := rfl
@[simp] theorem setJob_errors (s : State) (j : Nat) (f : Job → Job) : (setJob s j f).errors = s.errors := rfl
@[simp] theorem setJob_corr (s : State) (j : Nat) (f : Job → Job) : (setJob s j f).corr = s.corr := rfl
@[simp] theorem setJob_checks (s : State) (j : Nat) (f : Job → Job) : (setJob s j f).checks = s.checks := rfl
@[simp] theorem setJob_tests (s : State) (j : Nat) (f : Job → Job) : (setJob s j f).tests = s.tests := rfl
@[simp] theorem setJob_waiters (s : State) (j : Nat) (f : Job → Job) : (setJob s j f).waiters = s.waiters := rfl
@[simp] theorem setJob_nextTask (s : State) (j : Nat) (f : Job → Job) : (setJob s j f).nextTask = s.nextTask := rfl
@[simp] theorem setJob_moves (s : State) (j : Nat) (f : Job → Job) : (setJob s j f).moves = s.moves := rfl
@[simp] theorem setJob_fetchSeq (s : State) (j : Nat) (f : Job → Job) : (setJob s j f).fetchSeq = s.fetchSeq := rfl
@[simp] theorem setJob_heldWrites (s : State) (j : Nat) (f : Job → Job) : (setJob s j f).heldWrites = s.heldWrites := rfl
@[simp] theorem setJob_pfTags (s : State) (j : Nat) (f : Job → Job) : (setJob s j f).pfTags = s.pfTags := rfl
@[simp] theorem setJob_freeCtr (s : State) (j : Nat) (f : Job → Job) : (setJob s j f).freeCtr = s.freeCtr := rfl

/-! ## setTask -/

@[simp] theorem setTask_pending (s : State) (k : Nat) (f : Task → Task) : (setTask s k f).pending = s.pending := rfl
@[simp] theorem setTask_time (s : State) (k : Nat) (f : Task → Task) : (setTask s k f).time = s.time := rfl
@[simp] theorem setTask_link (s : State) (k : Nat) (f : Task → Task) : (setTask s k f).link = s.link := rfl
@[simp] theorem setTask_cache (s : State) (k : Nat) (f : Task → Task) : (setTask s k f).cache = s.cache := rfl
@[simp] theorem setTask_mem (s : State) (k : Nat) (f : Task → Task) : (setTask s k f).mem = s.mem := rfl
@[simp] theorem setTask_host (s : State) (k : Nat) (f : Task → Task) : (setTask s k f).host = s.host := rfl
@[simp] theorem setTask_badWords (s : State) (k : Nat) (f : Task → Task) : (setTask s k f).badWords = s.badWords := rfl
@[simp] theorem setTask_funcs (s : State) (k : Nat) (f : Task → Task) : (setTask s k f).funcs = s.funcs := rfl
@[simp] theorem setTask_scopes (s : State) (k : Nat) (f : Task → Task) : (setTask s k f).scopes = s.scopes := rfl
@[simp] theorem setTask_parts (s : State) (k : Nat) (f : Task → Task) : (setTask s k f).parts = s.parts := rfl
@[simp] theorem setTask_jobs (s : State) (k : Nat) (f : Task → Task) : (setTask s k f).jobs = s.jobs := rfl
@[simp] theorem setTask_tiles (s : State) (k : Nat) (f : Task → Task) : (setTask s k f).tiles = s.tiles := rfl
@[simp] theorem setTask_geys (s : State) (k : Nat) (f : Task → Task) : (setTask s k f).geys = s.geys := rfl
@[simp] theorem setTask_slices (s : State) (k : Nat) (f : Task → Task) : (setTask s k f).slices = s.slices := rfl
@[simp] theorem setTask_dies (s : State) (k : Nat) (f : Task → Task) : (setTask s k f).dies = s.dies := rfl
@[simp] theorem setTask_streams (s : State) (k : Nat) (f : Task → Task) : (setTask s k f).streams = s.streams := rfl
@[simp] theorem setTask_ports (s : State) (k : Nat) (f : Task → Task) : (setTask s k f).ports = s.ports := rfl
@[simp] theorem setTask_mgt (s : State) (k : Nat) (f : Task → Task) : (setTask s k f).mgt = s.mgt := rfl
@[simp] theorem setTask_fw (s : State) (k : Nat) (f : Task → Task) : (setTask s k f).fw = s.fw := rfl
@[simp] theorem setTask_log (s : State) (k : Nat) (f : Task → Task) : (setTask s k f).log = s.log := rfl
@[simp] theorem setTask_clk (s : State) (k : Nat) (f : Task → Task) : (setTask s k f).clk = s.clk := rfl
@[simp] theorem setTask_pwr (s : State) (k : Nat) (f : Task → Task) : (setTask s k f).pwr = s.pwr := rfl
@[simp] theorem setTask_sensors (s : State) (k : Nat) (f : Task → Task) : (setTask s k f).sensors = s.sensors := rfl
@[simp] theorem setTask_devQueue (s : State) (k : Nat) (f : Task → Task) : (setTask s k f).devQueue = s.devQueue := rfl
@[simp] theorem setTask_errors (s : State) (k : Nat) (f : Task → Task) : (setTask s k f).errors = s.errors := rfl
@[simp] theorem setTask_corr (s : State) (k : Nat) (f : Task → Task) : (setTask s k f).corr = s.corr := rfl
@[simp] theorem setTask_checks (s : State) (k : Nat) (f : Task → Task) : (setTask s k f).checks = s.checks := rfl
@[simp] theorem setTask_tests (s : State) (k : Nat) (f : Task → Task) : (setTask s k f).tests = s.tests := rfl
@[simp] theorem setTask_waiters (s : State) (k : Nat) (f : Task → Task) : (setTask s k f).waiters = s.waiters := rfl
@[simp] theorem setTask_nextTask (s : State) (k : Nat) (f : Task → Task) : (setTask s k f).nextTask = s.nextTask := rfl
@[simp] theorem setTask_moves (s : State) (k : Nat) (f : Task → Task) : (setTask s k f).moves = s.moves := rfl
@[simp] theorem setTask_fetchSeq (s : State) (k : Nat) (f : Task → Task) : (setTask s k f).fetchSeq = s.fetchSeq := rfl
@[simp] theorem setTask_heldWrites (s : State) (k : Nat) (f : Task → Task) : (setTask s k f).heldWrites = s.heldWrites := rfl
@[simp] theorem setTask_pfTags (s : State) (k : Nat) (f : Task → Task) : (setTask s k f).pfTags = s.pfTags := rfl
@[simp] theorem setTask_freeCtr (s : State) (k : Nat) (f : Task → Task) : (setTask s k f).freeCtr = s.freeCtr := rfl

/-! ## setStream -/

@[simp] theorem setStream_pending (s : State) (i : Nat) (f : Stream → Stream) : (setStream s i f).pending = s.pending := rfl
@[simp] theorem setStream_time (s : State) (i : Nat) (f : Stream → Stream) : (setStream s i f).time = s.time := rfl
@[simp] theorem setStream_link (s : State) (i : Nat) (f : Stream → Stream) : (setStream s i f).link = s.link := rfl
@[simp] theorem setStream_cache (s : State) (i : Nat) (f : Stream → Stream) : (setStream s i f).cache = s.cache := rfl
@[simp] theorem setStream_mem (s : State) (i : Nat) (f : Stream → Stream) : (setStream s i f).mem = s.mem := rfl
@[simp] theorem setStream_host (s : State) (i : Nat) (f : Stream → Stream) : (setStream s i f).host = s.host := rfl
@[simp] theorem setStream_badWords (s : State) (i : Nat) (f : Stream → Stream) : (setStream s i f).badWords = s.badWords := rfl
@[simp] theorem setStream_funcs (s : State) (i : Nat) (f : Stream → Stream) : (setStream s i f).funcs = s.funcs := rfl
@[simp] theorem setStream_scopes (s : State) (i : Nat) (f : Stream → Stream) : (setStream s i f).scopes = s.scopes := rfl
@[simp] theorem setStream_parts (s : State) (i : Nat) (f : Stream → Stream) : (setStream s i f).parts = s.parts := rfl
@[simp] theorem setStream_jobs (s : State) (i : Nat) (f : Stream → Stream) : (setStream s i f).jobs = s.jobs := rfl
@[simp] theorem setStream_tasks (s : State) (i : Nat) (f : Stream → Stream) : (setStream s i f).tasks = s.tasks := rfl
@[simp] theorem setStream_tiles (s : State) (i : Nat) (f : Stream → Stream) : (setStream s i f).tiles = s.tiles := rfl
@[simp] theorem setStream_geys (s : State) (i : Nat) (f : Stream → Stream) : (setStream s i f).geys = s.geys := rfl
@[simp] theorem setStream_slices (s : State) (i : Nat) (f : Stream → Stream) : (setStream s i f).slices = s.slices := rfl
@[simp] theorem setStream_dies (s : State) (i : Nat) (f : Stream → Stream) : (setStream s i f).dies = s.dies := rfl
@[simp] theorem setStream_ports (s : State) (i : Nat) (f : Stream → Stream) : (setStream s i f).ports = s.ports := rfl
@[simp] theorem setStream_mgt (s : State) (i : Nat) (f : Stream → Stream) : (setStream s i f).mgt = s.mgt := rfl
@[simp] theorem setStream_fw (s : State) (i : Nat) (f : Stream → Stream) : (setStream s i f).fw = s.fw := rfl
@[simp] theorem setStream_log (s : State) (i : Nat) (f : Stream → Stream) : (setStream s i f).log = s.log := rfl
@[simp] theorem setStream_clk (s : State) (i : Nat) (f : Stream → Stream) : (setStream s i f).clk = s.clk := rfl
@[simp] theorem setStream_pwr (s : State) (i : Nat) (f : Stream → Stream) : (setStream s i f).pwr = s.pwr := rfl
@[simp] theorem setStream_sensors (s : State) (i : Nat) (f : Stream → Stream) : (setStream s i f).sensors = s.sensors := rfl
@[simp] theorem setStream_devQueue (s : State) (i : Nat) (f : Stream → Stream) : (setStream s i f).devQueue = s.devQueue := rfl
@[simp] theorem setStream_errors (s : State) (i : Nat) (f : Stream → Stream) : (setStream s i f).errors = s.errors := rfl
@[simp] theorem setStream_corr (s : State) (i : Nat) (f : Stream → Stream) : (setStream s i f).corr = s.corr := rfl
@[simp] theorem setStream_checks (s : State) (i : Nat) (f : Stream → Stream) : (setStream s i f).checks = s.checks := rfl
@[simp] theorem setStream_tests (s : State) (i : Nat) (f : Stream → Stream) : (setStream s i f).tests = s.tests := rfl
@[simp] theorem setStream_waiters (s : State) (i : Nat) (f : Stream → Stream) : (setStream s i f).waiters = s.waiters := rfl
@[simp] theorem setStream_nextTask (s : State) (i : Nat) (f : Stream → Stream) : (setStream s i f).nextTask = s.nextTask := rfl
@[simp] theorem setStream_moves (s : State) (i : Nat) (f : Stream → Stream) : (setStream s i f).moves = s.moves := rfl
@[simp] theorem setStream_fetchSeq (s : State) (i : Nat) (f : Stream → Stream) : (setStream s i f).fetchSeq = s.fetchSeq := rfl
@[simp] theorem setStream_heldWrites (s : State) (i : Nat) (f : Stream → Stream) : (setStream s i f).heldWrites = s.heldWrites := rfl
@[simp] theorem setStream_pfTags (s : State) (i : Nat) (f : Stream → Stream) : (setStream s i f).pfTags = s.pfTags := rfl
@[simp] theorem setStream_freeCtr (s : State) (i : Nat) (f : Stream → Stream) : (setStream s i f).freeCtr = s.freeCtr := rfl

/-! ## setEng -/

@[simp] theorem setEng_pending (s : State) (t : Nat) (f : Engine → Engine) : (setEng s t f).pending = s.pending := rfl
@[simp] theorem setEng_time (s : State) (t : Nat) (f : Engine → Engine) : (setEng s t f).time = s.time := rfl
@[simp] theorem setEng_link (s : State) (t : Nat) (f : Engine → Engine) : (setEng s t f).link = s.link := rfl
@[simp] theorem setEng_cache (s : State) (t : Nat) (f : Engine → Engine) : (setEng s t f).cache = s.cache := rfl
@[simp] theorem setEng_mem (s : State) (t : Nat) (f : Engine → Engine) : (setEng s t f).mem = s.mem := rfl
@[simp] theorem setEng_host (s : State) (t : Nat) (f : Engine → Engine) : (setEng s t f).host = s.host := rfl
@[simp] theorem setEng_badWords (s : State) (t : Nat) (f : Engine → Engine) : (setEng s t f).badWords = s.badWords := rfl
@[simp] theorem setEng_funcs (s : State) (t : Nat) (f : Engine → Engine) : (setEng s t f).funcs = s.funcs := rfl
@[simp] theorem setEng_scopes (s : State) (t : Nat) (f : Engine → Engine) : (setEng s t f).scopes = s.scopes := rfl
@[simp] theorem setEng_parts (s : State) (t : Nat) (f : Engine → Engine) : (setEng s t f).parts = s.parts := rfl
@[simp] theorem setEng_jobs (s : State) (t : Nat) (f : Engine → Engine) : (setEng s t f).jobs = s.jobs := rfl
@[simp] theorem setEng_tasks (s : State) (t : Nat) (f : Engine → Engine) : (setEng s t f).tasks = s.tasks := rfl
@[simp] theorem setEng_geys (s : State) (t : Nat) (f : Engine → Engine) : (setEng s t f).geys = s.geys := rfl
@[simp] theorem setEng_slices (s : State) (t : Nat) (f : Engine → Engine) : (setEng s t f).slices = s.slices := rfl
@[simp] theorem setEng_dies (s : State) (t : Nat) (f : Engine → Engine) : (setEng s t f).dies = s.dies := rfl
@[simp] theorem setEng_streams (s : State) (t : Nat) (f : Engine → Engine) : (setEng s t f).streams = s.streams := rfl
@[simp] theorem setEng_ports (s : State) (t : Nat) (f : Engine → Engine) : (setEng s t f).ports = s.ports := rfl
@[simp] theorem setEng_mgt (s : State) (t : Nat) (f : Engine → Engine) : (setEng s t f).mgt = s.mgt := rfl
@[simp] theorem setEng_fw (s : State) (t : Nat) (f : Engine → Engine) : (setEng s t f).fw = s.fw := rfl
@[simp] theorem setEng_log (s : State) (t : Nat) (f : Engine → Engine) : (setEng s t f).log = s.log := rfl
@[simp] theorem setEng_clk (s : State) (t : Nat) (f : Engine → Engine) : (setEng s t f).clk = s.clk := rfl
@[simp] theorem setEng_pwr (s : State) (t : Nat) (f : Engine → Engine) : (setEng s t f).pwr = s.pwr := rfl
@[simp] theorem setEng_sensors (s : State) (t : Nat) (f : Engine → Engine) : (setEng s t f).sensors = s.sensors := rfl
@[simp] theorem setEng_devQueue (s : State) (t : Nat) (f : Engine → Engine) : (setEng s t f).devQueue = s.devQueue := rfl
@[simp] theorem setEng_errors (s : State) (t : Nat) (f : Engine → Engine) : (setEng s t f).errors = s.errors := rfl
@[simp] theorem setEng_corr (s : State) (t : Nat) (f : Engine → Engine) : (setEng s t f).corr = s.corr := rfl
@[simp] theorem setEng_checks (s : State) (t : Nat) (f : Engine → Engine) : (setEng s t f).checks = s.checks := rfl
@[simp] theorem setEng_tests (s : State) (t : Nat) (f : Engine → Engine) : (setEng s t f).tests = s.tests := rfl
@[simp] theorem setEng_waiters (s : State) (t : Nat) (f : Engine → Engine) : (setEng s t f).waiters = s.waiters := rfl
@[simp] theorem setEng_nextTask (s : State) (t : Nat) (f : Engine → Engine) : (setEng s t f).nextTask = s.nextTask := rfl
@[simp] theorem setEng_moves (s : State) (t : Nat) (f : Engine → Engine) : (setEng s t f).moves = s.moves := rfl
@[simp] theorem setEng_fetchSeq (s : State) (t : Nat) (f : Engine → Engine) : (setEng s t f).fetchSeq = s.fetchSeq := rfl
@[simp] theorem setEng_heldWrites (s : State) (t : Nat) (f : Engine → Engine) : (setEng s t f).heldWrites = s.heldWrites := rfl
@[simp] theorem setEng_pfTags (s : State) (t : Nat) (f : Engine → Engine) : (setEng s t f).pfTags = s.pfTags := rfl
@[simp] theorem setEng_freeCtr (s : State) (t : Nat) (f : Engine → Engine) : (setEng s t f).freeCtr = s.freeCtr := rfl

/-! ## setCmd -/

@[simp] theorem setCmd_pending (s : State) (t : Nat) (f : Cmd → Cmd) : (setCmd s t f).pending = s.pending := rfl
@[simp] theorem setCmd_time (s : State) (t : Nat) (f : Cmd → Cmd) : (setCmd s t f).time = s.time := rfl
@[simp] theorem setCmd_link (s : State) (t : Nat) (f : Cmd → Cmd) : (setCmd s t f).link = s.link := rfl
@[simp] theorem setCmd_cache (s : State) (t : Nat) (f : Cmd → Cmd) : (setCmd s t f).cache = s.cache := rfl
@[simp] theorem setCmd_mem (s : State) (t : Nat) (f : Cmd → Cmd) : (setCmd s t f).mem = s.mem := rfl
@[simp] theorem setCmd_host (s : State) (t : Nat) (f : Cmd → Cmd) : (setCmd s t f).host = s.host := rfl
@[simp] theorem setCmd_badWords (s : State) (t : Nat) (f : Cmd → Cmd) : (setCmd s t f).badWords = s.badWords := rfl
@[simp] theorem setCmd_funcs (s : State) (t : Nat) (f : Cmd → Cmd) : (setCmd s t f).funcs = s.funcs := rfl
@[simp] theorem setCmd_scopes (s : State) (t : Nat) (f : Cmd → Cmd) : (setCmd s t f).scopes = s.scopes := rfl
@[simp] theorem setCmd_parts (s : State) (t : Nat) (f : Cmd → Cmd) : (setCmd s t f).parts = s.parts := rfl
@[simp] theorem setCmd_jobs (s : State) (t : Nat) (f : Cmd → Cmd) : (setCmd s t f).jobs = s.jobs := rfl
@[simp] theorem setCmd_tasks (s : State) (t : Nat) (f : Cmd → Cmd) : (setCmd s t f).tasks = s.tasks := rfl
@[simp] theorem setCmd_geys (s : State) (t : Nat) (f : Cmd → Cmd) : (setCmd s t f).geys = s.geys := rfl
@[simp] theorem setCmd_slices (s : State) (t : Nat) (f : Cmd → Cmd) : (setCmd s t f).slices = s.slices := rfl
@[simp] theorem setCmd_dies (s : State) (t : Nat) (f : Cmd → Cmd) : (setCmd s t f).dies = s.dies := rfl
@[simp] theorem setCmd_streams (s : State) (t : Nat) (f : Cmd → Cmd) : (setCmd s t f).streams = s.streams := rfl
@[simp] theorem setCmd_ports (s : State) (t : Nat) (f : Cmd → Cmd) : (setCmd s t f).ports = s.ports := rfl
@[simp] theorem setCmd_mgt (s : State) (t : Nat) (f : Cmd → Cmd) : (setCmd s t f).mgt = s.mgt := rfl
@[simp] theorem setCmd_fw (s : State) (t : Nat) (f : Cmd → Cmd) : (setCmd s t f).fw = s.fw := rfl
@[simp] theorem setCmd_log (s : State) (t : Nat) (f : Cmd → Cmd) : (setCmd s t f).log = s.log := rfl
@[simp] theorem setCmd_clk (s : State) (t : Nat) (f : Cmd → Cmd) : (setCmd s t f).clk = s.clk := rfl
@[simp] theorem setCmd_pwr (s : State) (t : Nat) (f : Cmd → Cmd) : (setCmd s t f).pwr = s.pwr := rfl
@[simp] theorem setCmd_sensors (s : State) (t : Nat) (f : Cmd → Cmd) : (setCmd s t f).sensors = s.sensors := rfl
@[simp] theorem setCmd_devQueue (s : State) (t : Nat) (f : Cmd → Cmd) : (setCmd s t f).devQueue = s.devQueue := rfl
@[simp] theorem setCmd_errors (s : State) (t : Nat) (f : Cmd → Cmd) : (setCmd s t f).errors = s.errors := rfl
@[simp] theorem setCmd_corr (s : State) (t : Nat) (f : Cmd → Cmd) : (setCmd s t f).corr = s.corr := rfl
@[simp] theorem setCmd_checks (s : State) (t : Nat) (f : Cmd → Cmd) : (setCmd s t f).checks = s.checks := rfl
@[simp] theorem setCmd_tests (s : State) (t : Nat) (f : Cmd → Cmd) : (setCmd s t f).tests = s.tests := rfl
@[simp] theorem setCmd_waiters (s : State) (t : Nat) (f : Cmd → Cmd) : (setCmd s t f).waiters = s.waiters := rfl
@[simp] theorem setCmd_nextTask (s : State) (t : Nat) (f : Cmd → Cmd) : (setCmd s t f).nextTask = s.nextTask := rfl
@[simp] theorem setCmd_moves (s : State) (t : Nat) (f : Cmd → Cmd) : (setCmd s t f).moves = s.moves := rfl
@[simp] theorem setCmd_fetchSeq (s : State) (t : Nat) (f : Cmd → Cmd) : (setCmd s t f).fetchSeq = s.fetchSeq := rfl
@[simp] theorem setCmd_heldWrites (s : State) (t : Nat) (f : Cmd → Cmd) : (setCmd s t f).heldWrites = s.heldWrites := rfl
@[simp] theorem setCmd_pfTags (s : State) (t : Nat) (f : Cmd → Cmd) : (setCmd s t f).pfTags = s.pfTags := rfl
@[simp] theorem setCmd_freeCtr (s : State) (t : Nat) (f : Cmd → Cmd) : (setCmd s t f).freeCtr = s.freeCtr := rfl

/-! ## devWrite -/

@[simp] theorem devWrite_pending (s : State) (ws : List (Nat × Byte)) : (devWrite s ws).pending = s.pending := rfl
@[simp] theorem devWrite_time (s : State) (ws : List (Nat × Byte)) : (devWrite s ws).time = s.time := rfl
@[simp] theorem devWrite_link (s : State) (ws : List (Nat × Byte)) : (devWrite s ws).link = s.link := rfl
@[simp] theorem devWrite_cache (s : State) (ws : List (Nat × Byte)) : (devWrite s ws).cache = s.cache := rfl
@[simp] theorem devWrite_host (s : State) (ws : List (Nat × Byte)) : (devWrite s ws).host = s.host := rfl
@[simp] theorem devWrite_funcs (s : State) (ws : List (Nat × Byte)) : (devWrite s ws).funcs = s.funcs := rfl
@[simp] theorem devWrite_scopes (s : State) (ws : List (Nat × Byte)) : (devWrite s ws).scopes = s.scopes := rfl
@[simp] theorem devWrite_parts (s : State) (ws : List (Nat × Byte)) : (devWrite s ws).parts = s.parts := rfl
@[simp] theorem devWrite_jobs (s : State) (ws : List (Nat × Byte)) : (devWrite s ws).jobs = s.jobs := rfl
@[simp] theorem devWrite_tasks (s : State) (ws : List (Nat × Byte)) : (devWrite s ws).tasks = s.tasks := rfl
@[simp] theorem devWrite_tiles (s : State) (ws : List (Nat × Byte)) : (devWrite s ws).tiles = s.tiles := rfl
@[simp] theorem devWrite_geys (s : State) (ws : List (Nat × Byte)) : (devWrite s ws).geys = s.geys := rfl
@[simp] theorem devWrite_slices (s : State) (ws : List (Nat × Byte)) : (devWrite s ws).slices = s.slices := rfl
@[simp] theorem devWrite_dies (s : State) (ws : List (Nat × Byte)) : (devWrite s ws).dies = s.dies := rfl
@[simp] theorem devWrite_streams (s : State) (ws : List (Nat × Byte)) : (devWrite s ws).streams = s.streams := rfl
@[simp] theorem devWrite_ports (s : State) (ws : List (Nat × Byte)) : (devWrite s ws).ports = s.ports := rfl
@[simp] theorem devWrite_mgt (s : State) (ws : List (Nat × Byte)) : (devWrite s ws).mgt = s.mgt := rfl
@[simp] theorem devWrite_fw (s : State) (ws : List (Nat × Byte)) : (devWrite s ws).fw = s.fw := rfl
@[simp] theorem devWrite_log (s : State) (ws : List (Nat × Byte)) : (devWrite s ws).log = s.log := rfl
@[simp] theorem devWrite_clk (s : State) (ws : List (Nat × Byte)) : (devWrite s ws).clk = s.clk := rfl
@[simp] theorem devWrite_pwr (s : State) (ws : List (Nat × Byte)) : (devWrite s ws).pwr = s.pwr := rfl
@[simp] theorem devWrite_sensors (s : State) (ws : List (Nat × Byte)) : (devWrite s ws).sensors = s.sensors := rfl
@[simp] theorem devWrite_devQueue (s : State) (ws : List (Nat × Byte)) : (devWrite s ws).devQueue = s.devQueue := rfl
@[simp] theorem devWrite_errors (s : State) (ws : List (Nat × Byte)) : (devWrite s ws).errors = s.errors := rfl
@[simp] theorem devWrite_corr (s : State) (ws : List (Nat × Byte)) : (devWrite s ws).corr = s.corr := rfl
@[simp] theorem devWrite_checks (s : State) (ws : List (Nat × Byte)) : (devWrite s ws).checks = s.checks := rfl
@[simp] theorem devWrite_tests (s : State) (ws : List (Nat × Byte)) : (devWrite s ws).tests = s.tests := rfl
@[simp] theorem devWrite_waiters (s : State) (ws : List (Nat × Byte)) : (devWrite s ws).waiters = s.waiters := rfl
@[simp] theorem devWrite_nextTask (s : State) (ws : List (Nat × Byte)) : (devWrite s ws).nextTask = s.nextTask := rfl
@[simp] theorem devWrite_moves (s : State) (ws : List (Nat × Byte)) : (devWrite s ws).moves = s.moves := rfl
@[simp] theorem devWrite_fetchSeq (s : State) (ws : List (Nat × Byte)) : (devWrite s ws).fetchSeq = s.fetchSeq := rfl
@[simp] theorem devWrite_heldWrites (s : State) (ws : List (Nat × Byte)) : (devWrite s ws).heldWrites = s.heldWrites := rfl
@[simp] theorem devWrite_pfTags (s : State) (ws : List (Nat × Byte)) : (devWrite s ws).pfTags = s.pfTags := rfl
@[simp] theorem devWrite_freeCtr (s : State) (ws : List (Nat × Byte)) : (devWrite s ws).freeCtr = s.freeCtr := rfl

/-! ## devZero -/

@[simp] theorem devZero_pending (s : State) (a n : Nat) : (devZero s a n).pending = s.pending := rfl
@[simp] theorem devZero_time (s : State) (a n : Nat) : (devZero s a n).time = s.time := rfl
@[simp] theorem devZero_link (s : State) (a n : Nat) : (devZero s a n).link = s.link := rfl
@[simp] theorem devZero_cache (s : State) (a n : Nat) : (devZero s a n).cache = s.cache := rfl
@[simp] theorem devZero_host (s : State) (a n : Nat) : (devZero s a n).host = s.host := rfl
@[simp] theorem devZero_funcs (s : State) (a n : Nat) : (devZero s a n).funcs = s.funcs := rfl
@[simp] theorem devZero_scopes (s : State) (a n : Nat) : (devZero s a n).scopes = s.scopes := rfl
@[simp] theorem devZero_parts (s : State) (a n : Nat) : (devZero s a n).parts = s.parts := rfl
@[simp] theorem devZero_jobs (s : State) (a n : Nat) : (devZero s a n).jobs = s.jobs := rfl
@[simp] theorem devZero_tasks (s : State) (a n : Nat) : (devZero s a n).tasks = s.tasks := rfl
@[simp] theorem devZero_tiles (s : State) (a n : Nat) : (devZero s a n).tiles = s.tiles := rfl
@[simp] theorem devZero_geys (s : State) (a n : Nat) : (devZero s a n).geys = s.geys := rfl
@[simp] theorem devZero_slices (s : State) (a n : Nat) : (devZero s a n).slices = s.slices := rfl
@[simp] theorem devZero_dies (s : State) (a n : Nat) : (devZero s a n).dies = s.dies := rfl
@[simp] theorem devZero_streams (s : State) (a n : Nat) : (devZero s a n).streams = s.streams := rfl
@[simp] theorem devZero_ports (s : State) (a n : Nat) : (devZero s a n).ports = s.ports := rfl
@[simp] theorem devZero_mgt (s : State) (a n : Nat) : (devZero s a n).mgt = s.mgt := rfl
@[simp] theorem devZero_fw (s : State) (a n : Nat) : (devZero s a n).fw = s.fw := rfl
@[simp] theorem devZero_log (s : State) (a n : Nat) : (devZero s a n).log = s.log := rfl
@[simp] theorem devZero_clk (s : State) (a n : Nat) : (devZero s a n).clk = s.clk := rfl
@[simp] theorem devZero_pwr (s : State) (a n : Nat) : (devZero s a n).pwr = s.pwr := rfl
@[simp] theorem devZero_sensors (s : State) (a n : Nat) : (devZero s a n).sensors = s.sensors := rfl
@[simp] theorem devZero_devQueue (s : State) (a n : Nat) : (devZero s a n).devQueue = s.devQueue := rfl
@[simp] theorem devZero_errors (s : State) (a n : Nat) : (devZero s a n).errors = s.errors := rfl
@[simp] theorem devZero_corr (s : State) (a n : Nat) : (devZero s a n).corr = s.corr := rfl
@[simp] theorem devZero_checks (s : State) (a n : Nat) : (devZero s a n).checks = s.checks := rfl
@[simp] theorem devZero_tests (s : State) (a n : Nat) : (devZero s a n).tests = s.tests := rfl
@[simp] theorem devZero_waiters (s : State) (a n : Nat) : (devZero s a n).waiters = s.waiters := rfl
@[simp] theorem devZero_nextTask (s : State) (a n : Nat) : (devZero s a n).nextTask = s.nextTask := rfl
@[simp] theorem devZero_moves (s : State) (a n : Nat) : (devZero s a n).moves = s.moves := rfl
@[simp] theorem devZero_fetchSeq (s : State) (a n : Nat) : (devZero s a n).fetchSeq = s.fetchSeq := rfl
@[simp] theorem devZero_heldWrites (s : State) (a n : Nat) : (devZero s a n).heldWrites = s.heldWrites := rfl
@[simp] theorem devZero_pfTags (s : State) (a n : Nat) : (devZero s a n).pfTags = s.pfTags := rfl
@[simp] theorem devZero_freeCtr (s : State) (a n : Nat) : (devZero s a n).freeCtr = s.freeCtr := rfl

/-! ## hostWrite -/

@[simp] theorem hostWrite_pending (s : State) (a : Nat) (bs : List Byte) : (hostWrite s a bs).pending = s.pending := rfl
@[simp] theorem hostWrite_time (s : State) (a : Nat) (bs : List Byte) : (hostWrite s a bs).time = s.time := rfl
@[simp] theorem hostWrite_link (s : State) (a : Nat) (bs : List Byte) : (hostWrite s a bs).link = s.link := rfl
@[simp] theorem hostWrite_cache (s : State) (a : Nat) (bs : List Byte) : (hostWrite s a bs).cache = s.cache := rfl
@[simp] theorem hostWrite_mem (s : State) (a : Nat) (bs : List Byte) : (hostWrite s a bs).mem = s.mem := rfl
@[simp] theorem hostWrite_badWords (s : State) (a : Nat) (bs : List Byte) : (hostWrite s a bs).badWords = s.badWords := rfl
@[simp] theorem hostWrite_funcs (s : State) (a : Nat) (bs : List Byte) : (hostWrite s a bs).funcs = s.funcs := rfl
@[simp] theorem hostWrite_scopes (s : State) (a : Nat) (bs : List Byte) : (hostWrite s a bs).scopes = s.scopes := rfl
@[simp] theorem hostWrite_parts (s : State) (a : Nat) (bs : List Byte) : (hostWrite s a bs).parts = s.parts := rfl
@[simp] theorem hostWrite_jobs (s : State) (a : Nat) (bs : List Byte) : (hostWrite s a bs).jobs = s.jobs := rfl
@[simp] theorem hostWrite_tasks (s : State) (a : Nat) (bs : List Byte) : (hostWrite s a bs).tasks = s.tasks := rfl
@[simp] theorem hostWrite_tiles (s : State) (a : Nat) (bs : List Byte) : (hostWrite s a bs).tiles = s.tiles := rfl
@[simp] theorem hostWrite_geys (s : State) (a : Nat) (bs : List Byte) : (hostWrite s a bs).geys = s.geys := rfl
@[simp] theorem hostWrite_slices (s : State) (a : Nat) (bs : List Byte) : (hostWrite s a bs).slices = s.slices := rfl
@[simp] theorem hostWrite_dies (s : State) (a : Nat) (bs : List Byte) : (hostWrite s a bs).dies = s.dies := rfl
@[simp] theorem hostWrite_streams (s : State) (a : Nat) (bs : List Byte) : (hostWrite s a bs).streams = s.streams := rfl
@[simp] theorem hostWrite_ports (s : State) (a : Nat) (bs : List Byte) : (hostWrite s a bs).ports = s.ports := rfl
@[simp] theorem hostWrite_mgt (s : State) (a : Nat) (bs : List Byte) : (hostWrite s a bs).mgt = s.mgt := rfl
@[simp] theorem hostWrite_fw (s : State) (a : Nat) (bs : List Byte) : (hostWrite s a bs).fw = s.fw := rfl
@[simp] theorem hostWrite_log (s : State) (a : Nat) (bs : List Byte) : (hostWrite s a bs).log = s.log := rfl
@[simp] theorem hostWrite_clk (s : State) (a : Nat) (bs : List Byte) : (hostWrite s a bs).clk = s.clk := rfl
@[simp] theorem hostWrite_pwr (s : State) (a : Nat) (bs : List Byte) : (hostWrite s a bs).pwr = s.pwr := rfl
@[simp] theorem hostWrite_sensors (s : State) (a : Nat) (bs : List Byte) : (hostWrite s a bs).sensors = s.sensors := rfl
@[simp] theorem hostWrite_devQueue (s : State) (a : Nat) (bs : List Byte) : (hostWrite s a bs).devQueue = s.devQueue := rfl
@[simp] theorem hostWrite_errors (s : State) (a : Nat) (bs : List Byte) : (hostWrite s a bs).errors = s.errors := rfl
@[simp] theorem hostWrite_corr (s : State) (a : Nat) (bs : List Byte) : (hostWrite s a bs).corr = s.corr := rfl
@[simp] theorem hostWrite_checks (s : State) (a : Nat) (bs : List Byte) : (hostWrite s a bs).checks = s.checks := rfl
@[simp] theorem hostWrite_tests (s : State) (a : Nat) (bs : List Byte) : (hostWrite s a bs).tests = s.tests := rfl
@[simp] theorem hostWrite_waiters (s : State) (a : Nat) (bs : List Byte) : (hostWrite s a bs).waiters = s.waiters := rfl
@[simp] theorem hostWrite_nextTask (s : State) (a : Nat) (bs : List Byte) : (hostWrite s a bs).nextTask = s.nextTask := rfl
@[simp] theorem hostWrite_moves (s : State) (a : Nat) (bs : List Byte) : (hostWrite s a bs).moves = s.moves := rfl
@[simp] theorem hostWrite_fetchSeq (s : State) (a : Nat) (bs : List Byte) : (hostWrite s a bs).fetchSeq = s.fetchSeq := rfl
@[simp] theorem hostWrite_heldWrites (s : State) (a : Nat) (bs : List Byte) : (hostWrite s a bs).heldWrites = s.heldWrites := rfl
@[simp] theorem hostWrite_pfTags (s : State) (a : Nat) (bs : List Byte) : (hostWrite s a bs).pfTags = s.pfTags := rfl
@[simp] theorem hostWrite_freeCtr (s : State) (a : Nat) (bs : List Byte) : (hostWrite s a bs).freeCtr = s.freeCtr := rfl

/-! ## setMgt -/

@[simp] theorem setMgt_pending (s : State) (f : Mgt → Mgt) : (setMgt s f).pending = s.pending := rfl
@[simp] theorem setMgt_time (s : State) (f : Mgt → Mgt) : (setMgt s f).time = s.time := rfl
@[simp] theorem setMgt_link (s : State) (f : Mgt → Mgt) : (setMgt s f).link = s.link := rfl
@[simp] theorem setMgt_cache (s : State) (f : Mgt → Mgt) : (setMgt s f).cache = s.cache := rfl
@[simp] theorem setMgt_mem (s : State) (f : Mgt → Mgt) : (setMgt s f).mem = s.mem := rfl
@[simp] theorem setMgt_host (s : State) (f : Mgt → Mgt) : (setMgt s f).host = s.host := rfl
@[simp] theorem setMgt_badWords (s : State) (f : Mgt → Mgt) : (setMgt s f).badWords = s.badWords := rfl
@[simp] theorem setMgt_funcs (s : State) (f : Mgt → Mgt) : (setMgt s f).funcs = s.funcs := rfl
@[simp] theorem setMgt_scopes (s : State) (f : Mgt → Mgt) : (setMgt s f).scopes = s.scopes := rfl
@[simp] theorem setMgt_parts (s : State) (f : Mgt → Mgt) : (setMgt s f).parts = s.parts := rfl
@[simp] theorem setMgt_jobs (s : State) (f : Mgt → Mgt) : (setMgt s f).jobs = s.jobs := rfl
@[simp] theorem setMgt_tasks (s : State) (f : Mgt → Mgt) : (setMgt s f).tasks = s.tasks := rfl
@[simp] theorem setMgt_tiles (s : State) (f : Mgt → Mgt) : (setMgt s f).tiles = s.tiles := rfl
@[simp] theorem setMgt_geys (s : State) (f : Mgt → Mgt) : (setMgt s f).geys = s.geys := rfl
@[simp] theorem setMgt_slices (s : State) (f : Mgt → Mgt) : (setMgt s f).slices = s.slices := rfl
@[simp] theorem setMgt_dies (s : State) (f : Mgt → Mgt) : (setMgt s f).dies = s.dies := rfl
@[simp] theorem setMgt_streams (s : State) (f : Mgt → Mgt) : (setMgt s f).streams = s.streams := rfl
@[simp] theorem setMgt_ports (s : State) (f : Mgt → Mgt) : (setMgt s f).ports = s.ports := rfl
@[simp] theorem setMgt_fw (s : State) (f : Mgt → Mgt) : (setMgt s f).fw = s.fw := rfl
@[simp] theorem setMgt_log (s : State) (f : Mgt → Mgt) : (setMgt s f).log = s.log := rfl
@[simp] theorem setMgt_clk (s : State) (f : Mgt → Mgt) : (setMgt s f).clk = s.clk := rfl
@[simp] theorem setMgt_pwr (s : State) (f : Mgt → Mgt) : (setMgt s f).pwr = s.pwr := rfl
@[simp] theorem setMgt_sensors (s : State) (f : Mgt → Mgt) : (setMgt s f).sensors = s.sensors := rfl
@[simp] theorem setMgt_devQueue (s : State) (f : Mgt → Mgt) : (setMgt s f).devQueue = s.devQueue := rfl
@[simp] theorem setMgt_errors (s : State) (f : Mgt → Mgt) : (setMgt s f).errors = s.errors := rfl
@[simp] theorem setMgt_corr (s : State) (f : Mgt → Mgt) : (setMgt s f).corr = s.corr := rfl
@[simp] theorem setMgt_checks (s : State) (f : Mgt → Mgt) : (setMgt s f).checks = s.checks := rfl
@[simp] theorem setMgt_tests (s : State) (f : Mgt → Mgt) : (setMgt s f).tests = s.tests := rfl
@[simp] theorem setMgt_waiters (s : State) (f : Mgt → Mgt) : (setMgt s f).waiters = s.waiters := rfl
@[simp] theorem setMgt_nextTask (s : State) (f : Mgt → Mgt) : (setMgt s f).nextTask = s.nextTask := rfl
@[simp] theorem setMgt_moves (s : State) (f : Mgt → Mgt) : (setMgt s f).moves = s.moves := rfl
@[simp] theorem setMgt_fetchSeq (s : State) (f : Mgt → Mgt) : (setMgt s f).fetchSeq = s.fetchSeq := rfl
@[simp] theorem setMgt_heldWrites (s : State) (f : Mgt → Mgt) : (setMgt s f).heldWrites = s.heldWrites := rfl
@[simp] theorem setMgt_pfTags (s : State) (f : Mgt → Mgt) : (setMgt s f).pfTags = s.pfTags := rfl
@[simp] theorem setMgt_freeCtr (s : State) (f : Mgt → Mgt) : (setMgt s f).freeCtr = s.freeCtr := rfl

/-! ## setPwr -/

@[simp] theorem setPwr_pending (s : State) (f : PwrSt → PwrSt) : (setPwr s f).pending = s.pending := rfl
@[simp] theorem setPwr_time (s : State) (f : PwrSt → PwrSt) : (setPwr s f).time = s.time := rfl
@[simp] theorem setPwr_link (s : State) (f : PwrSt → PwrSt) : (setPwr s f).link = s.link := rfl
@[simp] theorem setPwr_cache (s : State) (f : PwrSt → PwrSt) : (setPwr s f).cache = s.cache := rfl
@[simp] theorem setPwr_mem (s : State) (f : PwrSt → PwrSt) : (setPwr s f).mem = s.mem := rfl
@[simp] theorem setPwr_host (s : State) (f : PwrSt → PwrSt) : (setPwr s f).host = s.host := rfl
@[simp] theorem setPwr_badWords (s : State) (f : PwrSt → PwrSt) : (setPwr s f).badWords = s.badWords := rfl
@[simp] theorem setPwr_funcs (s : State) (f : PwrSt → PwrSt) : (setPwr s f).funcs = s.funcs := rfl
@[simp] theorem setPwr_scopes (s : State) (f : PwrSt → PwrSt) : (setPwr s f).scopes = s.scopes := rfl
@[simp] theorem setPwr_parts (s : State) (f : PwrSt → PwrSt) : (setPwr s f).parts = s.parts := rfl
@[simp] theorem setPwr_jobs (s : State) (f : PwrSt → PwrSt) : (setPwr s f).jobs = s.jobs := rfl
@[simp] theorem setPwr_tasks (s : State) (f : PwrSt → PwrSt) : (setPwr s f).tasks = s.tasks := rfl
@[simp] theorem setPwr_tiles (s : State) (f : PwrSt → PwrSt) : (setPwr s f).tiles = s.tiles := rfl
@[simp] theorem setPwr_geys (s : State) (f : PwrSt → PwrSt) : (setPwr s f).geys = s.geys := rfl
@[simp] theorem setPwr_slices (s : State) (f : PwrSt → PwrSt) : (setPwr s f).slices = s.slices := rfl
@[simp] theorem setPwr_dies (s : State) (f : PwrSt → PwrSt) : (setPwr s f).dies = s.dies := rfl
@[simp] theorem setPwr_streams (s : State) (f : PwrSt → PwrSt) : (setPwr s f).streams = s.streams := rfl
@[simp] theorem setPwr_ports (s : State) (f : PwrSt → PwrSt) : (setPwr s f).ports = s.ports := rfl
@[simp] theorem setPwr_mgt (s : State) (f : PwrSt → PwrSt) : (setPwr s f).mgt = s.mgt := rfl
@[simp] theorem setPwr_fw (s : State) (f : PwrSt → PwrSt) : (setPwr s f).fw = s.fw := rfl
@[simp] theorem setPwr_log (s : State) (f : PwrSt → PwrSt) : (setPwr s f).log = s.log := rfl
@[simp] theorem setPwr_clk (s : State) (f : PwrSt → PwrSt) : (setPwr s f).clk = s.clk := rfl
@[simp] theorem setPwr_sensors (s : State) (f : PwrSt → PwrSt) : (setPwr s f).sensors = s.sensors := rfl
@[simp] theorem setPwr_devQueue (s : State) (f : PwrSt → PwrSt) : (setPwr s f).devQueue = s.devQueue := rfl
@[simp] theorem setPwr_errors (s : State) (f : PwrSt → PwrSt) : (setPwr s f).errors = s.errors := rfl
@[simp] theorem setPwr_corr (s : State) (f : PwrSt → PwrSt) : (setPwr s f).corr = s.corr := rfl
@[simp] theorem setPwr_checks (s : State) (f : PwrSt → PwrSt) : (setPwr s f).checks = s.checks := rfl
@[simp] theorem setPwr_tests (s : State) (f : PwrSt → PwrSt) : (setPwr s f).tests = s.tests := rfl
@[simp] theorem setPwr_waiters (s : State) (f : PwrSt → PwrSt) : (setPwr s f).waiters = s.waiters := rfl
@[simp] theorem setPwr_nextTask (s : State) (f : PwrSt → PwrSt) : (setPwr s f).nextTask = s.nextTask := rfl
@[simp] theorem setPwr_moves (s : State) (f : PwrSt → PwrSt) : (setPwr s f).moves = s.moves := rfl
@[simp] theorem setPwr_fetchSeq (s : State) (f : PwrSt → PwrSt) : (setPwr s f).fetchSeq = s.fetchSeq := rfl
@[simp] theorem setPwr_heldWrites (s : State) (f : PwrSt → PwrSt) : (setPwr s f).heldWrites = s.heldWrites := rfl
@[simp] theorem setPwr_pfTags (s : State) (f : PwrSt → PwrSt) : (setPwr s f).pfTags = s.pfTags := rfl
@[simp] theorem setPwr_freeCtr (s : State) (f : PwrSt → PwrSt) : (setPwr s f).freeCtr = s.freeCtr := rfl

/-! ## setClk -/

@[simp] theorem setClk_pending (s : State) (f : ClkSt → ClkSt) : (setClk s f).pending = s.pending := rfl
@[simp] theorem setClk_time (s : State) (f : ClkSt → ClkSt) : (setClk s f).time = s.time := rfl
@[simp] theorem setClk_link (s : State) (f : ClkSt → ClkSt) : (setClk s f).link = s.link := rfl
@[simp] theorem setClk_cache (s : State) (f : ClkSt → ClkSt) : (setClk s f).cache = s.cache := rfl
@[simp] theorem setClk_mem (s : State) (f : ClkSt → ClkSt) : (setClk s f).mem = s.mem := rfl
@[simp] theorem setClk_host (s : State) (f : ClkSt → ClkSt) : (setClk s f).host = s.host := rfl
@[simp] theorem setClk_badWords (s : State) (f : ClkSt → ClkSt) : (setClk s f).badWords = s.badWords := rfl
@[simp] theorem setClk_funcs (s : State) (f : ClkSt → ClkSt) : (setClk s f).funcs = s.funcs := rfl
@[simp] theorem setClk_scopes (s : State) (f : ClkSt → ClkSt) : (setClk s f).scopes = s.scopes := rfl
@[simp] theorem setClk_parts (s : State) (f : ClkSt → ClkSt) : (setClk s f).parts = s.parts := rfl
@[simp] theorem setClk_jobs (s : State) (f : ClkSt → ClkSt) : (setClk s f).jobs = s.jobs := rfl
@[simp] theorem setClk_tasks (s : State) (f : ClkSt → ClkSt) : (setClk s f).tasks = s.tasks := rfl
@[simp] theorem setClk_tiles (s : State) (f : ClkSt → ClkSt) : (setClk s f).tiles = s.tiles := rfl
@[simp] theorem setClk_geys (s : State) (f : ClkSt → ClkSt) : (setClk s f).geys = s.geys := rfl
@[simp] theorem setClk_slices (s : State) (f : ClkSt → ClkSt) : (setClk s f).slices = s.slices := rfl
@[simp] theorem setClk_dies (s : State) (f : ClkSt → ClkSt) : (setClk s f).dies = s.dies := rfl
@[simp] theorem setClk_streams (s : State) (f : ClkSt → ClkSt) : (setClk s f).streams = s.streams := rfl
@[simp] theorem setClk_ports (s : State) (f : ClkSt → ClkSt) : (setClk s f).ports = s.ports := rfl
@[simp] theorem setClk_mgt (s : State) (f : ClkSt → ClkSt) : (setClk s f).mgt = s.mgt := rfl
@[simp] theorem setClk_fw (s : State) (f : ClkSt → ClkSt) : (setClk s f).fw = s.fw := rfl
@[simp] theorem setClk_log (s : State) (f : ClkSt → ClkSt) : (setClk s f).log = s.log := rfl
@[simp] theorem setClk_pwr (s : State) (f : ClkSt → ClkSt) : (setClk s f).pwr = s.pwr := rfl
@[simp] theorem setClk_sensors (s : State) (f : ClkSt → ClkSt) : (setClk s f).sensors = s.sensors := rfl
@[simp] theorem setClk_devQueue (s : State) (f : ClkSt → ClkSt) : (setClk s f).devQueue = s.devQueue := rfl
@[simp] theorem setClk_errors (s : State) (f : ClkSt → ClkSt) : (setClk s f).errors = s.errors := rfl
@[simp] theorem setClk_corr (s : State) (f : ClkSt → ClkSt) : (setClk s f).corr = s.corr := rfl
@[simp] theorem setClk_checks (s : State) (f : ClkSt → ClkSt) : (setClk s f).checks = s.checks := rfl
@[simp] theorem setClk_tests (s : State) (f : ClkSt → ClkSt) : (setClk s f).tests = s.tests := rfl
@[simp] theorem setClk_waiters (s : State) (f : ClkSt → ClkSt) : (setClk s f).waiters = s.waiters := rfl
@[simp] theorem setClk_nextTask (s : State) (f : ClkSt → ClkSt) : (setClk s f).nextTask = s.nextTask := rfl
@[simp] theorem setClk_moves (s : State) (f : ClkSt → ClkSt) : (setClk s f).moves = s.moves := rfl
@[simp] theorem setClk_fetchSeq (s : State) (f : ClkSt → ClkSt) : (setClk s f).fetchSeq = s.fetchSeq := rfl
@[simp] theorem setClk_heldWrites (s : State) (f : ClkSt → ClkSt) : (setClk s f).heldWrites = s.heldWrites := rfl
@[simp] theorem setClk_pfTags (s : State) (f : ClkSt → ClkSt) : (setClk s f).pfTags = s.pfTags := rfl
@[simp] theorem setClk_freeCtr (s : State) (f : ClkSt → ClkSt) : (setClk s f).freeCtr = s.freeCtr := rfl

/-! ## setFw -/

@[simp] theorem setFw_pending (s : State) (f : FwSt → FwSt) : (setFw s f).pending = s.pending := rfl
@[simp] theorem setFw_time (s : State) (f : FwSt → FwSt) : (setFw s f).time = s.time := rfl
@[simp] theorem setFw_link (s : State) (f : FwSt → FwSt) : (setFw s f).link = s.link := rfl
@[simp] theorem setFw_cache (s : State) (f : FwSt → FwSt) : (setFw s f).cache = s.cache := rfl
@[simp] theorem setFw_mem (s : State) (f : FwSt → FwSt) : (setFw s f).mem = s.mem := rfl
@[simp] theorem setFw_host (s : State) (f : FwSt → FwSt) : (setFw s f).host = s.host := rfl
@[simp] theorem setFw_badWords (s : State) (f : FwSt → FwSt) : (setFw s f).badWords = s.badWords := rfl
@[simp] theorem setFw_funcs (s : State) (f : FwSt → FwSt) : (setFw s f).funcs = s.funcs := rfl
@[simp] theorem setFw_scopes (s : State) (f : FwSt → FwSt) : (setFw s f).scopes = s.scopes := rfl
@[simp] theorem setFw_parts (s : State) (f : FwSt → FwSt) : (setFw s f).parts = s.parts := rfl
@[simp] theorem setFw_jobs (s : State) (f : FwSt → FwSt) : (setFw s f).jobs = s.jobs := rfl
@[simp] theorem setFw_tasks (s : State) (f : FwSt → FwSt) : (setFw s f).tasks = s.tasks := rfl
@[simp] theorem setFw_tiles (s : State) (f : FwSt → FwSt) : (setFw s f).tiles = s.tiles := rfl
@[simp] theorem setFw_geys (s : State) (f : FwSt → FwSt) : (setFw s f).geys = s.geys := rfl
@[simp] theorem setFw_slices (s : State) (f : FwSt → FwSt) : (setFw s f).slices = s.slices := rfl
@[simp] theorem setFw_dies (s : State) (f : FwSt → FwSt) : (setFw s f).dies = s.dies := rfl
@[simp] theorem setFw_streams (s : State) (f : FwSt → FwSt) : (setFw s f).streams = s.streams := rfl
@[simp] theorem setFw_ports (s : State) (f : FwSt → FwSt) : (setFw s f).ports = s.ports := rfl
@[simp] theorem setFw_mgt (s : State) (f : FwSt → FwSt) : (setFw s f).mgt = s.mgt := rfl
@[simp] theorem setFw_log (s : State) (f : FwSt → FwSt) : (setFw s f).log = s.log := rfl
@[simp] theorem setFw_clk (s : State) (f : FwSt → FwSt) : (setFw s f).clk = s.clk := rfl
@[simp] theorem setFw_pwr (s : State) (f : FwSt → FwSt) : (setFw s f).pwr = s.pwr := rfl
@[simp] theorem setFw_sensors (s : State) (f : FwSt → FwSt) : (setFw s f).sensors = s.sensors := rfl
@[simp] theorem setFw_devQueue (s : State) (f : FwSt → FwSt) : (setFw s f).devQueue = s.devQueue := rfl
@[simp] theorem setFw_errors (s : State) (f : FwSt → FwSt) : (setFw s f).errors = s.errors := rfl
@[simp] theorem setFw_corr (s : State) (f : FwSt → FwSt) : (setFw s f).corr = s.corr := rfl
@[simp] theorem setFw_checks (s : State) (f : FwSt → FwSt) : (setFw s f).checks = s.checks := rfl
@[simp] theorem setFw_tests (s : State) (f : FwSt → FwSt) : (setFw s f).tests = s.tests := rfl
@[simp] theorem setFw_waiters (s : State) (f : FwSt → FwSt) : (setFw s f).waiters = s.waiters := rfl
@[simp] theorem setFw_nextTask (s : State) (f : FwSt → FwSt) : (setFw s f).nextTask = s.nextTask := rfl
@[simp] theorem setFw_moves (s : State) (f : FwSt → FwSt) : (setFw s f).moves = s.moves := rfl
@[simp] theorem setFw_fetchSeq (s : State) (f : FwSt → FwSt) : (setFw s f).fetchSeq = s.fetchSeq := rfl
@[simp] theorem setFw_heldWrites (s : State) (f : FwSt → FwSt) : (setFw s f).heldWrites = s.heldWrites := rfl
@[simp] theorem setFw_pfTags (s : State) (f : FwSt → FwSt) : (setFw s f).pfTags = s.pfTags := rfl
@[simp] theorem setFw_freeCtr (s : State) (f : FwSt → FwSt) : (setFw s f).freeCtr = s.freeCtr := rfl

/-! ## logAdd -/

@[simp] theorem logAdd_pending (s : State) (r : LogRec) : (logAdd s r).pending = s.pending := rfl
@[simp] theorem logAdd_time (s : State) (r : LogRec) : (logAdd s r).time = s.time := rfl
@[simp] theorem logAdd_link (s : State) (r : LogRec) : (logAdd s r).link = s.link := rfl
@[simp] theorem logAdd_cache (s : State) (r : LogRec) : (logAdd s r).cache = s.cache := rfl
@[simp] theorem logAdd_mem (s : State) (r : LogRec) : (logAdd s r).mem = s.mem := rfl
@[simp] theorem logAdd_host (s : State) (r : LogRec) : (logAdd s r).host = s.host := rfl
@[simp] theorem logAdd_badWords (s : State) (r : LogRec) : (logAdd s r).badWords = s.badWords := rfl
@[simp] theorem logAdd_funcs (s : State) (r : LogRec) : (logAdd s r).funcs = s.funcs := rfl
@[simp] theorem logAdd_scopes (s : State) (r : LogRec) : (logAdd s r).scopes = s.scopes := rfl
@[simp] theorem logAdd_parts (s : State) (r : LogRec) : (logAdd s r).parts = s.parts := rfl
@[simp] theorem logAdd_jobs (s : State) (r : LogRec) : (logAdd s r).jobs = s.jobs := rfl
@[simp] theorem logAdd_tasks (s : State) (r : LogRec) : (logAdd s r).tasks = s.tasks := rfl
@[simp] theorem logAdd_tiles (s : State) (r : LogRec) : (logAdd s r).tiles = s.tiles := rfl
@[simp] theorem logAdd_geys (s : State) (r : LogRec) : (logAdd s r).geys = s.geys := rfl
@[simp] theorem logAdd_slices (s : State) (r : LogRec) : (logAdd s r).slices = s.slices := rfl
@[simp] theorem logAdd_dies (s : State) (r : LogRec) : (logAdd s r).dies = s.dies := rfl
@[simp] theorem logAdd_streams (s : State) (r : LogRec) : (logAdd s r).streams = s.streams := rfl
@[simp] theorem logAdd_ports (s : State) (r : LogRec) : (logAdd s r).ports = s.ports := rfl
@[simp] theorem logAdd_mgt (s : State) (r : LogRec) : (logAdd s r).mgt = s.mgt := rfl
@[simp] theorem logAdd_fw (s : State) (r : LogRec) : (logAdd s r).fw = s.fw := rfl
@[simp] theorem logAdd_clk (s : State) (r : LogRec) : (logAdd s r).clk = s.clk := rfl
@[simp] theorem logAdd_pwr (s : State) (r : LogRec) : (logAdd s r).pwr = s.pwr := rfl
@[simp] theorem logAdd_sensors (s : State) (r : LogRec) : (logAdd s r).sensors = s.sensors := rfl
@[simp] theorem logAdd_devQueue (s : State) (r : LogRec) : (logAdd s r).devQueue = s.devQueue := rfl
@[simp] theorem logAdd_errors (s : State) (r : LogRec) : (logAdd s r).errors = s.errors := rfl
@[simp] theorem logAdd_corr (s : State) (r : LogRec) : (logAdd s r).corr = s.corr := rfl
@[simp] theorem logAdd_checks (s : State) (r : LogRec) : (logAdd s r).checks = s.checks := rfl
@[simp] theorem logAdd_tests (s : State) (r : LogRec) : (logAdd s r).tests = s.tests := rfl
@[simp] theorem logAdd_waiters (s : State) (r : LogRec) : (logAdd s r).waiters = s.waiters := rfl
@[simp] theorem logAdd_nextTask (s : State) (r : LogRec) : (logAdd s r).nextTask = s.nextTask := rfl
@[simp] theorem logAdd_moves (s : State) (r : LogRec) : (logAdd s r).moves = s.moves := rfl
@[simp] theorem logAdd_fetchSeq (s : State) (r : LogRec) : (logAdd s r).fetchSeq = s.fetchSeq := rfl
@[simp] theorem logAdd_heldWrites (s : State) (r : LogRec) : (logAdd s r).heldWrites = s.heldWrites := rfl
@[simp] theorem logAdd_pfTags (s : State) (r : LogRec) : (logAdd s r).pfTags = s.pfTags := rfl
@[simp] theorem logAdd_freeCtr (s : State) (r : LogRec) : (logAdd s r).freeCtr = s.freeCtr := rfl

/-! ## getTile after setTile -/

theorem getTile_setTile_self (s : State) {i : Nat} (f : Tile → Tile) (h : i < s.tiles.length) :
    getTile (setTile s i f) i = f (getTile s i) := by
  simp [getTile, setTile, List.getD, List.getElem?_eq_getElem h]

@[simp] theorem getTile_setTile_ne (s : State) {i j : Nat} (f : Tile → Tile) (h : j ≠ i) : getTile (setTile s i f) j = getTile s j := by
  simp [getTile, setTile, List.getD, Ne.symm h]

@[simp] theorem setTile_length (s : State) (i : Nat) (f : Tile → Tile) : (setTile s i f).tiles.length = s.tiles.length := by
  simp [setTile]

theorem setTile_setTile (s : State) (i : Nat) (f g : Tile → Tile) : setTile (setTile s i f) i g = setTile s i (fun x => g (f x)) := by
  simp only [setTile, List.modify_modify_eq]; rfl

theorem setTile_congr (s : State) {i : Nat} {f g : Tile → Tile} (h : f (getTile s i) = g (getTile s i)) : setTile s i f = setTile s i g := by
  simp only [setTile]
  congr 1
  refine List.ext_getElem? (fun k => ?_)
  simp only [List.getElem?_modify]
  split
  · subst k
    cases e : s.tiles[i]? with
    | none => rfl
    | some x =>
      have : getTile s i = x := by simp [getTile, List.getD, e]
      rw [this] at h
      simp [h]
  · rfl

@[simp] theorem getPart_setTile (s : State) (i : Nat) (f : Tile → Tile) (j : Nat) : getPart (setTile s i f) j = getPart s j := rfl
@[simp] theorem getFunc_setTile (s : State) (i : Nat) (f : Tile → Tile) (j : Nat) : getFunc (setTile s i f) j = getFunc s j := rfl
@[simp] theorem getGey_setTile (s : State) (i : Nat) (f : Tile → Tile) (j : Nat) : getGey (setTile s i f) j = getGey s j := rfl
@[simp] theorem getSlice_setTile (s : State) (i : Nat) (f : Tile → Tile) (j : Nat) : getSlice (setTile s i f) j = getSlice s j := rfl
@[simp] theorem getDie_setTile (s : State) (i : Nat) (f : Tile → Tile) (j : Nat) : getDie (setTile s i f) j = getDie s j := rfl
@[simp] theorem getPort_setTile (s : State) (i : Nat) (f : Tile → Tile) (j : Nat) : getPort (setTile s i f) j = getPort s j := rfl
@[simp] theorem getJob_setTile (s : State) (i : Nat) (f : Tile → Tile) (j : Nat) : getJob (setTile s i f) j = getJob s j := rfl
@[simp] theorem getTask_setTile (s : State) (i : Nat) (f : Tile → Tile) (j : Nat) : getTask (setTile s i f) j = getTask s j := rfl
@[simp] theorem getStream_setTile (s : State) (i : Nat) (f : Tile → Tile) (j : Nat) : getStream (setTile s i f) j = getStream s j := rfl

/-! ## getPart after setPart -/

theorem getPart_setPart_self (s : State) {i : Nat} (f : Part → Part) (h : i < s.parts.length) :
    getPart (setPart s i f) i = f (getPart s i) := by
  simp [getPart, setPart, List.getD, List.getElem?_eq_getElem h]

@[simp] theorem getPart_setPart_ne (s : State) {i j : Nat} (f : Part → Part) (h : j ≠ i) : getPart (setPart s i f) j = getPart s j := by
  simp [getPart, setPart, List.getD, Ne.symm h]

@[simp] theorem setPart_length (s : State) (i : Nat) (f : Part → Part) : (setPart s i f).parts.length = s.parts.length := by
  simp [setPart]

theorem setPart_setPart (s : State) (i : Nat) (f g : Part → Part) : setPart (setPart s i f) i g = setPart s i (fun x => g (f x)) := by
  simp only [setPart, List.modify_modify_eq]; rfl

theorem setPart_congr (s : State) {i : Nat} {f g : Part → Part} (h : f (getPart s i) = g (getPart s i)) : setPart s i f = setPart s i g := by
  simp only [setPart]
  congr 1
  refine List.ext_getElem? (fun k => ?_)
  simp only [List.getElem?_modify]
  split
  · subst k
    cases e : s.parts[i]? with
    | none => rfl
    | some x =>
      have : getPart s i = x := by simp [getPart, List.getD, e]
      rw [this] at h
      simp [h]
  · rfl

@[simp] theorem getTile_setPart (s : State) (i : Nat) (f : Part → Part) (j : Nat) : getTile (setPart s i f) j = getTile s j := rfl
@[simp] theorem getFunc_setPart (s : State) (i : Nat) (f : Part → Part) (j : Nat) : getFunc (setPart s i f) j = getFunc s j := rfl
@[simp] theorem getGey_setPart (s : State) (i : Nat) (f : Part → Part) (j : Nat) : getGey (setPart s i f) j = getGey s j := rfl
@[simp] theorem getSlice_setPart (s : State) (i : Nat) (f : Part → Part) (j : Nat) : getSlice (setPart s i f) j = getSlice s j := rfl
@[simp] theorem getDie_setPart (s : State) (i : Nat) (f : Part → Part) (j : Nat) : getDie (setPart s i f) j = getDie s j := rfl
@[simp] theorem getPort_setPart (s : State) (i : Nat) (f : Part → Part) (j : Nat) : getPort (setPart s i f) j = getPort s j := rfl
@[simp] theorem getJob_setPart (s : State) (i : Nat) (f : Part → Part) (j : Nat) : getJob (setPart s i f) j = getJob s j := rfl
@[simp] theorem getTask_setPart (s : State) (i : Nat) (f : Part → Part) (j : Nat) : getTask (setPart s i f) j = getTask s j := rfl
@[simp] theorem getStream_setPart (s : State) (i : Nat) (f : Part → Part) (j : Nat) : getStream (setPart s i f) j = getStream s j := rfl

/-! ## getFunc after setFunc -/

theorem getFunc_setFunc_self (s : State) {i : Nat} (f : Func → Func) (h : i < s.funcs.length) :
    getFunc (setFunc s i f) i = f (getFunc s i) := by
  simp [getFunc, setFunc, List.getD, List.getElem?_eq_getElem h]

@[simp] theorem getFunc_setFunc_ne (s : State) {i j : Nat} (f : Func → Func) (h : j ≠ i) : getFunc (setFunc s i f) j = getFunc s j := by
  simp [getFunc, setFunc, List.getD, Ne.symm h]

@[simp] theorem setFunc_length (s : State) (i : Nat) (f : Func → Func) : (setFunc s i f).funcs.length = s.funcs.length := by
  simp [setFunc]

theorem setFunc_setFunc (s : State) (i : Nat) (f g : Func → Func) : setFunc (setFunc s i f) i g = setFunc s i (fun x => g (f x)) := by
  simp only [setFunc, List.modify_modify_eq]; rfl

theorem setFunc_congr (s : State) {i : Nat} {f g : Func → Func} (h : f (getFunc s i) = g (getFunc s i)) : setFunc s i f = setFunc s i g := by
  simp only [setFunc]
  congr 1
  refine List.ext_getElem? (fun k => ?_)
  simp only [List.getElem?_modify]
  split
  · subst k
    cases e : s.funcs[i]? with
    | none => rfl
    | some x =>
      have : getFunc s i = x := by simp [getFunc, List.getD, e]
      rw [this] at h
      simp [h]
  · rfl

@[simp] theorem getTile_setFunc (s : State) (i : Nat) (f : Func → Func) (j : Nat) : getTile (setFunc s i f) j = getTile s j := rfl
@[simp] theorem getPart_setFunc (s : State) (i : Nat) (f : Func → Func) (j : Nat) : getPart (setFunc s i f) j = getPart s j := rfl
@[simp] theorem getGey_setFunc (s : State) (i : Nat) (f : Func → Func) (j : Nat) : getGey (setFunc s i f) j = getGey s j := rfl
@[simp] theorem getSlice_setFunc (s : State) (i : Nat) (f : Func → Func) (j : Nat) : getSlice (setFunc s i f) j = getSlice s j := rfl
@[simp] theorem getDie_setFunc (s : State) (i : Nat) (f : Func → Func) (j : Nat) : getDie (setFunc s i f) j = getDie s j := rfl
@[simp] theorem getPort_setFunc (s : State) (i : Nat) (f : Func → Func) (j : Nat) : getPort (setFunc s i f) j = getPort s j := rfl
@[simp] theorem getJob_setFunc (s : State) (i : Nat) (f : Func → Func) (j : Nat) : getJob (setFunc s i f) j = getJob s j := rfl
@[simp] theorem getTask_setFunc (s : State) (i : Nat) (f : Func → Func) (j : Nat) : getTask (setFunc s i f) j = getTask s j := rfl
@[simp] theorem getStream_setFunc (s : State) (i : Nat) (f : Func → Func) (j : Nat) : getStream (setFunc s i f) j = getStream s j := rfl

/-! ## getGey after setGey -/

theorem getGey_setGey_self (s : State) {i : Nat} (f : Gey → Gey) (h : i < s.geys.length) :
    getGey (setGey s i f) i = f (getGey s i) := by
  simp [getGey, setGey, List.getD, List.getElem?_eq_getElem h]

@[simp] theorem getGey_setGey_ne (s : State) {i j : Nat} (f : Gey → Gey) (h : j ≠ i) : getGey (setGey s i f) j = getGey s j := by
  simp [getGey, setGey, List.getD, Ne.symm h]

@[simp] theorem setGey_length (s : State) (i : Nat) (f : Gey → Gey) : (setGey s i f).geys.length = s.geys.length := by
  simp [setGey]

theorem setGey_setGey (s : State) (i : Nat) (f g : Gey → Gey) : setGey (setGey s i f) i g = setGey s i (fun x => g (f x)) := by
  simp only [setGey, List.modify_modify_eq]; rfl

theorem setGey_congr (s : State) {i : Nat} {f g : Gey → Gey} (h : f (getGey s i) = g (getGey s i)) : setGey s i f = setGey s i g := by
  simp only [setGey]
  congr 1
  refine List.ext_getElem? (fun k => ?_)
  simp only [List.getElem?_modify]
  split
  · subst k
    cases e : s.geys[i]? with
    | none => rfl
    | some x =>
      have : getGey s i = x := by simp [getGey, List.getD, e]
      rw [this] at h
      simp [h]
  · rfl

@[simp] theorem getTile_setGey (s : State) (i : Nat) (f : Gey → Gey) (j : Nat) : getTile (setGey s i f) j = getTile s j := rfl
@[simp] theorem getPart_setGey (s : State) (i : Nat) (f : Gey → Gey) (j : Nat) : getPart (setGey s i f) j = getPart s j := rfl
@[simp] theorem getFunc_setGey (s : State) (i : Nat) (f : Gey → Gey) (j : Nat) : getFunc (setGey s i f) j = getFunc s j := rfl
@[simp] theorem getSlice_setGey (s : State) (i : Nat) (f : Gey → Gey) (j : Nat) : getSlice (setGey s i f) j = getSlice s j := rfl
@[simp] theorem getDie_setGey (s : State) (i : Nat) (f : Gey → Gey) (j : Nat) : getDie (setGey s i f) j = getDie s j := rfl
@[simp] theorem getPort_setGey (s : State) (i : Nat) (f : Gey → Gey) (j : Nat) : getPort (setGey s i f) j = getPort s j := rfl
@[simp] theorem getJob_setGey (s : State) (i : Nat) (f : Gey → Gey) (j : Nat) : getJob (setGey s i f) j = getJob s j := rfl
@[simp] theorem getTask_setGey (s : State) (i : Nat) (f : Gey → Gey) (j : Nat) : getTask (setGey s i f) j = getTask s j := rfl
@[simp] theorem getStream_setGey (s : State) (i : Nat) (f : Gey → Gey) (j : Nat) : getStream (setGey s i f) j = getStream s j := rfl

/-! ## getSlice after setSlice -/

theorem getSlice_setSlice_self (s : State) {i : Nat} (f : Slice → Slice) (h : i < s.slices.length) :
    getSlice (setSlice s i f) i = f (getSlice s i) := by
  simp [getSlice, setSlice, List.getD, List.getElem?_eq_getElem h]

@[simp] theorem getSlice_setSlice_ne (s : State) {i j : Nat} (f : Slice → Slice) (h : j ≠ i) : getSlice (setSlice s i f) j = getSlice s j := by
  simp [getSlice, setSlice, List.getD, Ne.symm h]

@[simp] theorem setSlice_length (s : State) (i : Nat) (f : Slice → Slice) : (setSlice s i f).slices.length = s.slices.length := by
  simp [setSlice]

theorem setSlice_setSlice (s : State) (i : Nat) (f g : Slice → Slice) : setSlice (setSlice s i f) i g = setSlice s i (fun x => g (f x)) := by
  simp only [setSlice, List.modify_modify_eq]; rfl

theorem setSlice_congr (s : State) {i : Nat} {f g : Slice → Slice} (h : f (getSlice s i) = g (getSlice s i)) : setSlice s i f = setSlice s i g := by
  simp only [setSlice]
  congr 1
  refine List.ext_getElem? (fun k => ?_)
  simp only [List.getElem?_modify]
  split
  · subst k
    cases e : s.slices[i]? with
    | none => rfl
    | some x =>
      have : getSlice s i = x := by simp [getSlice, List.getD, e]
      rw [this] at h
      simp [h]
  · rfl

@[simp] theorem getTile_setSlice (s : State) (i : Nat) (f : Slice → Slice) (j : Nat) : getTile (setSlice s i f) j = getTile s j := rfl
@[simp] theorem getPart_setSlice (s : State) (i : Nat) (f : Slice → Slice) (j : Nat) : getPart (setSlice s i f) j = getPart s j := rfl
@[simp] theorem getFunc_setSlice (s : State) (i : Nat) (f : Slice → Slice) (j : Nat) : getFunc (setSlice s i f) j = getFunc s j := rfl
@[simp] theorem getGey_setSlice (s : State) (i : Nat) (f : Slice → Slice) (j : Nat) : getGey (setSlice s i f) j = getGey s j := rfl
@[simp] theorem getDie_setSlice (s : State) (i : Nat) (f : Slice → Slice) (j : Nat) : getDie (setSlice s i f) j = getDie s j := rfl
@[simp] theorem getPort_setSlice (s : State) (i : Nat) (f : Slice → Slice) (j : Nat) : getPort (setSlice s i f) j = getPort s j := rfl
@[simp] theorem getJob_setSlice (s : State) (i : Nat) (f : Slice → Slice) (j : Nat) : getJob (setSlice s i f) j = getJob s j := rfl
@[simp] theorem getTask_setSlice (s : State) (i : Nat) (f : Slice → Slice) (j : Nat) : getTask (setSlice s i f) j = getTask s j := rfl
@[simp] theorem getStream_setSlice (s : State) (i : Nat) (f : Slice → Slice) (j : Nat) : getStream (setSlice s i f) j = getStream s j := rfl

/-! ## getDie after setDie -/

theorem getDie_setDie_self (s : State) {i : Nat} (f : Die → Die) (h : i < s.dies.length) :
    getDie (setDie s i f) i = f (getDie s i) := by
  simp [getDie, setDie, List.getD, List.getElem?_eq_getElem h]

@[simp] theorem getDie_setDie_ne (s : State) {i j : Nat} (f : Die → Die) (h : j ≠ i) : getDie (setDie s i f) j = getDie s j := by
  simp [getDie, setDie, List.getD, Ne.symm h]

@[simp] theorem setDie_length (s : State) (i : Nat) (f : Die → Die) : (setDie s i f).dies.length = s.dies.length := by
  simp [setDie]

theorem setDie_setDie (s : State) (i : Nat) (f g : Die → Die) : setDie (setDie s i f) i g = setDie s i (fun x => g (f x)) := by
  simp only [setDie, List.modify_modify_eq]; rfl

theorem setDie_congr (s : State) {i : Nat} {f g : Die → Die} (h : f (getDie s i) = g (getDie s i)) : setDie s i f = setDie s i g := by
  simp only [setDie]
  congr 1
  refine List.ext_getElem? (fun k => ?_)
  simp only [List.getElem?_modify]
  split
  · subst k
    cases e : s.dies[i]? with
    | none => rfl
    | some x =>
      have : getDie s i = x := by simp [getDie, List.getD, e]
      rw [this] at h
      simp [h]
  · rfl

@[simp] theorem getTile_setDie (s : State) (i : Nat) (f : Die → Die) (j : Nat) : getTile (setDie s i f) j = getTile s j := rfl
@[simp] theorem getPart_setDie (s : State) (i : Nat) (f : Die → Die) (j : Nat) : getPart (setDie s i f) j = getPart s j := rfl
@[simp] theorem getFunc_setDie (s : State) (i : Nat) (f : Die → Die) (j : Nat) : getFunc (setDie s i f) j = getFunc s j := rfl
@[simp] theorem getGey_setDie (s : State) (i : Nat) (f : Die → Die) (j : Nat) : getGey (setDie s i f) j = getGey s j := rfl
@[simp] theorem getSlice_setDie (s : State) (i : Nat) (f : Die → Die) (j : Nat) : getSlice (setDie s i f) j = getSlice s j := rfl
@[simp] theorem getPort_setDie (s : State) (i : Nat) (f : Die → Die) (j : Nat) : getPort (setDie s i f) j = getPort s j := rfl
@[simp] theorem getJob_setDie (s : State) (i : Nat) (f : Die → Die) (j : Nat) : getJob (setDie s i f) j = getJob s j := rfl
@[simp] theorem getTask_setDie (s : State) (i : Nat) (f : Die → Die) (j : Nat) : getTask (setDie s i f) j = getTask s j := rfl
@[simp] theorem getStream_setDie (s : State) (i : Nat) (f : Die → Die) (j : Nat) : getStream (setDie s i f) j = getStream s j := rfl

/-! ## getPort after setPort -/

theorem getPort_setPort_self (s : State) {i : Nat} (f : Port → Port) (h : i < s.ports.length) :
    getPort (setPort s i f) i = f (getPort s i) := by
  simp [getPort, setPort, List.getD, List.getElem?_eq_getElem h]

@[simp] theorem getPort_setPort_ne (s : State) {i j : Nat} (f : Port → Port) (h : j ≠ i) : getPort (setPort s i f) j = getPort s j := by
  simp [getPort, setPort, List.getD, Ne.symm h]

@[simp] theorem setPort_length (s : State) (i : Nat) (f : Port → Port) : (setPort s i f).ports.length = s.ports.length := by
  simp [setPort]

theorem setPort_setPort (s : State) (i : Nat) (f g : Port → Port) : setPort (setPort s i f) i g = setPort s i (fun x => g (f x)) := by
  simp only [setPort, List.modify_modify_eq]; rfl

theorem setPort_congr (s : State) {i : Nat} {f g : Port → Port} (h : f (getPort s i) = g (getPort s i)) : setPort s i f = setPort s i g := by
  simp only [setPort]
  congr 1
  refine List.ext_getElem? (fun k => ?_)
  simp only [List.getElem?_modify]
  split
  · subst k
    cases e : s.ports[i]? with
    | none => rfl
    | some x =>
      have : getPort s i = x := by simp [getPort, List.getD, e]
      rw [this] at h
      simp [h]
  · rfl

@[simp] theorem getTile_setPort (s : State) (i : Nat) (f : Port → Port) (j : Nat) : getTile (setPort s i f) j = getTile s j := rfl
@[simp] theorem getPart_setPort (s : State) (i : Nat) (f : Port → Port) (j : Nat) : getPart (setPort s i f) j = getPart s j := rfl
@[simp] theorem getFunc_setPort (s : State) (i : Nat) (f : Port → Port) (j : Nat) : getFunc (setPort s i f) j = getFunc s j := rfl
@[simp] theorem getGey_setPort (s : State) (i : Nat) (f : Port → Port) (j : Nat) : getGey (setPort s i f) j = getGey s j := rfl
@[simp] theorem getSlice_setPort (s : State) (i : Nat) (f : Port → Port) (j : Nat) : getSlice (setPort s i f) j = getSlice s j := rfl
@[simp] theorem getDie_setPort (s : State) (i : Nat) (f : Port → Port) (j : Nat) : getDie (setPort s i f) j = getDie s j := rfl
@[simp] theorem getJob_setPort (s : State) (i : Nat) (f : Port → Port) (j : Nat) : getJob (setPort s i f) j = getJob s j := rfl
@[simp] theorem getTask_setPort (s : State) (i : Nat) (f : Port → Port) (j : Nat) : getTask (setPort s i f) j = getTask s j := rfl
@[simp] theorem getStream_setPort (s : State) (i : Nat) (f : Port → Port) (j : Nat) : getStream (setPort s i f) j = getStream s j := rfl

/-! ## getJob after setJob -/

@[simp] theorem getJob_setJob_self (s : State) (i : Nat) (f : Job → Job) : getJob (setJob s i f) i = (getJob s i).map f := by
  simp [getJob, setJob]

@[simp] theorem getJob_setJob_ne (s : State) {i j : Nat} (f : Job → Job) (h : j ≠ i) : getJob (setJob s i f) j = getJob s j := by
  simp [getJob, setJob, tGet_tMod_ne _ _ h]

@[simp] theorem getTile_setJob (s : State) (i : Nat) (f : Job → Job) (j : Nat) : getTile (setJob s i f) j = getTile s j := rfl
@[simp] theorem getPart_setJob (s : State) (i : Nat) (f : Job → Job) (j : Nat) : getPart (setJob s i f) j = getPart s j := rfl
@[simp] theorem getFunc_setJob (s : State) (i : Nat) (f : Job → Job) (j : Nat) : getFunc (setJob s i f) j = getFunc s j := rfl
@[simp] theorem getGey_setJob (s : State) (i : Nat) (f : Job → Job) (j : Nat) : getGey (setJob s i f) j = getGey s j := rfl
@[simp] theorem getSlice_setJob (s : State) (i : Nat) (f : Job → Job) (j : Nat) : getSlice (setJob s i f) j = getSlice s j := rfl
@[simp] theorem getDie_setJob (s : State) (i : Nat) (f : Job → Job) (j : Nat) : getDie (setJob s i f) j = getDie s j := rfl
@[simp] theorem getPort_setJob (s : State) (i : Nat) (f : Job → Job) (j : Nat) : getPort (setJob s i f) j = getPort s j := rfl
@[simp] theorem getTask_setJob (s : State) (i : Nat) (f : Job → Job) (j : Nat) : getTask (setJob s i f) j = getTask s j := rfl
@[simp] theorem getStream_setJob (s : State) (i : Nat) (f : Job → Job) (j : Nat) : getStream (setJob s i f) j = getStream s j := rfl

/-! ## getTask after setTask -/

@[simp] theorem getTask_setTask_self (s : State) (i : Nat) (f : Task → Task) : getTask (setTask s i f) i = (getTask s i).map f := by
  simp [getTask, setTask]

@[simp] theorem getTask_setTask_ne (s : State) {i j : Nat} (f : Task → Task) (h : j ≠ i) : getTask (setTask s i f) j = getTask s j := by
  simp [getTask, setTask, tGet_tMod_ne _ _ h]

@[simp] theorem getTile_setTask (s : State) (i : Nat) (f : Task → Task) (j : Nat) : getTile (setTask s i f) j = getTile s j := rfl
@[simp] theorem getPart_setTask (s : State) (i : Nat) (f : Task → Task) (j : Nat) : getPart (setTask s i f) j = getPart s j := rfl
@[simp] theorem getFunc_setTask (s : State) (i : Nat) (f : Task → Task) (j : Nat) : getFunc (setTask s i f) j = getFunc s j := rfl
@[simp] theorem getGey_setTask (s : State) (i : Nat) (f : Task → Task) (j : Nat) : getGey (setTask s i f) j = getGey s j := rfl
@[simp] theorem getSlice_setTask (s : State) (i : Nat) (f : Task → Task) (j : Nat) : getSlice (setTask s i f) j = getSlice s j := rfl
@[simp] theorem getDie_setTask (s : State) (i : Nat) (f : Task → Task) (j : Nat) : getDie (setTask s i f) j = getDie s j := rfl
@[simp] theorem getPort_setTask (s : State) (i : Nat) (f : Task → Task) (j : Nat) : getPort (setTask s i f) j = getPort s j := rfl
@[simp] theorem getJob_setTask (s : State) (i : Nat) (f : Task → Task) (j : Nat) : getJob (setTask s i f) j = getJob s j := rfl
@[simp] theorem getStream_setTask (s : State) (i : Nat) (f : Task → Task) (j : Nat) : getStream (setTask s i f) j = getStream s j := rfl

/-! ## getStream after setStream -/

@[simp] theorem getStream_setStream_self (s : State) (i : Nat) (f : Stream → Stream) : getStream (setStream s i f) i = (getStream s i).map f := by
  simp [getStream, setStream]

@[simp] theorem getStream_setStream_ne (s : State) {i j : Nat} (f : Stream → Stream) (h : j ≠ i) : getStream (setStream s i f) j = getStream s j := by
  simp [getStream, setStream, tGet_tMod_ne _ _ h]

@[simp] theorem getTile_setStream (s : State) (i : Nat) (f : Stream → Stream) (j : Nat) : getTile (setStream s i f) j = getTile s j := rfl
@[simp] theorem getPart_setStream (s : State) (i : Nat) (f : Stream → Stream) (j : Nat) : getPart (setStream s i f) j = getPart s j := rfl
@[simp] theorem getFunc_setStream (s : State) (i : Nat) (f : Stream → Stream) (j : Nat) : getFunc (setStream s i f) j = getFunc s j := rfl
@[simp] theorem getGey_setStream (s : State) (i : Nat) (f : Stream → Stream) (j : Nat) : getGey (setStream s i f) j = getGey s j := rfl
@[simp] theorem getSlice_setStream (s : State) (i : Nat) (f : Stream → Stream) (j : Nat) : getSlice (setStream s i f) j = getSlice s j := rfl
@[simp] theorem getDie_setStream (s : State) (i : Nat) (f : Stream → Stream) (j : Nat) : getDie (setStream s i f) j = getDie s j := rfl
@[simp] theorem getPort_setStream (s : State) (i : Nat) (f : Stream → Stream) (j : Nat) : getPort (setStream s i f) j = getPort s j := rfl
@[simp] theorem getJob_setStream (s : State) (i : Nat) (f : Stream → Stream) (j : Nat) : getJob (setStream s i f) j = getJob s j := rfl
@[simp] theorem getTask_setStream (s : State) (i : Nat) (f : Stream → Stream) (j : Nat) : getTask (setStream s i f) j = getTask s j := rfl

end Sys2Proof.Machine
end

