-- ==== Sys2Proof/Laws/Memory.lean ====
section
/-! SUPPORT. Laws of device memory and host memory: every operation keeps the canonical form, a read of what was written gives it,
any other byte reads as before. -/

namespace Sys2Proof.Machine

/-! ## The canonical form -/

theorem Memory.wf_reset : Memory.wf State.reset.mem ∧ Memory.wf State.reset.host := ⟨sWf_nil, sWf_nil⟩

theorem devWrite_wf {s : State} (h : Memory.wf s.mem) (ws : List (Nat × Byte)) : Memory.wf (devWrite s ws).mem := sWf_sPutAll h ws

theorem devZero_wf {s : State} (h : Memory.wf s.mem) (a n : Nat) : Memory.wf (devZero s a n).mem := sWf_sClear h a n

theorem hostWrite_wf {s : State} (h : Memory.wf s.host) (a : Nat) (bs : List Byte) : Memory.wf (hostWrite s a bs).host :=
  sWf_sPutAll h _

/-- Bytes written to host memory one by one, through regions, change host memory only, and keep its form. -/
theorem byteWrites_only (rs : List Region) (ws : List (Nat × Byte)) (s : State) :
    ws.foldl (byteWrite rs) s = { s with host := (ws.foldl (byteWrite rs) s).host } := by
  induction ws generalizing s with
  | nil => rfl
  | cons w r ih =>
    have h1 : byteWrite rs s w = { s with host := (byteWrite rs s w).host } := by
      unfold byteWrite
      split <;> rfl
    rw [List.foldl_cons, ih, h1]

theorem byteWrites_wf (rs : List Region) (ws : List (Nat × Byte)) {s : State} (h : Memory.wf s.host) :
    Memory.wf (ws.foldl (byteWrite rs) s).host := by
  induction ws generalizing s with
  | nil => exact h
  | cons w r ih =>
    rw [List.foldl_cons]
    refine ih ?_
    unfold byteWrite
    split
    · exact hostWrite_wf h _ _
    · exact h

/-- A write at a device physical address changes device memory or host memory only. -/
theorem dpaWrite_only (s : State) (rs : List Region) (a : Nat) (bs : List Byte) :
    dpaWrite s rs a bs = { s with
      mem := (dpaWrite s rs a bs).mem, host := (dpaWrite s rs a bs).host, badWords := (dpaWrite s rs a bs).badWords } := by
  unfold dpaWrite
  split
  · split
    · rfl
    · split
      · rfl
      · rw [byteWrites_only]
  · rfl
  · rfl

theorem dpaWrite_wf {s : State} (h : Memory.wf s.mem) (hh : Memory.wf s.host) (rs : List Region) (a : Nat) (bs : List Byte) :
    Memory.wf (dpaWrite s rs a bs).mem ∧ Memory.wf (dpaWrite s rs a bs).host := by
  unfold dpaWrite
  split
  · split
    · exact ⟨h, hh⟩
    · split
      · exact ⟨h, hostWrite_wf hh _ _⟩
      · exact ⟨by rw [byteWrites_only]; exact h, byteWrites_wf _ _ hh⟩
  · exact ⟨h, hh⟩
  · exact ⟨devWrite_wf h _, hh⟩

/-! ## Reads after writes -/

theorem mem_addrs {a n x : Nat} : x ∈ addrs a n ↔ a ≤ x ∧ x < a + n := by
  simp only [addrs, List.mem_map, List.mem_range]
  constructor
  · rintro ⟨k, hk, rfl⟩
    omega
  · rintro ⟨h1, h2⟩
    exact ⟨x - a, by omega, by omega⟩

theorem addrs_length (a n : Nat) : (addrs a n).length = n := by simp [addrs]

theorem asWrites_fst (a : Nat) (bs : List Byte) : (asWrites a bs).map Prod.fst = addrs a bs.length := by
  unfold asWrites
  rw [List.map_fst_zip]
  simp [addrs_length]

theorem addrs_nodup (a n : Nat) : (addrs a n).Nodup := by
  unfold addrs
  exact List.Pairwise.map _ (fun x y (h : x ≠ y) => by omega) (List.nodup_range (n := n))

theorem mem_asWrites {a : Nat} {bs : List Byte} {i : Nat} (h : i < bs.length) : (a + i, bs[i]) ∈ asWrites a bs := by
  unfold asWrites
  rw [List.mem_iff_getElem]
  refine ⟨i, by simp [addrs_length, h], ?_⟩
  simp [addrs]

theorem rdBytes_length (d : Byte) (m : List Host.Cell) (a n : Nat) : (rdBytes d m a n).length = n := by simp [rdBytes, addrs]

/-- What was written is read. -/
theorem rdBytes_put_self {m : List Host.Cell} (h : Memory.wf m) (a : Nat) (bs : List Byte) :
    rdBytes memFill (memPutAll m (asWrites a bs)) a bs.length = bs := by
  refine List.ext_getElem (rdBytes_length _ _ _ _) (fun i h1 h2 => ?_)
  simp only [rdBytes, addrs, List.getElem_map, List.getElem_range]
  exact sGet_sPutAll_mem h (by rw [asWrites_fst]; exact addrs_nodup _ _) (mem_asWrites h2)

/-- A byte outside what was written reads as before. -/
theorem memGet_put_other (m : List Host.Cell) {a x : Nat} {bs : List Byte} (h : x < a ∨ a + bs.length ≤ x) :
    memGet (memPutAll m (asWrites a bs)) x = memGet m x := by
  refine sGet_sPutAll_ne _ _ (fun e he hx => ?_)
  have : e.1 ∈ addrs a bs.length := asWrites_fst a bs ▸ List.mem_map_of_mem he
  rw [mem_addrs] at this
  omega

theorem devRead_devWrite_self {s : State} (h : Memory.wf s.mem) (a : Nat) (bs : List Byte) :
    devRead (devWrite s (asWrites a bs)) a bs.length = bs := rdBytes_put_self h a bs

theorem hostRead_hostWrite_self {s : State} (h : Memory.wf s.host) (a : Nat) (bs : List Byte) :
    hostRead (hostWrite s a bs) a bs.length = bs := rdBytes_put_self h a bs

theorem devRead_devWrite_other (s : State) {a x n : Nat} {bs : List Byte} (h : overlap x n a bs.length = false) :
    devRead (devWrite s (asWrites a bs)) x n = devRead s x n := by
  refine List.map_congr_left (fun y hy => ?_)
  rw [mem_addrs] at hy
  simp only [overlap, Bool.and_eq_false_imp, decide_eq_true_eq, decide_eq_false_iff_not] at h
  refine memGet_put_other _ ?_
  by_cases hl : bs.length = 0
  · omega
  · have := h; omega

/-- A cleared range reads as zeros, any other byte as before. -/
theorem sGet_sClear {α : Type} {d : α} (l : Sparse α) (a n x : Nat) :
    sGet d (sClear l a n) x = if a ≤ x ∧ x < a + n then d else sGet d l x := by
  induction l with
  | nil => simp [sClear, sGet]
  | cons e r ih =>
    obtain ⟨k, v⟩ := e
    unfold sClear at ih ⊢
    by_cases hk : a ≤ k ∧ k < a + n
    · simp only [List.filter_cons, hk.1, hk.2, decide_true, Bool.and_self, Bool.not_true, Bool.false_eq_true, if_false, ih, sGet]
      by_cases hx : x = k
      · subst hx; simp [hk]
      · simp [hx]
    · have : (!(decide (a ≤ k) && decide (k < a + n))) = true := by
        simp only [Bool.not_eq_true', Bool.and_eq_false_imp, decide_eq_true_eq, decide_eq_false_iff_not]
        exact fun h1 h2 => hk ⟨h1, h2⟩
      simp only [List.filter_cons, this, if_true, sGet, ih]
      by_cases hx : x = k
      · subst hx; simp [hk]
      · simp [hx]

theorem memGet_devZero (s : State) (a n x : Nat) :
    memGet (devZero s a n).mem x = if a ≤ x ∧ x < a + n then memFill else memGet s.mem x := sGet_sClear _ _ _ _

/-! ## Good states -/

/-- An operation that keeps the two memories, the counts of the units and every engine keeps `State.Good`. -/
theorem State.Good.of_same {s s' : State} (h : s.Good) (hm : s'.mem = s.mem) (hh : s'.host = s.host) (hu : s.Units → s'.Units)
    (he : ∀ x ∈ s'.tiles, x.eng.Wf) : s'.Good := ⟨hm ▸ h.1, hh ▸ h.2.1, hu h.2.2.1, he⟩

/-- An update of one tile that keeps its engine's canonical form. -/
theorem State.Good.setTile {s : State} (h : s.Good) (t : Nat) {f : Tile → Tile} (hf : ∀ x, x.eng.Wf → (f x).eng.Wf) :
    (setTile s t f).Good := by
  refine ⟨h.1, h.2.1, ?_, ?_⟩
  · obtain ⟨a, b, c, d, e, f', g, k⟩ := h.2.2.1
    exact ⟨a, b, c, by simp [Machine.setTile, d], e, f', g, k⟩
  · intro x hx
    obtain ⟨i, hi, rfl⟩ := List.mem_iff_getElem.1 hx
    simp only [Machine.setTile, List.length_modify] at hi
    have hw := h.2.2.2 _ (List.getElem_mem hi)
    simp only [Machine.setTile, List.getElem_modify]
    split
    · exact hf _ hw
    · exact hw

theorem State.Good.devWrite {s : State} (h : s.Good) (ws : List (Nat × Byte)) : (devWrite s ws).Good :=
  ⟨devWrite_wf h.1 ws, h.2.1, h.2.2.1, h.2.2.2⟩

theorem State.Good.devZero {s : State} (h : s.Good) (a n : Nat) : (devZero s a n).Good :=
  ⟨devZero_wf h.1 a n, h.2.1, h.2.2.1, h.2.2.2⟩

theorem State.Good.hostWrite {s : State} (h : s.Good) (a : Nat) (bs : List Byte) : (hostWrite s a bs).Good :=
  ⟨h.1, hostWrite_wf h.2.1 a bs, h.2.2.1, h.2.2.2⟩

theorem State.Good.dpaWrite {s : State} (h : s.Good) (rs : List Region) (a : Nat) (bs : List Byte) : (dpaWrite s rs a bs).Good := by
  unfold Machine.dpaWrite
  split
  · split
    · exact h
    · split
      · exact h.hostWrite _ _
      · rw [byteWrites_only]
        exact ⟨h.1, byteWrites_wf _ _ h.2.1, h.2.2.1, h.2.2.2⟩
  · exact h
  · exact h.devWrite _

/-- A fold of an operation that keeps `State.Good` keeps it. -/
theorem State.Good.forAll {α : Type} {s : State} (h : s.Good) (l : List α) {f : State → α → State} (hf : ∀ s x, s.Good → (f s x).Good) :
    (forAll s l f).Good := by
  unfold Machine.forAll
  induction l generalizing s with
  | nil => exact h
  | cons x r ih => exact ih (hf s x h)

end Sys2Proof.Machine
end

