-- ==== Sys2Proof/Laws/Dci.lean ====
section
/-! SUPPORT. What the answer to a DCI command does: the checks that a command in question passes, what a completion changes. -/

namespace Sys2Proof.Machine

/-! ## Folds -/

/-- What every step of a fold keeps, the fold keeps. -/
theorem forAll_inv {α : Type} (P : State → Prop) {f : State → α → State} (hf : ∀ s x, P s → P (f s x)) :
    ∀ (l : List α) (s : State), P s → P (forAll s l f) := by
  intro l
  induction l with
  | nil => exact fun s h => h
  | cons x r ih => exact fun s h => ih _ (hf s x h)

@[simp] theorem forAll_nil {α : Type} (s : State) (f : State → α → State) : forAll s [] f = s := rfl
@[simp] theorem forAll_cons {α : Type} (s : State) (x : α) (l : List α) (f : State → α → State) :
    forAll s (x :: l) f = forAll (f s x) l f := rfl

/-! ## Carrying a command out -/

/-- A command that is not held back and whose checks pass is answered with what it comes to. -/
theorem dciRun_pass {s : State} {i : Instr} {h : DciHdr} {f : Unit → DciRes} (hf : dciHeld s i h = false) :
    dciRun s i h none f = dciAnswer s h (f ()) := by simp [dciRun, hf]

/-- The first check that fails is the status, and nothing else happens. -/
theorem dciRun_fail {s : State} {i : Instr} {h : DciHdr} {f : Unit → DciRes} {st : Nat} (hf : dciHeld s i h = false) :
    dciRun s i h (some st) f = dciComplete s h.fn h.tag st 0 0 := by simp [dciRun, hf, dciAnswer]

/-- A command that is held back changes nothing. -/
theorem dciRun_held {s : State} {i : Instr} {h : DciHdr} {c : Option Nat} {f : Unit → DciRes} (hf : dciHeld s i h = true) :
    dciRun s i h c f = s := by simp [dciRun, hf]

@[simp] theorem dciAnswer_fail (s : State) (h : DciHdr) (st : Nat) : dciAnswer s h (.fail st) = dciComplete s h.fn h.tag st 0 0 := rfl
@[simp] theorem dciAnswer_done (s s1 : State) (h : DciHdr) (st r d : Nat) :
    dciAnswer s h (.done s1 st r d) = dciComplete s1 h.fn h.tag st r d := rfl
@[simp] theorem dciAnswer_wait (s s1 : State) (h : DciHdr) : dciAnswer s h (.wait s1) = setStage s1 h .waiting := rfl
@[simp] theorem dciAnswer_hold (s : State) (h : DciHdr) : dciAnswer s h .hold = setStage s h .taken := rfl

/-! ## Completions -/

/-- The states that differ from one in host memory and the functions' registers only. -/
def HostOnly (s s' : State) : Prop := s' = { s with host := s'.host, funcs := s'.funcs }

theorem HostOnly.refl (s : State) : HostOnly s s := rfl

theorem HostOnly.trans {a b c : State} (h1 : HostOnly a b) (h2 : HostOnly b c) : HostOnly a c := by
  unfold HostOnly at *
  rw [h2, h1]

theorem hostOnly_setFunc (s : State) (fn : Nat) (f : Func → Func) : HostOnly s (setFunc s fn f) := rfl
theorem hostOnly_hostWrite (s : State) (a : Nat) (bs : List Byte) : HostOnly s (hostWrite s a bs) := rfl

theorem hostOnly_fireVector (s : State) (fn v : Nat) : HostOnly s (fireVector s fn v) := by
  unfold fireVector
  split
  · exact .refl s
  · split
    · exact hostOnly_setFunc s _ _
    · exact (hostOnly_hostWrite s _ _).trans (hostOnly_setFunc _ _ _)

theorem hostOnly_cqDrain (s : State) (fn : Nat) : HostOnly s (cqDrain s fn) := by
  unfold cqDrain
  simp only
  split
  · exact .refl s
  · have h1 : HostOnly s (forAll (setFunc s fn (fun x => { x with
        cqHeld := x.cqHeld.drop ((getFunc s fn).cqHeld.take (cqRoom (getFunc s fn))).length }))
        ((getFunc s fn).cqHeld.take (cqRoom (getFunc s fn))) (fun s c => cqWriteOne s fn c)) :=
      forAll_inv (HostOnly s) (fun s' c h => h.trans ((hostOnly_hostWrite s' _ _).trans (hostOnly_setFunc _ _ _))) _ _
        (hostOnly_setFunc s _ _)
    split
    · exact h1.trans (hostOnly_fireVector _ _ _)
    · exact h1

/-- A completion changes host memory and the function's registers only. -/
theorem hostOnly_dciComplete (s : State) (fn : Nat) (tag : W32) (st r d : Nat) : HostOnly s (dciComplete s fn tag st r d) :=
  (hostOnly_setFunc s _ _).trans (hostOnly_cqDrain _ _)

/-- Completing waiting commands changes host memory, the functions' registers and the list of those that wait, from which it takes
exactly those of which the test holds. -/
theorem completeWaiters_only (s : State) (p : Waiter → Bool) (st r d : Nat) :
    HostOnly { s with waiters := s.waiters.filter (fun w => !p w) } (completeWaiters s p st r d) :=
  forAll_inv (HostOnly _) (fun s' _ h => h.trans (hostOnly_dciComplete s' _ _ _ _ _)) _ _ (.refl _)

@[simp] theorem dciComplete_mem (s : State) (fn : Nat) (tag : W32) (st r d : Nat) : (dciComplete s fn tag st r d).mem = s.mem := by
  rw [hostOnly_dciComplete s fn tag st r d]
@[simp] theorem dciComplete_tiles (s : State) (fn : Nat) (tag : W32) (st r d : Nat) : (dciComplete s fn tag st r d).tiles = s.tiles := by
  rw [hostOnly_dciComplete s fn tag st r d]
@[simp] theorem dciComplete_parts (s : State) (fn : Nat) (tag : W32) (st r d : Nat) : (dciComplete s fn tag st r d).parts = s.parts := by
  rw [hostOnly_dciComplete s fn tag st r d]
@[simp] theorem dciComplete_jobs (s : State) (fn : Nat) (tag : W32) (st r d : Nat) : (dciComplete s fn tag st r d).jobs = s.jobs := by
  rw [hostOnly_dciComplete s fn tag st r d]
@[simp] theorem dciComplete_streams (s : State) (fn : Nat) (tag : W32) (st r d : Nat) :
    (dciComplete s fn tag st r d).streams = s.streams := by rw [hostOnly_dciComplete s fn tag st r d]
@[simp] theorem dciComplete_waiters (s : State) (fn : Nat) (tag : W32) (st r d : Nat) :
    (dciComplete s fn tag st r d).waiters = s.waiters := by rw [hostOnly_dciComplete s fn tag st r d]
@[simp] theorem dciComplete_ports (s : State) (fn : Nat) (tag : W32) (st r d : Nat) : (dciComplete s fn tag st r d).ports = s.ports := by
  rw [hostOnly_dciComplete s fn tag st r d]
@[simp] theorem completeWaiters_waiters (s : State) (p : Waiter → Bool) (st r d : Nat) :
    (completeWaiters s p st r d).waiters = s.waiters.filter (fun w => !p w) := by rw [completeWaiters_only s p st r d]
@[simp] theorem completeWaiters_mem (s : State) (p : Waiter → Bool) (st r d : Nat) : (completeWaiters s p st r d).mem = s.mem := by
  rw [completeWaiters_only s p st r d]

/-! ## Records of the log -/

/-- A change is recorded in the log and nowhere else. -/
theorem logChange_only (s : State) (source scope code object field : Nat) (old new : List Byte) :
    logChange s source scope code object field old new
      = { s with log := (logChange s source scope code object field old new).log } := by
  unfold logChange
  split
  · rfl
  · refine forAll_inv (fun x => x = { s with log := x.log }) (fun x k h => ?_) _ _ rfl
    show logAdd x _ = _
    unfold logAdd
    rw [h]

/-- An event of a partition goes to its queue, and binds the lost errors of that queue. -/
theorem postPart_only (s : State) (p : Nat) (e : Event) :
    postPart s p e = { s with errors := (postPart s p e).errors, parts := (postPart s p e).parts } := rfl

/-- An event of the device goes to its queue, the log and the management port. -/
theorem postDev_only (s : State) (e : Event) :
    postDev s e = { s with
      log := (postDev s e).log, errors := (postDev s e).errors, devQueue := (postDev s e).devQueue,
      freeCtr := (postDev s e).freeCtr, mgt := (postDev s e).mgt } := by
  unfold postDev logAdd
  simp only
  split <;> split <;> split <;> rfl

end Sys2Proof.Machine
end

