-- ==== Sys2Proof/Laws/Exec.lean ====
section
/-! SUPPORT. What exec runs for each command: the meaning of its row. -/

namespace Sys2Proof.Machine

@[simp] theorem exec_mxeWload (t : Nat) (a : WloadArgs) (s : State) : exec (.mxeWload t a) s = execMxeWload t a s := rfl
@[simp] theorem exec_mxeMma (t : Nat) (a : MmaArgs) (s : State) : exec (.mxeMma t a) s = execMxeMma t a s := rfl
@[simp] theorem exec_mxeDrain (t : Nat) (a : DrainArgs) (s : State) : exec (.mxeDrain t a) s = execMxeDrain t a s := rfl
@[simp] theorem exec_vadd (t : Nat) (a : VArgs) (s : State) : exec (.vadd t a) s = execVadd t a s := rfl
@[simp] theorem exec_vsub (t : Nat) (a : VArgs) (s : State) : exec (.vsub t a) s = execVsub t a s := rfl
@[simp] theorem exec_vmul (t : Nat) (a : VArgs) (s : State) : exec (.vmul t a) s = execVmul t a s := rfl
@[simp] theorem exec_vfma (t : Nat) (a : VArgs) (s : State) : exec (.vfma t a) s = execVfma t a s := rfl
@[simp] theorem exec_vdiv (t : Nat) (a : VArgs) (s : State) : exec (.vdiv t a) s = execVdiv t a s := rfl
@[simp] theorem exec_vmin (t : Nat) (a : VArgs) (s : State) : exec (.vmin t a) s = execVmin t a s := rfl
@[simp] theorem exec_vmax (t : Nat) (a : VArgs) (s : State) : exec (.vmax t a) s = execVmax t a s := rfl
@[simp] theorem exec_vrcp (t : Nat) (a : VArgs) (s : State) : exec (.vrcp t a) s = execVrcp t a s := rfl
@[simp] theorem exec_vrsqrt (t : Nat) (a : VArgs) (s : State) : exec (.vrsqrt t a) s = execVrsqrt t a s := rfl
@[simp] theorem exec_vexp (t : Nat) (a : VArgs) (s : State) : exec (.vexp t a) s = execVexp t a s := rfl
@[simp] theorem exec_vexp2 (t : Nat) (a : VArgs) (s : State) : exec (.vexp2 t a) s = execVexp2 t a s := rfl
@[simp] theorem exec_vlog (t : Nat) (a : VArgs) (s : State) : exec (.vlog t a) s = execVlog t a s := rfl
@[simp] theorem exec_vtanh (t : Nat) (a : VArgs) (s : State) : exec (.vtanh t a) s = execVtanh t a s := rfl
@[simp] theorem exec_vsigm (t : Nat) (a : VArgs) (s : State) : exec (.vsigm t a) s = execVsigm t a s := rfl
@[simp] theorem exec_vgelu (t : Nat) (a : VArgs) (s : State) : exec (.vgelu t a) s = execVgelu t a s := rfl
@[simp] theorem exec_vsilu (t : Nat) (a : VArgs) (s : State) : exec (.vsilu t a) s = execVsilu t a s := rfl
@[simp] theorem exec_vabs (t : Nat) (a : VArgs) (s : State) : exec (.vabs t a) s = execVabs t a s := rfl
@[simp] theorem exec_vneg (t : Nat) (a : VArgs) (s : State) : exec (.vneg t a) s = execVneg t a s := rfl
@[simp] theorem exec_vcmp (t : Nat) (a : VArgs) (s : State) : exec (.vcmp t a) s = execVcmp t a s := rfl
@[simp] theorem exec_vsel (t : Nat) (a : VArgs) (s : State) : exec (.vsel t a) s = execVsel t a s := rfl
@[simp] theorem exec_vcvtF2i (t : Nat) (a : VArgs) (s : State) : exec (.vcvtF2i t a) s = execVcvtF2i t a s := rfl
@[simp] theorem exec_vcvtI2f (t : Nat) (a : VArgs) (s : State) : exec (.vcvtI2f t a) s = execVcvtI2f t a s := rfl
@[simp] theorem exec_vqnt (t : Nat) (a : VArgs) (s : State) : exec (.vqnt t a) s = execVqnt t a s := rfl
@[simp] theorem exec_viadd (t : Nat) (a : VArgs) (s : State) : exec (.viadd t a) s = execViadd t a s := rfl
@[simp] theorem exec_visub (t : Nat) (a : VArgs) (s : State) : exec (.visub t a) s = execVisub t a s := rfl
@[simp] theorem exec_vimul (t : Nat) (a : VArgs) (s : State) : exec (.vimul t a) s = execVimul t a s := rfl
@[simp] theorem exec_viota (t : Nat) (a : VArgs) (s : State) : exec (.viota t a) s = execViota t a s := rfl
@[simp] theorem exec_vred (t : Nat) (a : VArgs) (s : State) : exec (.vred t a) s = execVred t a s := rfl
@[simp] theorem exec_vscan (t : Nat) (a : VArgs) (s : State) : exec (.vscan t a) s = execVscan t a s := rfl
@[simp] theorem exec_vperm (t : Nat) (a : VArgs) (s : State) : exec (.vperm t a) s = execVperm t a s := rfl
@[simp] theorem exec_vbci (t : Nat) (a : VArgs) (s : State) : exec (.vbci t a) s = execVbci t a s := rfl
@[simp] theorem exec_vbce (t : Nat) (a : VArgs) (s : State) : exec (.vbce t a) s = execVbce t a s := rfl
@[simp] theorem exec_vmov (t : Nat) (a : VArgs) (s : State) : exec (.vmov t a) s = execVmov t a s := rfl
@[simp] theorem exec_vld (t : Nat) (a : MArgs) (s : State) : exec (.vld t a) s = execVld t a s := rfl
@[simp] theorem exec_vst (t : Nat) (a : MArgs) (s : State) : exec (.vst t a) s = execVst t a s := rfl
@[simp] theorem exec_vgath (t : Nat) (a : GArgs) (s : State) : exec (.vgath t a) s = execVgath t a s := rfl
@[simp] theorem exec_vlds (t : Nat) (a : SArgs) (s : State) : exec (.vlds t a) s = execVlds t a s := rfl
@[simp] theorem exec_vsts (t : Nat) (a : SArgs) (s : State) : exec (.vsts t a) s = execVsts t a s := rfl
@[simp] theorem exec_mand (t : Nat) (a : VArgs) (s : State) : exec (.mand t a) s = execMand t a s := rfl
@[simp] theorem exec_mor (t : Nat) (a : VArgs) (s : State) : exec (.mor t a) s = execMor t a s := rfl
@[simp] theorem exec_mxor (t : Nat) (a : VArgs) (s : State) : exec (.mxor t a) s = execMxor t a s := rfl
@[simp] theorem exec_mnot (t : Nat) (a : VArgs) (s : State) : exec (.mnot t a) s = execMnot t a s := rfl
@[simp] theorem exec_mfill (t : Nat) (a : VArgs) (s : State) : exec (.mfill t a) s = execMfill t a s := rfl
@[simp] theorem exec_mpop (t : Nat) (a : VArgs) (s : State) : exec (.mpop t a) s = execMpop t a s := rfl
@[simp] theorem exec_vgeom (t : Nat) (a : VGeomArgs) (s : State) : exec (.vgeom t a) s = execVgeom t a s := rfl
@[simp] theorem exec_vfclr (t : Nat) (a : VFclrArgs) (s : State) : exec (.vfclr t a) s = execVfclr t a s := rfl
@[simp] theorem exec_scan (t : Nat) (a : ScanArgs) (s : State) : exec (.scan t a) s = execScan t a s := rfl
@[simp] theorem exec_srmask (t : Nat) (a : SrmaskArgs) (s : State) : exec (.srmask t a) s = execSrmask t a s := rfl
@[simp] theorem exec_sst (t : Nat) (a : MArgs) (s : State) : exec (.sst t a) s = execSst t a s := rfl
@[simp] theorem exec_attnInit (t : Nat) (a : AttnInitArgs) (s : State) : exec (.attnInit t a) s = execAttnInit t a s := rfl
@[simp] theorem exec_attnStep (t : Nat) (a : AttnStepArgs) (s : State) : exec (.attnStep t a) s = execAttnStep t a s := rfl
@[simp] theorem exec_attnFin (t : Nat) (a : AttnFinArgs) (s : State) : exec (.attnFin t a) s = execAttnFin t a s := rfl
@[simp] theorem exec_attnMerge (t : Nat) (a : AttnMergeArgs) (s : State) : exec (.attnMerge t a) s = execAttnMerge t a s := rfl
@[simp] theorem exec_attnBwd (t : Nat) (a : AttnBwdArgs) (s : State) : exec (.attnBwd t a) s = execAttnBwd t a s := rfl
@[simp] theorem exec_attnFum (t : Nat) (a : AttnFumArgs) (s : State) : exec (.attnFum t a) s = execAttnFum t a s := rfl
@[simp] theorem exec_attnBinit (t : Nat) (a : AttnBinitArgs) (s : State) : exec (.attnBinit t a) s = execAttnBinit t a s := rfl
@[simp] theorem exec_fumaroleDone (die : Nat) (s : State) : exec (.fumaroleDone die) s = execFumaroleDone die s := rfl
@[simp] theorem exec_nop (t : Nat) (a : CtrlArgs) (s : State) : exec (.nop t a) s = execNop t a s := rfl
@[simp] theorem exec_loop (t : Nat) (a : CtrlArgs) (s : State) : exec (.loop t a) s = execLoop t a s := rfl
@[simp] theorem exec_br (t : Nat) (a : CtrlArgs) (s : State) : exec (.br t a) s = execBr t a s := rfl
@[simp] theorem exec_brf (t : Nat) (a : CtrlArgs) (s : State) : exec (.brf t a) s = execBrf t a s := rfl
@[simp] theorem exec_brw (t : Nat) (a : CtrlArgs) (s : State) : exec (.brw t a) s = execBrw t a s := rfl
@[simp] theorem exec_commit (t : Nat) (a : CtrlArgs) (s : State) : exec (.commit t a) s = execCommit t a s := rfl
@[simp] theorem exec_halt (t : Nat) (a : CtrlArgs) (s : State) : exec (.halt t a) s = execHalt t a s := rfl
@[simp] theorem exec_barwait (t : Nat) (a : SyncArgs) (s : State) : exec (.barwait t a) s = execBarwait t a s := rfl
@[simp] theorem exec_barsig (t : Nat) (a : SyncArgs) (s : State) : exec (.barsig t a) s = execBarsig t a s := rfl
@[simp] theorem exec_semwait (t : Nat) (a : SyncArgs) (s : State) : exec (.semwait t a) s = execSemwait t a s := rfl
@[simp] theorem exec_semsig (t : Nat) (a : SyncArgs) (s : State) : exec (.semsig t a) s = execSemsig t a s := rfl
@[simp] theorem exec_swap (t : Nat) (a : SyncArgs) (s : State) : exec (.swap t a) s = execSwap t a s := rfl
@[simp] theorem exec_xreq (t : Nat) (a : XferArgs) (s : State) : exec (.xreq t a) s = execXreq t a s := rfl
@[simp] theorem exec_xwait (t : Nat) (a : XferArgs) (s : State) : exec (.xwait t a) s = execXwait t a s := rfl
@[simp] theorem exec_barrierReached (t : Nat) (s : State) : exec (.barrierReached t) s = execBarrierReached t s := rfl
@[simp] theorem exec_semwaitGrant (job : Nat) (sem : Nat) (s : State) : exec (.semwaitGrant job sem) s = execSemwaitGrant job sem s := rfl
@[simp] theorem exec_schedulingStep (job : Nat) (read : StepRead) (s : State) : exec (.schedulingStep job read) s = execSchedulingStep job read s := rfl
@[simp] theorem exec_commandStart (job : Nat) (cluster : Nat) (s : State) : exec (.commandStart job cluster) s = execCommandStart job cluster s := rfl
@[simp] theorem exec_watchdogExpiry (t : Nat) (s : State) : exec (.watchdogExpiry t) s = execWatchdogExpiry t s := rfl
@[simp] theorem exec_stageCommit (t : Nat) (s : State) : exec (.stageCommit t) s = execStageCommit t s := rfl
@[simp] theorem exec_taskCommit (task : Nat) (s : State) : exec (.taskCommit task) s = execTaskCommit task s := rfl
@[simp] theorem exec_windowEnd (part : Nat) (window : Nat) (s : State) : exec (.windowEnd part window) s = execWindowEnd part window s := rfl
@[simp] theorem exec_cycleTableSwitch (part : Nat) (s : State) : exec (.cycleTableSwitch part) s = execCycleTableSwitch part s := rfl
@[simp] theorem exec_rerunStart (t : Nat) (s : State) : exec (.rerunStart t) s = execRerunStart t s := rfl
@[simp] theorem exec_checkRunStart (t : Nat) (s : State) : exec (.checkRunStart t) s = execCheckRunStart t s := rfl
@[simp] theorem exec_checkCompare (t : Nat) (s : State) : exec (.checkCompare t) s = execCheckCompare t s := rfl
@[simp] theorem exec_routeSite (task : Nat) (site : Nat) (s : State) : exec (.routeSite task site) s = execRouteSite task site s := rfl
@[simp] theorem exec_slabIssue (cluster : Nat) (xid : Nat) (s : State) : exec (.slabIssue cluster xid) s = execSlabIssue cluster xid s := rfl
@[simp] theorem exec_mergeWaitExpiry (cluster : Nat) (xid : Nat) (s : State) : exec (.mergeWaitExpiry cluster xid) s = execMergeWaitExpiry cluster xid s := rfl
@[simp] theorem exec_transactionLanded (cluster : Nat) (xid : Nat) (err : EccResult) (s : State) : exec (.transactionLanded cluster xid err) s = execTransactionLanded cluster xid err s := rfl
@[simp] theorem exec_placementMove (cluster : Nat) (base : Nat) (k : Nat) (dest : Nat) (how : MoveHow) (s : State) : exec (.placementMove cluster base k dest how) s = execPlacementMove cluster base k dest how s := rfl
@[simp] theorem exec_spillMove (cluster : Nat) (base : Nat) (k : Nat) (dest : Nat) (err : Option Nat) (s : State) : exec (.spillMove cluster base k dest err) s = execSpillMove cluster base k dest err s := rfl
@[simp] theorem exec_feedDb (fn : Nat) (ring : Nat) (value : W64) (s : State) : exec (.feedDb fn ring value) s = execFeedDb fn ring value s := rfl
@[simp] theorem exec_feedDescriptor (fn : Nat) (ring : Nat) (r : HostRead) (s : State) : exec (.feedDescriptor fn ring r) s = execFeedDescriptor fn ring r s := rfl
@[simp] theorem exec_payloadLanded (stream : Nat) (ok : Bool) (s : State) : exec (.payloadLanded stream ok) s = execPayloadLanded stream ok s := rfl
@[simp] theorem exec_completionPost (job : Nat) (ring : Nat) (s : State) : exec (.completionPost job ring) s = execCompletionPost job ring s := rfl
@[simp] theorem exec_ringHeadPoll (job : Nat) (ring : Nat) (s : State) : exec (.ringHeadPoll job ring) s = execRingHeadPoll job ring s := rfl
@[simp] theorem exec_kvFlush (stream : Nat) (s : State) : exec (.kvFlush stream) s = execKvFlush stream s := rfl
@[simp] theorem exec_swapOutLanded (stream : Nat) (ok : Bool) (s : State) : exec (.swapOutLanded stream ok) s = execSwapOutLanded stream ok s := rfl
@[simp] theorem exec_swapInLanded (stream : Nat) (ok : Bool) (s : State) : exec (.swapInLanded stream ok) s = execSwapInLanded stream ok s := rfl
@[simp] theorem exec_autoSwapIn (stream : Nat) (s : State) : exec (.autoSwapIn stream) s = execAutoSwapIn stream s := rfl
@[simp] theorem exec_tableLoadResume (fn : Nat) (tag : W32) (s : State) : exec (.tableLoadResume fn tag) s = execTableLoadResume fn tag s := rfl
@[simp] theorem exec_commandTimeout (fn : Nat) (tag : W32) (s : State) : exec (.commandTimeout fn tag) s = execCommandTimeout fn tag s := rfl
@[simp] theorem exec_jobRelease (job : Nat) (s : State) : exec (.jobRelease job) s = execJobRelease job s := rfl
@[simp] theorem exec_audit (s : State) : exec (.audit) s = execAudit s := rfl
@[simp] theorem exec_partZeroDone (part : Nat) (s : State) : exec (.partZeroDone part) s = execPartZeroDone part s := rfl
@[simp] theorem exec_tdmFrame (port : Nat) (time : Nat) (bclks : Nat) (pins : TdmPins) (s : State) : exec (.tdmFrame port time bclks pins) s = execTdmFrame port time bclks pins s := rfl
@[simp] theorem exec_tdmHold (port : Nat) (time : Nat) (s : State) : exec (.tdmHold port time) s = execTdmHold port time s := rfl
@[simp] theorem exec_gapTick (port : Nat) (s : State) : exec (.gapTick port) s = execGapTick port s := rfl
@[simp] theorem exec_submissionFetch (fn : Nat) (r : HostRead) (s : State) : exec (.submissionFetch fn r) s = execSubmissionFetch fn r s := rfl
@[simp] theorem exec_eventRingWrite (fn : Nat) (s : State) : exec (.eventRingWrite fn) s = execEventRingWrite fn s := rfl
@[simp] theorem exec_patrolScrub (t : Nat) (found : EccResult) (s : State) : exec (.patrolScrub t found) s = execPatrolScrub t found s := rfl
@[simp] theorem exec_hbmScrub (stack : Nat) (sector : Nat) (found : EccResult) (s : State) : exec (.hbmScrub stack sector found) s = execHbmScrub stack sector found s := rfl
@[simp] theorem exec_correctedReport (utype : Nat) (unit : Nat) (s : State) : exec (.correctedReport utype unit) s = execCorrectedReport utype unit s := rfl
@[simp] theorem exec_stackRetrain (stack : Nat) (s : State) : exec (.stackRetrain stack) s = execStackRetrain stack s := rfl
@[simp] theorem exec_retrainDone (stack : Nat) (ok : Bool) (s : State) : exec (.retrainDone stack ok) s = execRetrainDone stack ok s := rfl
@[simp] theorem exec_fwComponentSwitch (ctype : Nat) (ok : Bool) (s : State) : exec (.fwComponentSwitch ctype ok) s = execFwComponentSwitch ctype ok s := rfl
@[simp] theorem exec_tyraxWatchdog (s : State) : exec (.tyraxWatchdog) s = execTyraxWatchdog s := rfl
@[simp] theorem exec_tyraxReady (s : State) : exec (.tyraxReady) s = execTyraxReady s := rfl
@[simp] theorem exec_bootVerify (s : State) : exec (.bootVerify) s = execBootVerify s := rfl
@[simp] theorem exec_trialBootTimeout (s : State) : exec (.trialBootTimeout) s = execTrialBootTimeout s := rfl
@[simp] theorem exec_logFlush (s : State) : exec (.logFlush) s = execLogFlush s := rfl
@[simp] theorem exec_sensorSample (x : Sensor) (value : Option Int) (s : State) : exec (.sensorSample x value) s = execSensorSample x value s := rfl
@[simp] theorem exec_crystalStable (kHz : Nat) (s : State) : exec (.crystalStable kHz) s = execCrystalStable kHz s := rfl
@[simp] theorem exec_crystalFailTimeout (s : State) : exec (.crystalFailTimeout) s = execCrystalFailTimeout s := rfl
@[simp] theorem exec_freqCheck (pll : Pll) (ppm : Int) (s : State) : exec (.freqCheck pll ppm) s = execFreqCheck pll ppm s := rfl
@[simp] theorem exec_fmeasStart (value : W64) (s : State) : exec (.fmeasStart value) s = execFmeasStart value s := rfl
@[simp] theorem exec_fmeasDone (count : Nat) (s : State) : exec (.fmeasDone count) s = execFmeasDone count s := rfl
@[simp] theorem exec_supplySample (mV : Int) (mA : Nat) (s : State) : exec (.supplySample mV mA) s = execSupplySample mV mA s := rfl
@[simp] theorem exec_drainComplete (s : State) : exec (.drainComplete) s = execDrainComplete s := rfl
@[simp] theorem exec_powerOn (s : State) : exec (.powerOn) s = execPowerOn s := rfl
@[simp] theorem exec_thermalTick (die : Nat) (s : State) : exec (.thermalTick die) s = execThermalTick die s := rfl
@[simp] theorem exec_thermalTrip (die : Nat) (s : State) : exec (.thermalTrip die) s = execThermalTrip die s := rfl
@[simp] theorem exec_powerCapTick (s : State) : exec (.powerCapTick) s = execPowerCapTick s := rfl
@[simp] theorem exec_tileSleep (t : Nat) (s : State) : exec (.tileSleep t) s = execTileSleep t s := rfl
@[simp] theorem exec_sliceDeepSleep (slice : Nat) (s : State) : exec (.sliceDeepSleep slice) s = execSliceDeepSleep slice s := rfl
@[simp] theorem exec_phase1Done (t : Nat) (pass : Bool) (s : State) : exec (.phase1Done t pass) s = execPhase1Done t pass s := rfl
@[simp] theorem exec_phase2Done (cluster : Nat) (failed : List Nat) (s : State) : exec (.phase2Done cluster failed) s = execPhase2Done cluster failed s := rfl
@[simp] theorem exec_mgRstN (low : Bool) (s : State) : exec (.mgRstN low) s = execMgRstN low s := rfl
@[simp] theorem exec_hxPerstN (s : State) : exec (.hxPerstN) s = execHxPerstN s := rfl
@[simp] theorem exec_linkDown (s : State) : exec (.linkDown) s = execLinkDown s := rfl
@[simp] theorem exec_flr (fn : Nat) (s : State) : exec (.flr fn) s = execFlr fn s := rfl
@[simp] theorem exec_ptmDialog (ok : Bool) (offset : Int) (s : State) : exec (.ptmDialog ok offset) s = execPtmDialog ok offset s := rfl
@[simp] theorem exec_ptmTimeout (s : State) : exec (.ptmTimeout) s = execPtmTimeout s := rfl
@[simp] theorem exec_ideFailure (stream : Nat) (s : State) : exec (.ideFailure stream) s = execIdeFailure stream s := rfl
@[simp] theorem exec_spdmRequest (msg : SpdmMsg) (s : State) : exec (.spdmRequest msg) s = execSpdmRequest msg s := rfl
@[simp] theorem exec_mctpControl (msg : List Byte) (s : State) : exec (.mctpControl msg) s = execMctpControl msg s := rfl
@[simp] theorem exec_pldmMonitoring (x : Option Sensor) (s : State) : exec (.pldmMonitoring x) s = execPldmMonitoring x s := rfl
@[simp] theorem exec_pldmFirmwareUpdate (req : PldmFw) (s : State) : exec (.pldmFirmwareUpdate req) s = execPldmFirmwareUpdate req s := rfl
@[simp] theorem exec_logRead (first : Nat) (count : Nat) (s : State) : exec (.logRead first count) s = execLogRead first count s := rfl
@[simp] theorem exec_mpPowerCap (watts : Nat) (s : State) : exec (.mpPowerCap watts) s = execMpPowerCap watts s := rfl
@[simp] theorem exec_mpFwRollback (defer : Bool) (s : State) : exec (.mpFwRollback defer) s = execMpFwRollback defer s := rfl
@[simp] theorem exec_mpRegisterRead (offset : Nat) (s : State) : exec (.mpRegisterRead offset) s = execMpRegisterRead offset s := rfl
@[simp] theorem exec_mpResetRequest (s : State) : exec (.mpResetRequest) s = execMpResetRequest s := rfl
@[simp] theorem exec_sqEnable (fn : Nat) (s : State) : exec (.sqEnable fn) s = execSqEnable fn s := rfl
@[simp] theorem exec_sqDisable (fn : Nat) (s : State) : exec (.sqDisable fn) s = execSqDisable fn s := rfl
@[simp] theorem exec_cqEnable (fn : Nat) (s : State) : exec (.cqEnable fn) s = execCqEnable fn s := rfl
@[simp] theorem exec_cqDisable (fn : Nat) (s : State) : exec (.cqDisable fn) s = execCqDisable fn s := rfl
@[simp] theorem exec_evtEnable (fn : Nat) (s : State) : exec (.evtEnable fn) s = execEvtEnable fn s := rfl
@[simp] theorem exec_evtDisable (fn : Nat) (s : State) : exec (.evtDisable fn) s = execEvtDisable fn s := rfl
@[simp] theorem exec_dciSqTail (fn : Nat) (value : W32) (s : State) : exec (.dciSqTail fn value) s = execDciSqTail fn value s := rfl
@[simp] theorem exec_dciCqHead (fn : Nat) (value : W32) (s : State) : exec (.dciCqHead fn value) s = execDciCqHead fn value s := rfl
@[simp] theorem exec_evtRingHead (fn : Nat) (value : W32) (s : State) : exec (.evtRingHead fn value) s = execEvtRingHead fn value s := rfl
@[simp] theorem exec_msixUnmask (fn : Nat) (vec : Nat) (s : State) : exec (.msixUnmask fn vec) s = execMsixUnmask fn vec s := rfl
@[simp] theorem exec_shadowedConfigWrite (b : RegBlock) (offset : Nat) (value : W64) (s : State) : exec (.shadowedConfigWrite b offset value) s = execShadowedConfigWrite b offset value s := rfl
@[simp] theorem exec_registerWrite (b : RegBlock) (offset : Nat) (half : Bool) (value : W64) (s : State) : exec (.registerWrite b offset half value) s = execRegisterWrite b offset half value s := rfl
@[simp] theorem exec_pwrSupplyRead (s : State) : exec (.pwrSupplyRead) s = execPwrSupplyRead s := rfl
@[simp] theorem exec_tleMxeCntClr (t : Nat) (value : W64) (s : State) : exec (.tleMxeCntClr t value) s = execTleMxeCntClr t value s := rfl
@[simp] theorem exec_tleVecCntClr (t : Nat) (value : W64) (s : State) : exec (.tleVecCntClr t value) s = execTleVecCntClr t value s := rfl
@[simp] theorem exec_tleCntClr (t : Nat) (value : W64) (s : State) : exec (.tleCntClr t value) s = execTleCntClr t value s := rfl
@[simp] theorem exec_tleAttCntClr (t : Nat) (value : W64) (s : State) : exec (.tleAttCntClr t value) s = execTleAttCntClr t value s := rfl
@[simp] theorem exec_geyCntClr (cluster : Nat) (value : W64) (s : State) : exec (.geyCntClr cluster value) s = execGeyCntClr cluster value s := rfl
@[simp] theorem exec_orcCntClr (part : Nat) (value : W64) (s : State) : exec (.orcCntClr part value) s = execOrcCntClr part value s := rfl
@[simp] theorem exec_orcKvCntClr (part : Nat) (value : W64) (s : State) : exec (.orcKvCntClr part value) s = execOrcKvCntClr part value s := rfl
@[simp] theorem exec_mgtPartCntClr (part : Nat) (value : W64) (s : State) : exec (.mgtPartCntClr part value) s = execMgtPartCntClr part value s := rfl
@[simp] theorem exec_tdmCntClr (port : Nat) (value : W64) (s : State) : exec (.tdmCntClr port value) s = execTdmCntClr port value s := rfl
@[simp] theorem exec_pwrCntClr (value : W64) (s : State) : exec (.pwrCntClr value) s = execPwrCntClr value s := rfl
@[simp] theorem exec_devQuery (h : DciHdr) (code : Nat) (index : Nat) (buf : W64) (s : State) : exec (.devQuery h code index buf) s = execDevQuery h code index buf s := rfl
@[simp] theorem exec_partCreate (h : DciHdr) (slices : BitVec 12) (quota : W32) (s : State) : exec (.partCreate h slices quota) s = execPartCreate h slices quota s := rfl
@[simp] theorem exec_partResize (h : DciHdr) (slices : BitVec 12) (quota : W32) (s : State) : exec (.partResize h slices quota) s = execPartResize h slices quota s := rfl
@[simp] theorem exec_partDestroy (h : DciHdr) (s : State) : exec (.partDestroy h) s = execPartDestroy h s := rfl
@[simp] theorem exec_partCycleTable (h : DciHdr) (buf : W64) (s : State) : exec (.partCycleTable h buf) s = execPartCycleTable h buf s := rfl
@[simp] theorem exec_jobLoad (h : DciHdr) (klen : W32) (kgi : W64) (mask : BitVec 96) (s : State) : exec (.jobLoad h klen kgi mask) s = execJobLoad h klen kgi mask s := rfl
@[simp] theorem exec_jobStart (h : DciHdr) (job : Nat) (s : State) : exec (.jobStart h job) s = execJobStart h job s := rfl
@[simp] theorem exec_jobStop (h : DciHdr) (job : Nat) (s : State) : exec (.jobStop h job) s = execJobStop h job s := rfl
@[simp] theorem exec_streamOpen (h : DciHdr) (dclass : BitVec 2) (sr : Bool) (src : Bool) (prio : BitVec 4) (job : Nat) (irunits : BitVec 16) (cring : BitVec 16) (exitThr : BitVec 16) (driftLimit : W32) (tag : W64) (tokAddr : W64) (ntok : W32) (s : State) : exec (.streamOpen h dclass sr src prio job irunits cring exitThr driftLimit tag tokAddr ntok) s = execStreamOpen h dclass sr src prio job irunits cring exitThr driftLimit tag tokAddr ntok s := rfl
@[simp] theorem exec_streamFeed (h : DciHdr) (desc : List Byte) (s : State) : exec (.streamFeed h desc) s = execStreamFeed h desc s := rfl
@[simp] theorem exec_streamPause (h : DciHdr) (stream : Nat) (s : State) : exec (.streamPause h stream) s = execStreamPause h stream s := rfl
@[simp] theorem exec_streamResume (h : DciHdr) (stream : Nat) (s : State) : exec (.streamResume h stream) s = execStreamResume h stream s := rfl
@[simp] theorem exec_streamClose (h : DciHdr) (stream : Nat) (discard : Bool) (s : State) : exec (.streamClose h stream discard) s = execStreamClose h stream discard s := rfl
@[simp] theorem exec_streamQuery (h : DciHdr) (stream : Nat) (clrDrift : Bool) (buf : W64) (s : State) : exec (.streamQuery h stream clrDrift buf) s = execStreamQuery h stream clrDrift buf s := rfl
@[simp] theorem exec_prefixInsert (h : DciHdr) (stream : Nat) (n : W32) (tokAddr : W64) (s : State) : exec (.prefixInsert h stream n tokAddr) s = execPrefixInsert h stream n tokAddr s := rfl
@[simp] theorem exec_prefixDrop (h : DciHdr) (job : Nat) (n : W32) (tokAddr : W64) (s : State) : exec (.prefixDrop h job n tokAddr) s = execPrefixDrop h job n tokAddr s := rfl
@[simp] theorem exec_kvSwapOut (h : DciHdr) (stream : Nat) (s : State) : exec (.kvSwapOut h stream) s = execKvSwapOut h stream s := rfl
@[simp] theorem exec_kvSwapIn (h : DciHdr) (stream : Nat) (s : State) : exec (.kvSwapIn h stream) s = execKvSwapIn h stream s := rfl
@[simp] theorem exec_portConfig (h : DciHdr) (port : Nat) (buf : W64) (s : State) : exec (.portConfig h port buf) s = execPortConfig h port buf s := rfl
@[simp] theorem exec_portStart (h : DciHdr) (port : Nat) (s : State) : exec (.portStart h port) s = execPortStart h port s := rfl
@[simp] theorem exec_portStop (h : DciHdr) (port : Nat) (s : State) : exec (.portStop h port) s = execPortStop h port s := rfl
@[simp] theorem exec_portGroup (h : DciHdr) (members : Byte) (op : Byte) (s : State) : exec (.portGroup h members op) s = execPortGroup h members op s := rfl
@[simp] theorem exec_cfgStage (h : DciHdr) (buf : W64) (s : State) : exec (.cfgStage h buf) s = execCfgStage h buf s := rfl
@[simp] theorem exec_cfgCommit (h : DciHdr) (base : W32) (s : State) : exec (.cfgCommit h base) s = execCfgCommit h base s := rfl
@[simp] theorem exec_cfgRevert (h : DciHdr) (base : W32) (s : State) : exec (.cfgRevert h base) s = execCfgRevert h base s := rfl
@[simp] theorem exec_checkStep (h : DciHdr) (stream : Nat) (fum : Bool) (s : State) : exec (.checkStep h stream fum) s = execCheckStep h stream fum s := rfl
@[simp] theorem exec_checkTile (h : DciHdr) (tile : Nat) (mask : W32) (keep : Bool) (s : State) : exec (.checkTile h tile mask keep) s = execCheckTile h tile mask keep s := rfl
@[simp] theorem exec_checkTileDone (tile : Nat) (failed : W32) (s : State) : exec (.checkTileDone tile failed) s = execCheckTileDone tile failed s := rfl
@[simp] theorem exec_attestQuote (h : DciHdr) (nonce : List Byte) (buf : W64) (s : State) : exec (.attestQuote h nonce buf) s = execAttestQuote h nonce buf s := rfl
@[simp] theorem exec_idCert (h : DciHdr) (index : Nat) (buf : W64) (cap : W32) (s : State) : exec (.idCert h index buf cap) s = execIdCert h index buf cap s := rfl
@[simp] theorem exec_fwStage (h : DciHdr) (img : W64) (len : W32) (s : State) : exec (.fwStage h img len) s = execFwStage h img len s := rfl
@[simp] theorem exec_fwActivate (h : DciHdr) (defer : Bool) (s : State) : exec (.fwActivate h defer) s = execFwActivate h defer s := rfl
@[simp] theorem exec_fwRollback (h : DciHdr) (defer : Bool) (s : State) : exec (.fwRollback h defer) s = execFwRollback h defer s := rfl
@[simp] theorem exec_powerCap (h : DciHdr) (cap : BitVec 16) (s : State) : exec (.powerCap h cap) s = execPowerCap h cap s := rfl
@[simp] theorem exec_tableLoad (h : DciHdr) (kind : Byte) (job : Nat) (flags : Byte) (rgen : Byte) (gen : Byte) (table : List Byte) (s : State) : exec (.tableLoad h kind job flags rgen gen table) s = execTableLoad h kind job flags rgen gen table s := rfl
@[simp] theorem exec_configurationRequest (r : CfgRequest) (s : State) : exec (.configurationRequest r) s = execConfigurationRequest r s := rfl
@[simp] theorem exec_linkTrained (width : Nat) (rate : LinkRate) (s : State) : exec (.linkTrained width rate) s = execLinkTrained width rate s := rfl
@[simp] theorem exec_pllLock (p : Pll) (s : State) : exec (.pllLock p) s = execPllLock p s := rfl
@[simp] theorem exec_pllLosesLock (p : Pll) (s : State) : exec (.pllLosesLock p) s = execPllLosesLock p s := rfl
@[simp] theorem exec_h2dSnoop (addr : Nat) (data : List Byte) (s : State) : exec (.h2dSnoop addr data) s = execH2dSnoop addr data s := rfl
@[simp] theorem exec_reservedOpcode (t : Nat) (word : W128) (s : State) : exec (.reservedOpcode t word) s = execReservedOpcode t word s := rfl

end Sys2Proof.Machine
end

