-- ==== Sys2Proof/Laws/Tile.lean ====
section
/-! SUPPORT. What the shared operations of a tile's instructions do: dispatch, the program counter, the engine's registers. -/

namespace Sys2Proof.Machine

/-! ## The command of a tile -/

theorem lt_of_getCmd {s : State} {t : Nat} {c : Cmd} (h : getCmd s t = some c) : t < s.tiles.length := by
  refine Nat.lt_of_not_le (fun hn => ?_)
  simp [getCmd, getTile, List.getD, List.getElem?_eq_none hn, Tile.reset] at h

theorem getCmd_setTile {s : State} {t : Nat} (h : t < s.tiles.length) (f : Tile → Tile) :
    getCmd (setTile s t f) t = (f (getTile s t)).cmd := by
  simp [getCmd, getTile_setTile_self s f h]

theorem getCmd_setTile_ne (s : State) {t u : Nat} (f : Tile → Tile) (h : u ≠ t) : getCmd (setTile s t f) u = getCmd s u := by
  simp [getCmd, h]

theorem getCmd_setCmd {s : State} {t : Nat} {c : Cmd} (h : getCmd s t = some c) (f : Cmd → Cmd) :
    getCmd (setCmd s t f) t = some (f c) := by
  have hl := lt_of_getCmd h
  simp only [getCmd] at h
  simp [setCmd, getCmd_setTile hl, h]

theorem getCmd_atDispatch {s : State} {t : Nat} {c : Cmd} (h : getCmd s t = some c) :
    getCmd (atDispatch s t c) t = some (dispatched c) := getCmd_setCmd h _

theorem engOf_atDispatch {s : State} {t : Nat} {c : Cmd} (h : getCmd s t = some c) : engOf (atDispatch s t c) t = engOf s t := by
  simp [engOf, atDispatch, setCmd, getTile_setTile_self s _ (lt_of_getCmd h)]

theorem inStage_dispatched (c : Cmd) (i : Nat) : inStage (dispatched c) i = inStage c i := rfl

theorem setCmd_setCmd (s : State) (t : Nat) (f g : Cmd → Cmd) : setCmd (setCmd s t f) t g = setCmd s t (fun c => g (f c)) := by
  simp only [setCmd, setTile_setTile]
  congr 1
  funext x
  cases x with
  | mk => simp [Option.map_map]; rfl

theorem setCmd_congr {s : State} {t : Nat} {c : Cmd} (h : getCmd s t = some c) {f g : Cmd → Cmd} (e : f c = g c) :
    setCmd s t f = setCmd s t g := by
  refine setTile_congr s ?_
  simp only [getCmd] at h
  simp [h, e]

theorem getCmd_setCmd_ne (s : State) {t u : Nat} (f : Cmd → Cmd) (h : u ≠ t) : getCmd (setCmd s t f) u = getCmd s u :=
  getCmd_setTile_ne s _ h

theorem engOf_setCmd (s : State) (t u : Nat) (f : Cmd → Cmd) : engOf (setCmd s t f) u = engOf s u := by
  simp only [engOf, getTile, setCmd, setTile, List.getD]
  rw [List.getElem?_modify]
  cases s.tiles[u]? with
  | none => rfl
  | some x => by_cases h : t = u <;> simp [h]

/-! ## Dispatch (R178, R181, R182, R188) -/

@[simp] theorem settled_ok (s s1 : State) (t : Nat) (c : Cmd) : settled s t c (.ok s1) = s1 := rfl
@[simp] theorem settled_error (s : State) (t : Nat) (c : Cmd) (k : Nat) : settled s t c (.error k) = failCmd s t c k := rfl

/-- An instruction that waits in its queue changes nothing (R209). -/
@[simp] theorem failCmd_held (s : State) (t : Nat) (c : Cmd) : failCmd s t c heldCode = s := rfl

/-- An instruction that fails otherwise aborts its task. -/
theorem failCmd_abort {k : Nat} (s : State) (t : Nat) (c : Cmd) (h : k ≠ heldCode) : failCmd s t c k = abortCmd s t c k := if_neg h

/-- A command that dispatches runs the instruction at its PC. -/
theorem runTile_eq {s : State} {t : Nat} {c : Cmd} (h : getCmd s t = some c) (hd : dispatches s t c = true)
    (f : State → Cmd → Except Nat State) : runTile s t f = .next (settled s t c (f s c)) := by
  simp only [runTile, h, hd, if_true]

/-- So does one whose instruction waited at dispatch with `w` and is tried again. -/
theorem runWait_eq {s : State} {t : Nat} {c : Cmd} {w : Wait} (h : getCmd s t = some c)
    (hd : dispatches s t c = true ∨ triesAgain s t c w = true) (f : State → Cmd → Except Nat State) :
    runWait s t w f = .next (settled s t c (f s c)) := by
  have : (dispatches s t c || triesAgain s t c w) = true := by simpa using hd
  simp only [runWait, h, this, if_true]

/-- Another instruction of the tile does nothing while one waits at dispatch (R178). -/
theorem runTile_waits {s : State} {t : Nat} {c : Cmd} {w : Wait} (h : getCmd s t = some c) (hw : c.wait = some w)
    (f : State → Cmd → Except Nat State) : runTile s t f = .next s := by
  simp [runTile, h, dispatches, dispatchable, hw]

/-- Going on at an instruction of the stage. -/
theorem goTo_eq {s : State} {t pc : Nat} {c : Cmd} {ls : List LoopSt} (h : getCmd s t = some c) (hi : inStage c pc = true) :
    goTo s t pc ls = setCmd s t (fun _ => { c with pc := pc, loops := ls, wait := none }) := by
  simp only [goTo, h]
  exact if_pos hi

/-- An instruction whose effect leaves its tile a command goes on behind it. -/
theorem advance_eq {s : State} {t : Nat} {c : Cmd} (h : getCmd s t = some c) (hi : inStage c (nextPc c) = true) :
    advance s t = setCmd s t (fun _ => { c with pc := nextPc c, loops := nextLoops c, wait := none }) := by
  have : inStage { c with pc := nextPc c, loops := nextLoops c, wait := none } (nextPc c) = true := hi
  simp only [advance, h, goTo]
  simp only [nextPc, nextLoops] at this ⊢
  exact if_pos hi

/-- A command that dispatches runs an instruction whose effect succeeds. -/
theorem runInstr_ok {s s1 : State} {t : Nat} {c : Cmd} {f : State → Cmd → Except Nat State} (h : getCmd s t = some c)
    (hd : dispatches s t c = true) (hf : f (atDispatch s t c) (dispatched c) = .ok s1) :
    runInstr s t f = .next (advance s1 t) := by
  have hf' : f (setCmd s t fun _ => dispatched c) (dispatched c) = .ok s1 := hf
  simp [runInstr, runTile, h, hd, hf']

/-- One whose effect fails waits or aborts the task with the code. -/
theorem runInstr_error {s : State} {t : Nat} {c : Cmd} {f : State → Cmd → Except Nat State} {k : Nat} (h : getCmd s t = some c)
    (hd : dispatches s t c = true) (hf : f (atDispatch s t c) (dispatched c) = .error k) :
    runInstr s t f = .next (failCmd s t c k) := by
  have hf' : f (setCmd s t fun _ => dispatched c) (dispatched c) = .error k := hf
  simp [runInstr, runTile, h, hd, hf']

/-- A tile without a command that dispatches does nothing. -/
theorem runInstr_idle {s : State} {t : Nat} {f : State → Cmd → Except Nat State}
    (h : ∀ c, getCmd s t = some c → dispatches s t c = false) : runInstr s t f = .next s := by
  simp only [runInstr, runTile]
  cases e : getCmd s t with
  | none => rfl
  | some c => simp [h c e]

/-- An effect on the engine and its counters alone. -/
theorem runInstr_engine {s : State} {t : Nat} {c : Cmd} {f : State → Cmd → Except Nat State} {g : Engine} {k : List Nat}
    (h : Runs s t c)
    (hf : f (atDispatch s t c) (dispatched c) = .ok (setTile (atDispatch s t c) t (fun x => { x with eng := g, vecCnt := k }))) :
    runInstr s t f = .next (engineStep s t c g k) := by
  obtain ⟨h1, h2, h3⟩ := h
  have hl := lt_of_getCmd h1
  rw [runInstr_ok h1 h2 hf]
  have hc : getCmd (setTile (atDispatch s t c) t (fun x => { x with eng := g, vecCnt := k })) t = some (dispatched c) := by
    rw [getCmd_setTile (by simpa [atDispatch, setCmd] using hl)]
    exact getCmd_atDispatch h1
  have hn : nextPc (dispatched c) = nextPc c := rfl
  rw [advance_eq hc (by rw [hn]; exact h3)]
  simp only [atDispatch, setCmd, setTile_setTile, engineStep]
  congr 1
  refine setTile_congr s ?_
  simp only [getCmd] at h1
  simp [h1]
  rfl

/-! ## Engine instructions (R209, R645) -/

theorem boardFree_atDispatch (s : State) (t : Nat) (c : Cmd) : boardFree (atDispatch s t c) t = boardFree s t := rfl

/-- Where passes may begin on both engines, every engine instruction may. -/
theorem mayBegin_of_passes {s : State} {t : Nat} (h : passesBegin s t = true) (i : Instr) : mayBegin s t i = true := by
  simp only [passesBegin, Bool.and_eq_true] at h
  simp only [mayBegin, h.1.1, h.1.2, Bool.true_and]
  split <;> simp [h.2.1, h.2.2]

/-- With only transfers in its queues, no engine instruction of a command waits behind another (R178, R180, R209). -/
theorem blocked_engine {c : Cmd} {i : Instr} (hq : enginesDone c = true) (hi : (classOf i == some .xfer) = false) :
    blocked c i = false := by
  simp only [beq_eq_false_iff_ne] at hi
  simp only [enginesDone, List.all_eq_true, decide_eq_true_eq] at hq
  simp only [blocked, List.any_eq_false]
  intro e he
  have := hq e he
  unfold queuesBehind
  split <;> simp_all

/-- With nothing in them, none waits at all. -/
theorem blocked_nil {c : Cmd} (hq : c.queue = []) (i : Instr) : blocked c i = false := by simp [blocked, hq]

/-- A queued instruction that nothing blocks has its effect, and the program goes on. -/
theorem runQueued_ok {s s1 : State} {t : Nat} {c : Cmd} {i : Instr} {f : State → Cmd → Except Nat State} (h : getCmd s t = some c)
    (hd : dispatches s t c = true) (hb : blocked c i = false) (hf : f (atDispatch s t c) (dispatched c) = .ok s1) :
    runQueued s t i true f = .next (advance s1 t) := by
  have hf' : f (setCmd s t fun _ => dispatched c) (dispatched c) = .ok s1 := hf
  simp [runQueued, runWait, h, hd, hb, hf', settled]

/-- One that a range or a scoreboard entry holds joins its queue (R209). -/
theorem runQueued_held {s : State} {t : Nat} {c : Cmd} {i : Instr} {free : Bool} {f : State → Cmd → Except Nat State}
    (h : getCmd s t = some c) (hd : dispatches s t c = true)
    (hh : blocked c i = true ∨ free = false ∨ f (atDispatch s t c) (dispatched c) = .error heldCode) :
    runQueued s t i free f = .next (enqueue s t c i false) := by
  simp only [runQueued, runWait, h, hd, Bool.true_or, if_true]
  rcases hh with hh | hh | hh
  · simp [hh, settled]
  · simp [hh, settled]
  · have hf' : f (setCmd s t fun _ => dispatched c) (dispatched c) = .error heldCode := hh
    cases hc : (blocked c i || !free) <;> simp [hf', settled]

/-- One whose effect fails aborts its task. -/
theorem runQueued_error {s : State} {t : Nat} {c : Cmd} {i : Instr} {k : Nat} {f : State → Cmd → Except Nat State}
    (h : getCmd s t = some c) (hd : dispatches s t c = true) (hb : blocked c i = false) (hk : k ≠ heldCode)
    (hf : f (atDispatch s t c) (dispatched c) = .error k) : runQueued s t i true f = .next (abortCmd s t c k) := by
  have hf' : f (setCmd s t fun _ => dispatched c) (dispatched c) = .error k := hf
  simp [runQueued, runWait, h, hd, hb, hf', hk, settled, failCmd]

/-- An engine instruction that a tile can start, without a parity error, has its effect. -/
theorem runEng_ok {s s1 : State} {t : Nat} {c : Cmd} {i : Instr} {f : State → Cmd → Except Nat State} (h : EngineRuns s t c)
    (hi : (classOf i == some .xfer) = false) (hf : f (atDispatch s t c) (dispatched c) = .ok s1) :
    runEng s t i false f = .next (advance s1 t) := by
  obtain ⟨h, hb, hq⟩ := h
  rw [runEng, mayBegin_of_passes hb]
  exact runQueued_ok h.1 h.2.1 (blocked_engine hq hi) (by simp [hf])

/-- While it may not begin it joins its queue. -/
theorem runEng_waits {s : State} {t : Nat} {c : Cmd} {i : Instr} {par : Bool} {f : State → Cmd → Except Nat State}
    (h : getCmd s t = some c) (hd : dispatches s t c = true) (hb : mayBegin s t i = false) :
    runEng s t i par f = .next (enqueue s t c i false) := runQueued_held h hd (.inr (.inl hb))

/-- A parity error on what it reads aborts its task with cause 0x71. -/
theorem runEng_parity {s s1 : State} {t : Nat} {c : Cmd} {i : Instr} {f : State → Cmd → Except Nat State} (h : EngineRuns s t c)
    (hi : (classOf i == some .xfer) = false) (hf : f (atDispatch s t c) (dispatched c) = .ok s1) :
    runEng s t i true f = .next (abortCmd s t c 0x71) := by
  obtain ⟨h, hb, hq⟩ := h
  rw [runEng, mayBegin_of_passes hb]
  exact runQueued_error h.1 h.2.1 (blocked_engine hq hi) (by decide) (by simp [hf])

/-- An effect on the engine and its counters alone. -/
theorem runEng_engine {s : State} {t : Nat} {c : Cmd} {i : Instr} {f : State → Cmd → Except Nat State} {g : Engine} {k : List Nat}
    (h : EngineRuns s t c) (hi : (classOf i == some .xfer) = false)
    (hf : f (atDispatch s t c) (dispatched c) = .ok (setTile (atDispatch s t c) t (fun x => { x with eng := g, vecCnt := k }))) :
    runEng s t i false f = .next (engineStep s t c g k) := by
  rw [runEng_ok h hi hf, ← runInstr_ok h.1.1 h.1.2.1 hf]
  exact runInstr_engine h.1 hf

/-! ## Registers (R116, R117) -/

theorem vKey_inj {r q e k : Nat} (he : e < 4096) (hk : k < 4096) : vKey r e = vKey q k ↔ r = q ∧ e = k := by
  unfold vKey
  constructor
  · intro h; omega
  · rintro ⟨rfl, rfl⟩; rfl

@[simp] theorem vGet_addFlags (g : Engine) (f : Flags) (r e : Nat) : vGet (addFlags g f) r e = vGet g r e := rfl
@[simp] theorem mGet_addFlags (g : Engine) (f : Flags) (r e : Nat) : mGet (addFlags g f) r e = mGet g r e := rfl
@[simp] theorem vGet_markNarrow (g : Engine) (q : Nat) (es : List Nat) (r e : Nat) : vGet (markNarrow g q es) r e = vGet g r e := rfl
@[simp] theorem mGet_markNarrow (g : Engine) (q : Nat) (es : List Nat) (r e : Nat) : mGet (markNarrow g q es) r e = mGet g r e := rfl
@[simp] theorem markNarrow_flags (g : Engine) (q : Nat) (es : List Nat) : (markNarrow g q es).flags = g.flags := rfl
@[simp] theorem mGet_vPutAll (g : Engine) (r : Nat) (es : List (Nat × W32)) (q e : Nat) : mGet (vPutAll g r es) q e = mGet g q e := rfl
@[simp] theorem vGet_mPutAll (g : Engine) (r : Nat) (es : List (Nat × Bool)) (q e : Nat) : vGet (mPutAll g r es) q e = vGet g q e := rfl

/-- What a register holds after a write of some of its elements, each written once. -/
theorem vGet_vPutAll {g : Engine} (hw : g.Wf) {r : Nat} {es : List (Nat × W32)} (hn : (es.map Prod.fst).Nodup)
    {e : Nat} {w : W32} (h : (e, w) ∈ es) : vGet (vPutAll g r es) r e = w := by
  refine sGet_sPutAll_mem hw.1 ?_ (List.mem_map.2 ⟨(e, w), h, rfl⟩)
  rw [List.map_map]
  have : (Prod.fst ∘ fun e : Nat × W32 => (vKey r e.1, e.2)) = (fun x => vKey r x) ∘ Prod.fst := rfl
  rw [this, ← List.map_map]
  exact List.pairwise_map.2 (hn.imp (fun {a b} hab hk => hab (by unfold vKey at hk; omega)))

/-- Elements that are not written keep their contents. -/
theorem vGet_vPutAll_ne (g : Engine) {r : Nat} {es : List (Nat × W32)} {q e : Nat} (he : e < 4096)
    (hs : ∀ x ∈ es, x.1 < 4096) (h : q = r → ∀ x ∈ es, x.1 ≠ e) : vGet (vPutAll g r es) q e = vGet g q e := by
  refine sGet_sPutAll_ne _ _ ?_
  intro x hx
  obtain ⟨y, hy, rfl⟩ := List.mem_map.1 hx
  intro hk
  obtain ⟨h1, h2⟩ := (vKey_inj (hs y hy) he).1 hk
  exact h h1.symm y hy h2

theorem mGet_mPutAll {g : Engine} (hw : g.Wf) {r : Nat} {es : List (Nat × Bool)} (hn : (es.map Prod.fst).Nodup)
    {e : Nat} {w : Bool} (h : (e, w) ∈ es) : mGet (mPutAll g r es) r e = w := by
  refine sGet_sPutAll_mem hw.2.1 ?_ (List.mem_map.2 ⟨(e, w), h, rfl⟩)
  rw [List.map_map]
  have : (Prod.fst ∘ fun e : Nat × Bool => (vKey r e.1, e.2)) = (fun x => vKey r x) ∘ Prod.fst := rfl
  rw [this, ← List.map_map]
  exact List.pairwise_map.2 (hn.imp (fun {a b} hab hk => hab (by unfold vKey at hk; omega)))

theorem mGet_mPutAll_ne (g : Engine) {r : Nat} {es : List (Nat × Bool)} {q e : Nat} (he : e < 4096)
    (hs : ∀ x ∈ es, x.1 < 4096) (h : q = r → ∀ x ∈ es, x.1 ≠ e) : mGet (mPutAll g r es) q e = mGet g q e := by
  refine sGet_sPutAll_ne _ _ ?_
  intro x hx
  obtain ⟨y, hy, rfl⟩ := List.mem_map.1 hx
  intro hk
  obtain ⟨h1, h2⟩ := (vKey_inj (hs y hy) he).1 hk
  exact h h1.symm y hy h2

/-- Elements 0 to n − 1, one word each. -/
theorem nodup_lanes {β : Type} (n : Nat) (f : Nat → β) : (((lanes n).map (fun e => (e, f e))).map Prod.fst).Nodup := by
  rw [List.map_map]
  have : (Prod.fst ∘ fun e => (e, f e)) = (id : Nat → Nat) := rfl
  rw [this, List.map_id]
  exact List.nodup_range

/-- The flags that active lanes raise. -/
theorem laneFlags_bit (g : Engine) (n : Nat) (men : Bool) (msk : Nat) (f : Nat → Flags) (k : Nat) :
    (laneFlags g n men msk f).getLsbD k = (List.range n).any (fun e => vActive g men msk e && (f e).getLsbD k) := by
  have gen : ∀ (l : List Nat) (z : Flags), (l.foldl (fun fl e => if vActive g men msk e then fl ||| f e else fl) z).getLsbD k
      = (z.getLsbD k || l.any (fun e => vActive g men msk e && (f e).getLsbD k)) := by
    intro l
    induction l with
    | nil => intro z; simp
    | cons x r ih =>
      intro z
      simp only [List.foldl_cons, List.any_cons]
      rw [ih]
      cases vActive g men msk x <;> simp [Bool.or_assoc]
  simp [laneFlags, lanes, gen]

/-- A lane operation of layout V: the destination, the flags, and nothing else. -/
theorem vLane_holds {g : Engine} (hw : g.Wf) {a : VArgs} (hn : a.n.toNat ≤ 4096) (f : Nat → W32 × Flags) :
    LanesHold g (vLane a g f) a (fun e => (f e).1) ∧ FlagsHold g (vLane a g f) a (fun e => (f e).2)
      ∧ OnlyReg g (vLane a g f) a.vd.toNat a.n.toNat := by
  refine ⟨?_, ?_, ?_, rfl⟩
  · intro e he
    simp only [vLane, laneOp, vGet_markNarrow, vGet_addFlags]
    exact vGet_vPutAll hw (nodup_lanes _ _) (List.mem_map.2 ⟨e, List.mem_range.2 he, rfl⟩)
  · intro k
    simp only [vLane, laneOp, markNarrow_flags, addFlags, BitVec.getLsbD_or, laneFlags_bit]
    rfl
  · intro q e he hq
    simp only [vLane, laneOp, vGet_markNarrow, vGet_addFlags]
    refine vGet_vPutAll_ne g he ?_ ?_
    · intro x hx
      obtain ⟨y, hy, rfl⟩ := List.mem_map.1 hx
      have := List.mem_range.1 hy
      simp only; omega
    · intro hqr x hx
      obtain ⟨y, hy, rfl⟩ := List.mem_map.1 hx
      have := List.mem_range.1 hy
      rcases hq with hq | hq
      · exact absurd hqr hq
      · simp only; omega

/-- A lane operation that writes a mask. -/
theorem mLane_holds {g : Engine} (hw : g.Wf) {a : VArgs} (hn : a.n.toNat ≤ 4096) (f : Nat → Bool) :
    BitsHold g (mLane a g f) a f ∧ OnlyMask g (mLane a g f) (a.vd.toNat % 8) a.n.toNat := by
  refine ⟨?_, ?_, rfl⟩
  · intro e he
    exact mGet_mPutAll hw (nodup_lanes _ _) (List.mem_map.2 ⟨e, List.mem_range.2 he, rfl⟩)
  · intro q e he hq
    refine mGet_mPutAll_ne g he ?_ ?_
    · intro x hx
      obtain ⟨y, hy, rfl⟩ := List.mem_map.1 hx
      have := List.mem_range.1 hy
      simp only; omega
    · intro hqr x hx
      obtain ⟨y, hy, rfl⟩ := List.mem_map.1 hx
      have := List.mem_range.1 hy
      rcases hq with hq | hq
      · exact absurd hqr hq
      · simp only; omega

/-! ## Reads and writes of a command (R190, R192, R207, R209, R648) -/

/-- A read of what can be read gives its bytes. -/
theorem calRead_ok {s : State} {t : Nat} {c : Cmd} {tile off n : Nat} (h : Readable s t c tile off n) (byte : Nat → Byte) (rng : Nat) :
    calRead byte s t c tile rng off n = .ok ((addrs (calAddr tile off) n).map byte) := by
  obtain ⟨h1, h2, h3, h4⟩ := h
  unfold calRead
  by_cases hn : n = 0
  · subst hn; rfl
  · have hf : (decide (tile = t) && fillHit c off n) = false := by
      by_cases e : tile = t
      · simp [h2 e]
      · simp [e]
    have hr : ¬ 0x400000 < off + n := by omega
    simp [hn, hr, hf, h3, h4]

/-- Without an uncorrectable word no read meets one. -/
theorem cmdBad_clean {s : State} (h : s.badWords = []) (t : Nat) (c : Cmd) (a n : Nat) : cmdBad s t c a n = none := by
  simp [cmdBad, isBad, h]

theorem mem_setIns {l : List Nat} {k x : Nat} : x ∈ setIns l k ↔ x = k ∨ x ∈ l := by
  induction l with
  | nil => simp [setIns]
  | cons y r ih =>
    simp only [setIns]
    split
    · simp
    · split
      · rename_i h; subst h; simp
      · simp only [List.mem_cons, ih]
        constructor
        · rintro (h | h | h) <;> simp [h]
        · rintro (h | h | h) <;> simp [h]

/-- What the writes of an instruction keep while they are made: no new uncorrectable word, the windows, the units written. -/
def WritesKeep (s s' : State) (c c' : Cmd) : Prop :=
  (s.badWords = [] → s'.badWords = []) ∧ c'.wins = c.wins ∧ ∀ u ∈ c.written, u ∈ c'.written

theorem WritesKeep.refl (s : State) (c : Cmd) : WritesKeep s s c c := ⟨id, rfl, fun _ h => h⟩

theorem WritesKeep.trans {a b d : State} {x y z : Cmd} (h : WritesKeep a b x y) (k : WritesKeep b d y z) : WritesKeep a d x z :=
  ⟨fun e => k.1 (h.1 e), k.2.1.trans h.2.1, fun u hu => k.2.2 u (h.2.2 u hu)⟩

theorem clearBad_keeps (s : State) (as : List Nat) : s.badWords = [] → (clearBad s as).badWords = [] := by
  intro h
  simp [clearBad, h]

@[simp] theorem workWrite_wins (c : Cmd) (ws : List (Nat × Byte)) : (workWrite c ws).wins = c.wins := rfl
@[simp] theorem workWrite_written (c : Cmd) (ws : List (Nat × Byte)) : (workWrite c ws).written = c.written := rfl

theorem bytesUnlessBad_ok {o : Option Nat} (h : o = none) (bs : List Byte) : ∃ b, bytesUnlessBad o bs = .ok b := by
  subst h; exact ⟨_, rfl⟩

/-- The first write of a unit has its contents. -/
theorem freshUnit_ok {s : State} {t : Nat} {c : Cmd} {u : Nat} (h : shadowWin c (64 * u) = none ∨ s.badWords = []) :
    ∃ bs, freshUnit s t c u = .ok bs := by
  unfold freshUnit
  cases hw : shadowWin c (64 * u) with
  | none => exact ⟨_, rfl⟩
  | some w => exact bytesUnlessBad_ok (cmdBad_clean (h.resolve_left (by simp [hw])) t c _ 64) _

/-- A write that may be made is made. -/
theorem kindPut_ok {s : State} {t : Nat} {c : Cmd} {k : WKind} {x : Nat} (b : Byte)
    (h : k = .work → unitWritten c x = true ∨ shadowWin c (64 * (x / 64)) = none ∨ s.badWords = []) :
    ∃ s' c', kindPut s t c k x b = .ok (s', c') ∧ WritesKeep s s' c c' := by
  cases k with
  | slot => exact ⟨_, _, rfl, .refl s c⟩
  | append => exact ⟨_, _, rfl, .refl s c⟩
  | staging => exact ⟨_, _, rfl, .refl s c⟩
  | work =>
    simp only [kindPut, workPut]
    by_cases hu : unitWritten c x = true
    · simp only [hu, if_true]
      exact ⟨_, _, rfl, clearBad_keeps s _, rfl, fun _ h => h⟩
    · obtain ⟨bs, hi⟩ := freshUnit_ok (t := t) ((h rfl).resolve_left hu)
      simp only [hu, initUnit, hi]
      exact ⟨_, _, rfl, clearBad_keeps s _, rfl, fun u hm => mem_setIns.2 (.inr hm)⟩

/-- Writes that may all be made are made, in order. -/
theorem cmdWrites_ok {s : State} {t : Nat} {c : Cmd} {ws : List (Nat × Byte)} (h : ∀ w ∈ ws, Storable s t c w.1) :
    ∃ s' c', cmdWrites s t c false ws = .ok (s', c') ∧ WritesKeep s s' c c' := by
  have hk : ∀ l : List (Nat × Byte), (∀ w ∈ l, Storable s t c w.1) → ∃ ts, l.mapM (fun w => writeKind s t c false w.1) = .ok ts
      ∧ ∀ e ∈ ts, e.1 = .work → unitWritten c e.2 = true ∨ shadowWin c (64 * (e.2 / 64)) = none ∨ s.badWords = [] := by
    intro l
    induction l with
    | nil => exact fun _ => ⟨[], rfl, by simp⟩
    | cons w r ih =>
      intro hl
      obtain ⟨⟨k, x, h1, h2⟩, _, _⟩ := hl w (.head _)
      obtain ⟨ts, h3, h4⟩ := ih (fun v hv => hl v (.tail _ hv))
      refine ⟨(k, x) :: ts, ?_, ?_⟩
      · rw [List.mapM_cons, h1, h3]; rfl
      · intro e he
        rcases List.mem_cons.1 he with rfl | he
        · exact h2
        · exact h4 e he
  have hf : ∀ (l : List ((WKind × Nat) × (Nat × Byte))) (s1 : State) (c1 : Cmd), WritesKeep s s1 c c1 →
      (∀ e ∈ l, e.1.1 = .work → unitWritten c e.1.2 = true ∨ shadowWin c (64 * (e.1.2 / 64)) = none ∨ s.badWords = []) →
      ∃ s' c', l.foldlM (fun (sc : State × Cmd) (k : (WKind × Nat) × (Nat × Byte)) => kindPut sc.1 t sc.2 k.1.1 k.1.2 k.2.2) (s1, c1)
        = .ok (s', c') ∧ WritesKeep s s' c c' := by
    intro l
    induction l with
    | nil => exact fun s1 c1 hk _ => ⟨s1, c1, rfl, hk⟩
    | cons e r ih =>
      intro s1 c1 hk he
      have hp : e.1.1 = .work → unitWritten c1 e.1.2 = true ∨ shadowWin c1 (64 * (e.1.2 / 64)) = none ∨ s1.badWords = [] := by
        intro hw
        rcases he e (.head _) hw with h | h | h
        · left
          simp only [unitWritten, List.elem_eq_mem, decide_eq_true_eq] at h ⊢
          exact hk.2.2 _ h
        · right; left
          simpa [shadowWin, hk.2.1] using h
        · exact .inr (.inr (hk.1 h))
      obtain ⟨s2, c2, h1, h2⟩ := kindPut_ok e.2.2 hp
      obtain ⟨s3, c3, h3, h4⟩ := ih s2 c2 (hk.trans h2) (fun v hv => he v (.tail _ hv))
      exact ⟨s3, c3, by rw [List.foldlM_cons, h1]; exact h3, h4⟩
  obtain ⟨ts, h1, h2⟩ := hk ws h
  have hheld : writeHeld s t c ws = false := by
    simp only [writeHeld, List.any_eq_false]
    intro w hw
    obtain ⟨_, h3, h4⟩ := h w hw
    simp [h3, h4]
  obtain ⟨s', c', h3, h4⟩ := hf (ts.zip ws) s c (.refl s c) (fun e he => h2 _ (List.of_mem_zip he).1)
  refine ⟨s', c', ?_, h4⟩
  unfold cmdWrites
  rw [h1]
  simp only [hheld, Bool.not_false, Bool.and_false, Bool.false_eq_true, if_false]
  exact h3

/-! ## Vector instructions on registers -/

/-- A vector instruction whose fields R132 accepts. -/
theorem runVecFor_ok {s : State} {t : Nat} {c : Cmd} {i : Instr} {a : VArgs} {busy : Nat} {ok : Bool} {f : VCtx → Engine → VOut}
    (h : EngineRuns s t c) (hi : (classOf i == some .xfer) = false) (hp : a.par = false) (hok : ok = true)
    (hr : rowsOk (vctx (atDispatch s t c) (dispatched c)) (engOf s t).geom a.n.toNat a.rmode.toNat = true) :
    let o := f (vctx (atDispatch s t c) (dispatched c)) (engOf s t)
    runVecFor s t i a busy ok f = .next (engineStep s t c o.eng (vecCounted s t busy o.range o.empty)) := by
  have hl := lt_of_getCmd h.1.1
  have he : (getTile (atDispatch s t c) t).eng = engOf s t := engOf_atDispatch h.1.1
  have hv : (getTile (atDispatch s t c) t).vecCnt = (getTile s t).vecCnt := by
    simp [atDispatch, setCmd, getTile_setTile_self s _ hl]
  simp only [runVecFor, hp]
  refine runEng_engine h hi ?_
  simp only [he, hok, hr, Bool.and_self, if_true]
  simp only [vecCount, putEng, setTile_setTile]
  congr 1
  refine setTile_congr _ ?_
  simp only [hv, vecCounted]

/-- One whose fields it refuses. -/
theorem runVecFor_bad {s : State} {t : Nat} {c : Cmd} {i : Instr} {a : VArgs} {busy : Nat} {ok : Bool} {f : VCtx → Engine → VOut}
    (h : EngineRuns s t c) (hi : (classOf i == some .xfer) = false) (hok : ok = false) :
    runVecFor s t i a busy ok f = .next (abortCmd s t c 0x10) := by
  obtain ⟨h, hb, hq⟩ := h
  rw [runVecFor, runEng, mayBegin_of_passes hb]
  exact runQueued_error h.1 h.2.1 (blocked_engine hq hi) (by decide) (by simp [hok])

end Sys2Proof.Machine
end

