-- ==== Sys2Proof/WellFormed.lean ====
section
/-! DEFINITION. Which commands are well formed: every unit a command names exists (R14, R15, R503), every number has the
width of its field, every list the length of its field. A command that is not well formed names nothing the device has;
exec leaves the state as it is. -/

namespace Sys2Proof

/-- The header of a submission entry: function 0 to 12 (R503). -/
def hdrOk (h : DciHdr) : Bool := h.fn < 13

/-- The unit of a register block exists. -/
def blockOk : RegBlock → Bool
  | .bar0 fn => fn < 13
  | .tile t => t < 96
  | .geyser c => c < 12
  | .orchard p => p < 12
  | .orchardDev => true
  | .mgtPart p => p < 12
  | .tdm p => p < 8
  | .mgt => true
  | .clk => true
  | .pwr => true

/-- The sensor exists (R578). -/
def sensorOk : Sensor → Bool
  | .junction die k => die < 2 && k < 12
  | .ioJunction k => k < 4
  | .stack n => n < 12
  | .rail k => k < 3
  | _ => true

/-- The PLL exists (R609). -/
def pllOk : Pll → Bool
  | .coreA d => d < 2
  | .coreB d => d < 2
  | .fab d => d < 2
  | .hbm n => n < 12
  | _ => true

/-- The function or the number of functions of a configuration request exists (R503). -/
def cfgOk : CfgRequest → Bool
  | .busMaster fn _ => fn < 13
  | .numVFs n => n ≤ 12
  | .read (.busMaster fn) => fn < 13
  | _ => true

/-- The command is well formed. -/
def Instr.wf : Instr → Bool
  | .mxeWload t _ | .mxeMma t _ | .mxeDrain t _ | .vadd t _ | .vsub t _ | .vmul t _ | .vfma t _ | .vdiv t _
    | .vmin t _ | .vmax t _ | .vrcp t _ | .vrsqrt t _ | .vexp t _ | .vexp2 t _ | .vlog t _ | .vtanh t _
    | .vsigm t _ | .vgelu t _ | .vsilu t _ | .vabs t _ | .vneg t _ | .vcmp t _ | .vsel t _ | .vcvtF2i t _
    | .vcvtI2f t _ | .vqnt t _ | .viadd t _ | .visub t _ | .vimul t _ | .viota t _ | .vred t _ | .vscan t _
    | .vperm t _ | .vbci t _ | .vbce t _ | .vmov t _ | .vld t _ | .vst t _ | .vgath t _ | .vlds t _ | .vsts t _
    | .mand t _ | .mor t _ | .mxor t _ | .mnot t _ | .mfill t _ | .mpop t _ | .vgeom t _ | .vfclr t _ | .scan t _
    | .srmask t _ | .sst t _ | .attnInit t _ | .attnStep t _ | .attnFin t _ | .attnMerge t _ | .attnBwd t _
    | .attnFum t _ | .attnBinit t _ | .nop t _ | .loop t _ | .br t _ | .brf t _ | .brw t _ | .commit t _
    | .halt t _ | .barwait t _ | .barsig t _ | .semwait t _ | .semsig t _ | .swap t _ | .xreq t _ | .xwait t _
    | .barrierReached t | .watchdogExpiry t | .stageCommit t | .rerunStart t | .checkRunStart t | .checkCompare t
    | .patrolScrub t _ | .tileSleep t | .phase1Done t _ | .tleMxeCntClr t _ | .tleVecCntClr t _ | .tleCntClr t _
    | .tleAttCntClr t _ | .reservedOpcode t _ => t < 96
  | .fumaroleDone die | .thermalTick die | .thermalTrip die => die < 2
  | .semwaitGrant job sem => job < 65536 && sem < 256
  | .schedulingStep job read => job < 65536 && read.clusters.all (· < 12)
  | .commandStart job cluster => job < 65536 && cluster < 12
  | .taskCommit _ | .audit | .correctedReport _ _ | .fwComponentSwitch _ _ | .tyraxWatchdog | .tyraxReady
    | .bootVerify | .trialBootTimeout | .logFlush | .crystalStable _ | .crystalFailTimeout | .fmeasStart _
    | .fmeasDone _ | .supplySample _ _ | .drainComplete | .powerOn | .powerCapTick | .mgRstN _ | .hxPerstN
    | .linkDown | .ptmDialog _ _ | .ptmTimeout | .spdmRequest _ | .mctpControl _ | .pldmMonitoring _
    | .pldmFirmwareUpdate _ | .logRead _ _ | .mpPowerCap _ | .mpFwRollback _ | .mpRegisterRead _
    | .mpResetRequest | .pwrSupplyRead | .pwrCntClr _ | .linkTrained _ _ => true
  | .windowEnd part window => part < 12 && window < 64
  | .cycleTableSwitch part | .partZeroDone part | .orcCntClr part _ | .orcKvCntClr part _ | .mgtPartCntClr part _ =>
    part < 12
  | .routeSite _ site => site < 64
  | .slabIssue cluster _ | .mergeWaitExpiry cluster _ | .transactionLanded cluster _ _
    | .placementMove cluster _ _ _ _ | .spillMove cluster _ _ _ _ | .geyCntClr cluster _ => cluster < 12
  | .feedDb fn ring _ | .feedDescriptor fn ring _ => fn < 13 && ring < 64
  | .payloadLanded stream _ | .kvFlush stream | .swapOutLanded stream _ | .swapInLanded stream _
    | .autoSwapIn stream | .ideFailure stream => stream < 65536
  | .completionPost job ring | .ringHeadPoll job ring => job < 65536 && ring < 65536
  | .tableLoadResume fn _ | .commandTimeout fn _ | .submissionFetch fn _ | .eventRingWrite fn | .flr fn
    | .sqEnable fn | .sqDisable fn | .cqEnable fn | .cqDisable fn | .evtEnable fn | .evtDisable fn
    | .dciSqTail fn _ | .dciCqHead fn _ | .evtRingHead fn _ => fn < 13
  | .jobRelease job => job < 65536
  | .tdmFrame port _ _ pins => port < 8 && pins.dinRise.length ≤ 1024 && pins.dinFall.length ≤ 1024
  | .tdmHold port _ | .gapTick port | .tdmCntClr port _ => port < 8
  | .hbmScrub stack _ _ | .stackRetrain stack | .retrainDone stack _ => stack < 12
  | .sensorSample s _ => sensorOk s
  | .freqCheck pll _ => pllOk pll
  | .sliceDeepSleep slice => slice < 12
  | .phase2Done cluster failed => cluster < 12 && failed.all (· < 8)
  | .msixUnmask fn vec => fn < 13 && vec < 64
  | .shadowedConfigWrite b _ _ | .registerWrite b _ _ _ => blockOk b
  | .devQuery h code index _ => hdrOk h && code < 256 && index < 65536
  | .partCreate h _ _ | .partResize h _ _ | .partDestroy h | .partCycleTable h _ | .jobLoad h _ _ _
    | .portGroup h _ _ | .cfgStage h _ | .cfgCommit h _ | .cfgRevert h _ | .fwStage h _ _ | .fwActivate h _
    | .fwRollback h _ | .powerCap h _ => hdrOk h
  | .jobStart h job | .jobStop h job | .streamOpen h _ _ _ _ job _ _ _ _ _ _ _ | .prefixDrop h job _ _ =>
    hdrOk h && job < 65536
  | .streamFeed h desc => hdrOk h && desc.length = 32
  | .streamPause h stream | .streamResume h stream | .streamClose h stream _ | .streamQuery h stream _ _
    | .prefixInsert h stream _ _ | .kvSwapOut h stream | .kvSwapIn h stream | .checkStep h stream _ =>
    hdrOk h && stream < 65536
  | .portConfig h port _ | .portStart h port | .portStop h port => hdrOk h && port < 8
  | .checkTile h tile _ _ => hdrOk h && tile < 96
  | .checkTileDone tile _ => tile < 96
  | .attestQuote h nonce _ => hdrOk h && nonce.length = 32
  | .idCert h index _ _ => hdrOk h && index < 65536
  | .tableLoad h _ job _ _ _ table => hdrOk h && job < 65536 && table.length = 16
  | .configurationRequest r => cfgOk r
  | .pllLock p | .pllLosesLock p => pllOk p
  | .h2dSnoop _ data => data.length = 64

end Sys2Proof
end

