-- ==== Sys2Proof/Tests/Slice0.lean ====
section
/-! SUPPORT. Tests of the model on small states: what the well-formedness check refuses, single steps with results computed by hand
from the spec's words, and, for every statement with hypotheses, a state and operands that meet them. -/

open Sys2Proof Sys2Proof.Machine

namespace Sys2Proof.Tests

-- One test after the other: each evaluates a state, and many at once take much memory.
set_option Elab.async false

/-! ## A small machine: tile 0 runs a command of task 1 of job 1 in partition 0 -/

def v0 : VArgs := ⟨0, 0, 0, 0, 0, 0, false, false, 0, 0, 0, false, 0, 0, 0, 0, false⟩
def m0 : MArgs := ⟨0, 0, 0, false, false, 0, 0, false, 0x7F, 0, 0, 0, 0, 0, 0, false⟩
def ctrl0 : CtrlArgs := ⟨0, 0, 0, false, 0, 0, false, 0, 0⟩
def sync0 : SyncArgs := ⟨0, 0, 0⟩
def hd (fn : Nat) (part : Byte) : DciHdr := ⟨fn, 7, false, 0, part, false⟩

def hdr0 : KgiHdr :=
  { seed := 0, sper := 0, chunkBound := 0, taskUs := 100, chunkMax := 4096, frameMax := 64, rowcap := 4, stepLimit := 8, actfmt := 1
    depth := 2, autoreg := false, reduced := false, nstage := 1, rowmax := 4, nrole := 1, frame := 65536, workoff := 4096, worklen := 4096
    wloff := 8192, rstat := 0, inoff := 16384, inlen := 8192, biasoff := 0, nbh := 1, nsem := 0 }

def slot0 : DecSlot := { cond := .empty, gen := 0, table := [], order := 0 }
def ring0 : Ring := { kind := 1, vector := 0xFFFF, recsz := 32, nrec := 8, base := 0x10000, ctl := 0x20000, head := 0, tail := 0, holder := none }

def job0 : Job :=
  { part := 0, state := .running, share := [0], base := 0, hdr := hdr0, depth := 2, progs := [], placed := [], decl := none, pools := []
    rings := [ring0], sites := [], sems := [(3, { v := 2, h := 1, v0 := 2, signalled := 0, taken := 0, waits := [] })]
    quince := [slot0, slot0], sloe := [slot0, slot0], loads := 0, biasLive := false, kv := none, digest := [], compQ := []
    abortTimes := [], t0 := 0, sched := 0, inUse := [], queueAt := 0, replayAt := [] }

def row0 : Row :=
  { stream := 5, len := 4, rst := none, rst0 := false, sr := false, cont := false, check := false, replay := false, tile := 0, step := 0
    active := 1, assigned := 0, chunk := 0, bytes := 0, kvw := none, kvlen := 0, exitThr := 0, dline := 0, pins := [], experts := 0
    moved := false }

def pos0 : TilePos := { ident := 0, tile := 0, stage := 0, role := 0, left := [], fin := false, run := .first }

def task0 : Task :=
  { job := 1, cluster := 0, sched := 0, tstep := 0, state := .executing, replay := false, reduced := false, rows := [row0], pos := [pos0]
    finals := [], refQ := [], refS := [], biasCopy := false, kills := 0, streak := 0, killedAt := 0, finalAt := 0, bars := [(2, 3)], holds := [], signals := [], drift := []
    sites := [] }

def cmd0 : Cmd :=
  { task := 1, job := 1, part := 0, stage := 0, role := 0, ident := 0, image := 0, entry := 0, ninstr := 16, last := false
    phase := .execute, pc := 0, loops := [], wins := [], pairs := [{ base := 0x1C00, len := 512, comp1 := false, swaps := [] }]
    written := [], barsig := [], semsig := [], holds := [], drift := [], refQ := [], refS := [], chkEn := false, chkSlack := 0
    wdogEnd := some 1000, allow := 352, credits := 0, startTime := 0, issued := 0, wait := none, checked := false, mismatch := none, run := .first
    slotWrites := [], kvWrites := [], appendWrites := [], lateQueues := [], work := [], old := [], queue := [], narrowed := [], loose := [] }

def stream0 : Stream :=
  { job := 1, state := .open, part := 0, home := 0, rstNext := false, rstPend := false, sr := false, check := false, src := true
    ppause := false, pclose := false, discard := false, ppreempt := false, dclass := 2, prio := 0, replays := 0, slot := 0, step := 0
    kvw := none, kvlen := 0, irbase := 256, irunits := 64, irhead := 0, irtail := 0, cring := 0, driftSat := 0, driftNan := 0
    exitThr := 0, driftLimit := 0, exphist := 0, nskip := 0, nexit := 0, last := 0, tag := 0, committed := false, cont := false
    chunks := [] }

/-- Tyrax READY, partition 0 ACTIVE on slice 0 with the job, its task and a stream; tile 0 runs the command; cluster 0 at full
service. -/
def small : State :=
  { State.reset with
    mgt := { Mgt.reset with state := .ready }
    parts := { Part.reset with state := .active, slices := 1, quota := 5456, schedEn := true, portMask := 0x0F, tagsFree := 340, entFree := 5455 } :: List.replicate 11 Part.reset
    jobs := [(1, job0)], tasks := [(1, task0)], streams := [(5, stream0)]
    tiles := { Tile.reset with phase1 := true, phase2 := true, workBase := 64, workUnits := 64, nbh := 1, cmd := some cmd0 } :: List.replicate 95 Tile.reset
    geys := { Gey.reset with full := true } :: List.replicate 11 Gey.reset
    slices := { Slice.reset with online := true, trained := true, keySlot := some 0 } :: List.replicate 11 Slice.reset
    nextTask := 1 }

/-- Commands as fetched together and not yet taken, and a function with those outstanding. -/
def asked (l : List Instr) : List DciOut := l.map (fun i => { tag := 7, cmd := some i, fence := false, fetched := 0, seq := 0, stage := .fetched })
def asks (s : State) (n : Nat) (l : List Instr) : State := setFunc s n (fun f => { f with outstanding := asked l })

def withCmd (f : Cmd → Cmd) : State := setCmd small 0 f

/-- Is a result this value? -/
def okIs {α : Type} [DecidableEq α] (x : Except Nat α) (v : α) : Bool := match x with | .ok w => decide (w = v) | .error _ => false

theorem of_okIs {α : Type} [DecidableEq α] {x : Except Nat α} {v : α} (h : okIs x v = true) : x = .ok v := by
  cases x <;> simp_all [okIs]

/-- Is a result there? -/
def isOk {α : Type} (x : Except Nat α) : Bool := match x with | .ok _ => true | .error _ => false

theorem of_isOk {α : Type} {x : Except Nat α} (h : isOk x = true) : ∃ v, x = .ok v := by
  cases x with
  | ok v => exact ⟨v, rfl⟩
  | error => simp [isOk] at h

def nextOf : Host.Outcome State Fault Refusal → Option State
  | .next s => some s
  | _ => none

/-! ## What the well-formedness check refuses: one ill-formed command for each condition -/

theorem test_wf_tile : Instr.wf (.nop 96 ctrl0) = false ∧ Instr.wf (.nop 95 ctrl0) = true := by decide
theorem test_wf_die : Instr.wf (.thermalTick 2) = false := by decide
theorem test_wf_semaphore : Instr.wf (.semwaitGrant 1 256) = false ∧ Instr.wf (.semwaitGrant 65536 1) = false := by decide
theorem test_wf_step : Instr.wf (.schedulingStep 65536 { clusters := [], bad := false }) = false ∧ Instr.wf (.schedulingStep 1 { clusters := [12], bad := false }) = false := by decide
theorem test_wf_cluster : Instr.wf (.commandStart 65536 0) = false ∧ Instr.wf (.commandStart 1 12) = false ∧ Instr.wf (.slabIssue 12 0) = false := by decide
theorem test_wf_window : Instr.wf (.windowEnd 12 0) = false ∧ Instr.wf (.windowEnd 0 64) = false := by decide
theorem test_wf_part : Instr.wf (.partZeroDone 12) = false := by decide
theorem test_wf_site : Instr.wf (.routeSite 1 64) = false := by decide
theorem test_wf_feed : Instr.wf (.feedDb 13 0 0) = false ∧ Instr.wf (.feedDb 0 64 0) = false := by decide
theorem test_wf_stream : Instr.wf (.kvFlush 65536) = false := by decide
theorem test_wf_ring : Instr.wf (.ringHeadPoll 65536 0) = false ∧ Instr.wf (.ringHeadPoll 0 65536) = false := by decide
theorem test_wf_function : Instr.wf (.flr 13) = false ∧ Instr.wf (.tableLoadResume 13 0) = false := by decide
theorem test_wf_job : Instr.wf (.jobRelease 65536) = false := by decide
theorem test_wf_frame : Instr.wf (.tdmFrame 8 0 0 ⟨true, [], []⟩) = false
    ∧ Instr.wf (.tdmFrame 0 0 0 ⟨true, List.replicate 1025 false, []⟩) = false
    ∧ Instr.wf (.tdmFrame 0 0 0 ⟨true, [], List.replicate 1025 false⟩) = false := by decide +kernel
theorem test_wf_port : Instr.wf (.gapTick 8) = false := by decide
theorem test_wf_stack : Instr.wf (.stackRetrain 12) = false := by decide
theorem test_wf_sensor : Instr.wf (.sensorSample (.junction 2 0) none) = false ∧ Instr.wf (.sensorSample (.junction 0 12) none) = false
    ∧ Instr.wf (.sensorSample (.ioJunction 4) none) = false ∧ Instr.wf (.sensorSample (.stack 12) none) = false
    ∧ Instr.wf (.sensorSample (.rail 3) none) = false := by decide
theorem test_wf_pll : Instr.wf (.freqCheck (.coreA 2) 0) = false ∧ Instr.wf (.pllLock (.coreB 2)) = false
    ∧ Instr.wf (.pllLock (.fab 2)) = false ∧ Instr.wf (.pllLosesLock (.hbm 12)) = false := by decide
theorem test_wf_slice : Instr.wf (.sliceDeepSleep 12) = false := by decide
theorem test_wf_phase2 : Instr.wf (.phase2Done 12 []) = false ∧ Instr.wf (.phase2Done 0 [8]) = false := by decide
theorem test_wf_vector : Instr.wf (.msixUnmask 13 0) = false ∧ Instr.wf (.msixUnmask 0 64) = false := by decide
theorem test_wf_block : Instr.wf (.registerWrite (.bar0 13) 0 false 0) = false ∧ Instr.wf (.registerWrite (.tile 96) 0 false 0) = false
    ∧ Instr.wf (.registerWrite (.geyser 12) 0 false 0) = false ∧ Instr.wf (.registerWrite (.orchard 12) 0 false 0) = false
    ∧ Instr.wf (.registerWrite (.mgtPart 12) 0 false 0) = false ∧ Instr.wf (.shadowedConfigWrite (.tdm 8) 0 0) = false := by decide
theorem test_wf_query : Instr.wf (.devQuery (hd 13 0) 0 0 0) = false ∧ Instr.wf (.devQuery (hd 0 0) 256 0 0) = false
    ∧ Instr.wf (.devQuery (hd 0 0) 0 65536 0) = false := by decide
theorem test_wf_header : Instr.wf (.partDestroy (hd 13 0)) = false := by decide
theorem test_wf_job_command : Instr.wf (.jobStart (hd 13 0) 0) = false ∧ Instr.wf (.jobStart (hd 0 0) 65536) = false := by decide
theorem test_wf_descriptor : Instr.wf (.streamFeed (hd 13 0) (List.replicate 32 0)) = false
    ∧ Instr.wf (.streamFeed (hd 0 0) (List.replicate 31 0)) = false := by decide
theorem test_wf_stream_command : Instr.wf (.streamPause (hd 13 0) 0) = false ∧ Instr.wf (.streamPause (hd 0 0) 65536) = false := by decide
theorem test_wf_port_command : Instr.wf (.portStart (hd 13 0) 0) = false ∧ Instr.wf (.portStart (hd 0 0) 8) = false := by decide
theorem test_wf_check : Instr.wf (.checkTile (hd 13 0) 0 0 false) = false ∧ Instr.wf (.checkTile (hd 0 0) 96 0 false) = false
    ∧ Instr.wf (.checkTileDone 96 0) = false := by decide
theorem test_wf_quote : Instr.wf (.attestQuote (hd 13 0) (List.replicate 32 0) 0) = false
    ∧ Instr.wf (.attestQuote (hd 0 0) (List.replicate 31 0) 0) = false := by decide
theorem test_wf_cert : Instr.wf (.idCert (hd 13 0) 0 0 0) = false ∧ Instr.wf (.idCert (hd 0 0) 65536 0 0) = false := by decide
theorem test_wf_table : Instr.wf (.tableLoad (hd 13 0) 1 1 0 0 0 (List.replicate 16 0)) = false
    ∧ Instr.wf (.tableLoad (hd 0 0) 1 65536 0 0 0 (List.replicate 16 0)) = false
    ∧ Instr.wf (.tableLoad (hd 0 0) 1 1 0 0 0 (List.replicate 15 0)) = false := by decide
theorem test_wf_configuration : Instr.wf (.configurationRequest (.busMaster 13 true)) = false
    ∧ Instr.wf (.configurationRequest (.numVFs 13)) = false := by decide
theorem test_wf_snoop : Instr.wf (.h2dSnoop 0 (List.replicate 63 0)) = false := by decide

/-! ## The vector, matrix, scan and attention statements -/

theorem runs_small : Runs small 0 cmd0 := ⟨rfl, rfl, rfl⟩

theorem engine_small : EngineRuns small 0 cmd0 := ⟨runs_small, rfl, rfl⟩

/-- What can be read, and the bytes that may be stored, as checks that evaluate. -/
def readCheck (s : State) (t : Nat) (c : Cmd) (tile off n : Nat) : Bool :=
  decide (off + n ≤ 0x400000) && !fillHit c off n && !rangeWritten s t c (calAddr tile off) n && s.badWords.isEmpty

theorem readable_of {s : State} {t : Nat} {c : Cmd} {tile off n : Nat} (h : readCheck s t c tile off n = true) : Readable s t c tile off n := by
  simp only [readCheck, Bool.and_eq_true, decide_eq_true_eq, Bool.not_eq_true', List.isEmpty_iff] at h
  exact ⟨h.1.1.1, fun _ => h.1.1.2, h.1.2, cmdBad_clean h.2 _ _ _ _⟩

def canRead (s : State) (t : Nat) (c : Cmd) (tile off n : Nat) : Bool := readCheck (atDispatch s t c) t (dispatched c) tile off n
theorem canRead_of {s : State} {t : Nat} {c : Cmd} {tile off n : Nat} (h : canRead s t c tile off n = true) : CanRead s t c tile off n :=
  readable_of h

def storeCheck (s : State) (t : Nat) (c : Cmd) (a : Nat) : Bool :=
  (match writeKind s t c false a with
    | .ok (k, x) => k != .work || unitWritten c x || (shadowWin c (64 * (x / 64))).isNone || s.badWords.isEmpty
    | .error _ => false) && !rangeWritten s t c a 1 && !rangeRead s t c a 1

theorem storable_of {s : State} {t : Nat} {c : Cmd} {a : Nat} (h : storeCheck s t c a = true) : Storable s t c a := by
  simp only [storeCheck, Bool.and_eq_true, Bool.not_eq_true'] at h
  obtain ⟨⟨h1, h2⟩, h3⟩ := h
  split at h1
  · rename_i k x e
    refine ⟨⟨k, x, e, fun hk => ?_⟩, h2, h3⟩
    subst hk
    simpa [List.isEmpty_iff, or_assoc] using h1
  · exact absurd h1 (by decide)

def canStore (s : State) (t : Nat) (c : Cmd) (tile off n : Nat) : Bool :=
  decide (off + n ≤ 0x400000) && (List.range n).all (fun i => storeCheck (atDispatch s t c) t (dispatched c) (calAddr tile off + i))
theorem canStore_of {s : State} {t : Nat} {c : Cmd} {tile off n : Nat} (h : canStore s t c tile off n = true) : CanStore s t c tile off n := by
  simp only [canStore, Bool.and_eq_true, decide_eq_true_eq, List.all_eq_true, List.mem_range] at h
  exact ⟨by omega, by omega, fun i hi => storable_of (h.2 i hi)⟩

theorem wf_reset : Engine.reset.Wf := ⟨⟨by decide, by decide⟩, ⟨by decide, by decide⟩, ⟨by decide, by decide⟩, ⟨by decide, by decide⟩⟩

theorem eng_small : (engOf small 0).Wf := wf_reset

/-- 4,096 elements, every source used. -/
def vFull : VArgs := { v0 with n := 4096, vd := 7, va := 1, vb := 2, vc := 3, msk := 1, men := true }

theorem witness_VectorArithmeticAndUnary : EngineRuns small 0 cmd0 ∧ (engOf small 0).Wf ∧ v0.par = false
    ∧ vFields { vFull with vc := 0 } { va := true, vb := true } = true
    ∧ vFields vFull { va := true, vb := true, vc := true } = true
    ∧ vFields { vFull with vb := 0, vc := 0 } { va := true } = true :=
  ⟨engine_small, eng_small, rfl, by decide, by decide, by decide⟩

theorem witness_VectorSelectAndConvert : EngineRuns small 0 cmd0 ∧ (engOf small 0).Wf ∧ v0.par = false
    ∧ vFields { v0 with n := 4096, va := 1, vb := 2, ms := 7 } { va := true, vb := true, ms := true } = true
    ∧ vFields { v0 with n := 4096, rmode := 1 } { va := true, rnd := true } = true
    ∧ rowsOk (vctx small cmd0) (engOf small 0).geom 4096 1 = true
    ∧ vFields { v0 with n := 64, fmt := 4, sat := true, rmode := 3 } { va := true, rnd := true, sat := true, fmt := true } = true
    ∧ fmtAct 4 = true ∧ rowsOk (vctx small cmd0) (engOf small 0).geom 64 3 = true
    ∧ vFields { v0 with n := 4, sub := 1, imm := 0x80000000 } { sub := true, imm := true } = true ∧ (1 : BitVec 3).toNat < 2
    ∧ vFields { v0 with n := 4, va := 15, vb := 15 } { va := true, vb := true } = true
    ∧ vFields { v0 with n := 4, imm := 0xFFFFFFFF } { imm := true } = true
    ∧ vFields { v0 with n := 4, va := 1, imm := 4095 } { va := true, imm := true } = true :=
  ⟨engine_small, eng_small, rfl, by decide, by decide, by decide, by decide, by decide, by decide, by decide, by decide, by decide, by decide, by decide⟩

theorem witness_VectorMasks : EngineRuns small 0 cmd0 ∧ (engOf small 0).Wf ∧ v0.par = false
    ∧ vFields { v0 with n := 4096, vd := 7, sub := 5 } { va := true, vb := true, sub := true } = true
    ∧ (5 : BitVec 3).toNat ≤ 5 ∧ (7 : BitVec 4).toNat < 8
    ∧ vFields { v0 with n := 4096, vd := 7, va := 7, vb := 7 } { va := true, vb := true } = true
    ∧ vFields { v0 with n := 1, vd := 7, va := 7 } { va := true } = true
    ∧ vFields { v0 with n := 4096, vd := 0, imm := 1 } { imm := true } = true :=
  ⟨engine_small, eng_small, rfl, by decide, by decide, by decide, by decide, by decide, by decide⟩

theorem witness_VectorRowsGeometryAndFlags : EngineRuns small 0 cmd0 ∧ (engOf small 0).Wf ∧ v0.par = false
    ∧ vFields { v0 with n := 4096, sub := 6 } { va := true, sub := true } = true ∧ (6 : BitVec 3).toNat ≠ 7
    ∧ vFields { v0 with n := 0, sub := 3 } { va := true, sub := true } = true ∧ (3 : BitVec 3).toNat ∈ [0, 2, 3]
    ∧ (⟨4096, 0, 0, true, 0, false⟩ : VGeomArgs).rowlen.toNat ≤ 4096 ∧ (⟨0xFF, 0, false⟩ : VFclrArgs).rsv = 0 :=
  ⟨engine_small, eng_small, rfl, by decide, by decide, by decide, by decide, by decide, by decide⟩

theorem witness_RefusedVectorFieldsAbort : getCmd small 0 = some cmd0 ∧ dispatches small 0 cmd0 = true ∧ passesBegin small 0 = true
    ∧ vFields { v0 with n := 4097 } { va := true, vb := true } = false ∧ vFields { v0 with rsv := 1 } { va := true } = false
    ∧ (vFields { v0 with sub := 6 } { va := true, vb := true, sub := true } && decide ((6 : BitVec 3).toNat ≤ 5)) = false
    ∧ fmtAct 0 = false := ⟨rfl, rfl, rfl, by decide, by decide, by decide, by decide⟩

/-- Tile 0 reads its own Caldera: element 0 of a load, the element that a gather's index 0 names, a compressed block whose word is 0. -/
def gl : GArgs := ⟨1, 3, 0, 0, false, false, 0, 0x7F, 0, 1, 0, false⟩
def sl0 : SArgs := ⟨128, 0, 1, 0, false, 0x7F, 0, 0, 0, 0, false⟩

/-- Tile 0's Caldera with a directory entry at offset 0 for a block at offset 0x40 that is all zeros. -/
def blocked : State :=
  { small with mem := (asWrites (calAddr 0 0) (leBytes 4 (16 + 2 ^ 20))
      ++ asWrites (calAddr 0 0x40) (leBytes 4 (blkHdrWord { mode := 2, gen := 0, len4 := 1, fmt := 1, cntA := 0, cntB := 0 }))).filter (fun e => e.2 ≠ 0) }

theorem witness_VectorLoads : EngineRuns small 0 cmd0 ∧ (engOf small 0).Wf
    ∧ m0.par = false ∧ mFields { m0 with n := 1 } = true ∧ m0.rmode = 0 ∧ m0.sat = false ∧ m0.site = 0 ∧ tileField small 0 cmd0 0x7F = .ok 0
    ∧ elemBit 0 0 (fmtBits 0) 1 1 0 = 0 ∧ CanRead small 0 cmd0 0 0 4 ∧ fmtIsMx 0 = false
    ∧ gl.par = false ∧ gl.n.toNat ≤ 4096 ∧ gl.rsv = 0 ∧ gathFmt gl.fmt.toNat = true ∧ (vGet (engOf small 0) 0 0).toInt = 0
    ∧ sl0.par = false ∧ sFields sl0 (engOf small 0).geom = true ∧ sl0.rmode = 0 ∧ sl0.sat = false ∧ sl0.baddr = 0 ∧ sl0.site = 0
    ∧ EngineRuns blocked 0 cmd0 ∧ (engOf blocked 0).Wf ∧ sloeAt (readsOf blocked 0 cmd0 0) cmd0.refS 1 0 = .ok (List.replicate 128 0) :=
  ⟨engine_small, eng_small, rfl, by decide, rfl, rfl, rfl, of_okIs (by decide), by decide, canRead_of (by decide), by decide, rfl, by decide,
    rfl, by decide, by decide, rfl, by decide, rfl, rfl, rfl, rfl, ⟨⟨rfl, rfl, rfl⟩, rfl, rfl⟩, wf_reset, of_okIs (by decide +kernel)⟩

/-- A store of element 0 of register 0 as FP32 at offset 0x1000 of tile 0, which is in WORK; the bytes it writes. -/
def st0 : MArgs := { m0 with n := 1, addr := 0x1000 }
def ws0 : List (Nat × Byte) := asWrites (calAddr 0 0x1000) [0, 0, 0, 0]

/-- A store of one MX block of 32 elements, its scale at offset 0x1400. -/
def stMx : MArgs := { m0 with n := 32, fmt := 5, addr := 0x1000, saddr := 0x50 }

/-- The small machine with a stream of rows for RMODE STREAM. -/
def streamy : State := setTile small 0 (fun x => { x with eng := { x.eng with geom := { Geom.reset with nostrm := false } } })

/-- A compressed store of 128 zeros at offset 0x1800, its word at offset 0x1000. -/
def ss0 : SArgs := ⟨128, 0, 1, 0, false, 0x7F, 0x1000, 0x1800, 0, 0, false⟩

theorem witness_VectorStoresAndTheirTargets : (∀ w ∈ ws0, Storable small 0 cmd0 w.1)
    ∧ (∃ r, cmdWrites small 0 cmd0 false ws0 = .ok r)
    ∧ EngineRuns small 0 cmd0 ∧ st0.par = false ∧ mFields st0 = true ∧ st0.mz = false ∧ fmtIsMx st0.fmt.toNat = false
    ∧ tileField small 0 cmd0 st0.tile = .ok 0 ∧ rowsOk (vctx small cmd0) (engOf small 0).geom 1 0 = true
    ∧ activeElems (engOf small 0) 1 false 0 = [0] ∧ elemBit 0x1000 0 32 1 1 0 / 8 = 0x1000 ∧ CanStore small 0 cmd0 0 (0x1000 : Nat) 4
    ∧ stMx.par = false ∧ mFields stMx = true ∧ stMx.mz = false ∧ fmtIsMx stMx.fmt.toNat = true ∧ stMx.men = false
    ∧ blocksInRows (engOf small 0).geom 32 32 = true ∧ scaleOff 0x50 32 32 0 = 0x1400 ∧ CanStore small 0 cmd0 0 (0x1000 : Nat) 32
    ∧ CanStore small 0 cmd0 0 (0x1400 : Nat) 1
    ∧ ss0.par = false ∧ sFields ss0 (engOf small 0).geom = true
    ∧ (sloeEncode [] 1 (List.replicate 128 0)).length ≤ 256 ∧ (∀ n, n ≤ 256 → CanStore small 0 cmd0 0 (0x1800 : Nat) n)
    ∧ EngineRuns streamy 0 cmd0 ∧ sstFields { st0 with fmt := 1 } (engOf streamy 0).geom = true
    ∧ rowsOk (vctx streamy cmd0) (engOf streamy 0).geom 1 3 = true ∧ CanStore streamy 0 cmd0 0 (0x1000 : Nat) 2 :=
  ⟨fun w hw => storable_of (by revert w; decide), of_isOk (by decide +kernel), engine_small, rfl, by decide, rfl, by decide, of_okIs (by decide),
    by decide, by decide, by decide, canStore_of (by decide), rfl, by decide, rfl, by decide, rfl, by decide, by decide, canStore_of (by decide),
    canStore_of (by decide), rfl, by decide, by decide +kernel, fun n hn => (by
      obtain ⟨h1, h2, h3⟩ := canStore_of (s := small) (t := 0) (c := cmd0) (tile := 0) (off := 0x1800) (n := 256) (by decide +kernel)
      exact ⟨h1, by omega, fun i hi => h3 i (by omega)⟩),
    ⟨⟨rfl, rfl, rfl⟩, rfl, rfl⟩, by decide, by decide +kernel, canStore_of (by decide)⟩

/-! ### Matrix, scan -/

def wl0 : WloadArgs := ⟨1, false, false, false, 1, 1, 0, 0, 0, 0, false⟩
def plane0 : Plane := { fmt := 1, sparse := false, klen := 1, ncol := 1, cols := [{ codes := List.replicate 128 0, scales := [], nib := [] }] }
def mma0 : MmaArgs := ⟨1, false, false, true, false, 0, false, false, 1, 0, 0, 0, 0, 0, false⟩
def loaded : State := setTile small 0 (fun x => { x with eng := { x.eng with plane0 := some plane0 } })
def drainReg : DrainArgs := ⟨false, 3, false, true, 0, 2, 0, 2, 0, 0, 0, false⟩
def drainMem : DrainArgs := ⟨true, 0, false, false, 0, 1, 0, 1, 0x40, 1, 0, false⟩

theorem witness_MatrixScanAndResetMask : EngineRuns small 0 cmd0 ∧ (engOf small 0).Wf
    ∧ wl0.par = false ∧ bf16Only small 0 1 = true ∧ wloadOk wl0 = true ∧ wl0.wcoded = false ∧ (∀ i, i < 1 → CanRead small 0 cmd0 0 (i * colBytes 1) (colBytes 1))
    ∧ fmtIsMx 1 = false ∧ wl0.sparse = false
    ∧ EngineRuns loaded 0 cmd0 ∧ mma0.par = false ∧ mma0.rsv = 0 ∧ mma0.acoded = false ∧ cmd0.chkEn = false
    ∧ (engOf loaded 0).plane0 = some plane0 ∧ mmaOk mma0 plane0 (engOf loaded 0).bank0 = true
    ∧ (∀ r, r < 1 → CanRead loaded 0 cmd0 0 (r * 0) (cdiv (plane0.klen * fmtBits 1) 8))
    ∧ ({ mma0 with m := 0 } : MmaArgs).m = 0
    ∧ drainReg.par = false ∧ drainOk drainReg (engOf small 0).bank0 = true ∧ drainReg.dest = false
    ∧ drainOk drainMem (engOf small 0).bank0 = true ∧ drainMem.dest = true
    ∧ (∀ e ∈ drainStores drainMem (drainWords drainMem (engOf small 0).bank0), CanStore small 0 cmd0 0 e.1 4)
    ∧ scanOk ⟨256, 3, 0, 1, 2, 0, false, 1, 1, 0, false⟩ (engOf small 0).geom = true
    ∧ srmaskFieldsOk ⟨1, 0, 0, 256, 1, 0, false⟩ = true ∧ (engOf small 0).geom.row0 + 1 ≤ (vctx small cmd0).rows.length
    ∧ (∀ b ∈ srmaskBits ⟨1, 0, 0, 256, 1, 0, false⟩ (((vctx small cmd0).rows.drop 0).take 1), b < 4096) := by
  refine ⟨engine_small, eng_small, rfl, by decide, by decide, rfl, fun i hi => canRead_of ?_, by decide, rfl, ⟨⟨rfl, rfl, rfl⟩, rfl, rfl⟩, rfl, rfl, rfl,
    rfl, rfl, by decide, fun r hr => canRead_of ?_, rfl, rfl, by decide, rfl, by decide, rfl, fun e he => ?_, by decide, by decide, by decide, by decide⟩
  · obtain rfl : i = 0 := by omega
    decide
  · obtain rfl : r = 0 := by omega
    decide
  · have h : drainStores drainMem (drainWords drainMem (engOf small 0).bank0) = [(0x1000, 0)] := by decide +kernel
    rw [h, List.mem_singleton] at he
    subst he
    exact canStore_of (by decide)

/-! ### Aborts -/

/-- A transfer of tile 0 within its Caldera that has not landed. -/
def xferCal : Xfer :=
  { id := 0, tile := 0, task := 1, topair := false, pair := 0, depth := 2, queuedAt := 0, pc := 0, queue := 0, held := 1, issued := 0
    landed := 0, store := [], first := 0, waiting := false, member := none, cancelled := false
    desc := { kind := 1, codec := 0, depth := 0, len := 64, src := calAddr 0 0x8000, dst := calAddr 0 0x1000, count := 0, sstride := 0
              rate0 := 0, dline := 0, stream := 0xFFFFFFFF, group := 0, gidx := 0, rsv := false } }

theorem units_small : small.Units := ⟨rfl, rfl, rfl, rfl, rfl, rfl, rfl, rfl⟩

/-- Supply throttle level 8; a tile whose vector engine's clock branch is off. -/
def atEight : State := { small with pwr := { small.pwr with capLevel := 8 } }
def unclocked : State := setTile small 0 (fun x => { x with runEn := 3 })

theorem witness_AbortsAndTheirCauses : getCmd small 0 = some cmd0 ∧ dispatches small 0 cmd0 = true ∧ decodeWord 0 (0xFF#128 <<< 120) = none
    ∧ boardFree (setGey small 0 (fun g => { g with xfers := List.replicate 32 { xferCal with task := 1 } })) 0 = false ∧ passesBegin small 0 = true
    ∧ 8 ≤ effLevel atEight 0 ∧ clocked unclocked 0 2 = false
    ∧ ({ v0 with par := true } : VArgs).par = true ∧ vFields { v0 with par := true } { va := true, vb := true } = true
    ∧ small.Units ∧ cmd0.run = .first ∧ getTask small 1 = some task0 ∧ getJob small task0.job = some job0
    ∧ (∃ y, getTask (mismatchStop small 0 cmd0 0) cmd0.task = some y) :=
  ⟨rfl, rfl, by decide +kernel, by decide +kernel, rfl, by decide, by decide, rfl, by decide, units_small, rfl, rfl, rfl, Option.isSome_iff_exists.1 (by decide +kernel)⟩

/-! ### Attention -/

def ai0 : AttnInitArgs := ⟨false, 0, 0, 1, 1, 1, 0, 4, 5, 0x40, 1, false, 0, 0, false⟩
def abi0 : AttnBinitArgs := ⟨false, 0, 0, 1, 1, 5, 0, 0x40, 0x40, 1, 0x80, false, 0, 0, false⟩

/-- A key block's head at offset 0x2000: format 1, head dimension 32. -/
def keyed : State := { small with mem := [(calAddr 0 0x2022, 1)] }

/-- A forward context and a backward one, with one row that is off. -/
def ctxF : AttnCtx :=
  { bwd := false, qrows := 1, dh := 32, qfmt := 1, kvfmt := 1, pfmt := 1, vo := 0, vs := 4, q := [List.replicate 32 0]
    info := [0x80000000], causal := false, scale := 0, dout := [], recs := [], blocks := [], merged := false }
def ctxB : AttnCtx := { ctxF with bwd := true, dout := [List.replicate 32 0], recs := [(0, 0, 0)] }

/-- The machine with a context open, and WORK of 32 KiB at offset 0x8000. -/
def withCtx (c : AttnCtx) : State := setTile keyed 0 (fun x => { x with eng := { x.eng with ctx0 := some c }, workBase := 0x200, workUnits := 0x200 })

theorem keyed_runs : dispatches keyed 0 cmd0 = true ∧ passesBegin keyed 0 = true := by decide

theorem engine_ctx (x : AttnCtx) : EngineRuns (withCtx x) 0 cmd0 := ⟨⟨rfl, keyed_runs.1, rfl⟩, keyed_runs.2, rfl⟩

theorem written_ctx (x : AttnCtx) (a n : Nat) : rangeWritten (atDispatch (withCtx x) 0 cmd0) 0 (dispatched cmd0) a n = false := rfl
theorem read_ctx (x : AttnCtx) (a n : Nat) : rangeRead (atDispatch (withCtx x) 0 cmd0) 0 (dispatched cmd0) a n = false := rfl

/-- In these states every range of Caldera outside FILL halves can be read, and WORK may be stored. -/
theorem canRead_ctx (x : AttnCtx) {off n : Nat} (h : off + n ≤ 0x400000) (hf : fillHit cmd0 off n = false) :
    CanRead (withCtx x) 0 cmd0 0 off n := ⟨h, fun _ => hf, written_ctx x _ _, cmdBad_clean rfl _ _ _ _⟩

theorem storable_ctx (x : AttnCtx) {i : Nat} (h : 0x8000 ≤ i) (h2 : i < 0x10000) :
    Storable (atDispatch (withCtx x) 0 cmd0) 0 (dispatched cmd0) (calAddr 0 i) := by
  have hw : inWork (atDispatch (withCtx x) 0 cmd0) 0 (calAddr 0 i) = true := by
    show (decide (calAddr 0 (64 * 0x200) ≤ calAddr 0 i) && decide (calAddr 0 i < calAddr 0 (64 * 0x200) + 64 * 0x200)) = true
    rw [Bool.and_eq_true, decide_eq_true_eq, decide_eq_true_eq]
    unfold calAddr
    omega
  have hf : fillHit (dispatched cmd0) (calAddr 0 i - calAddr 0 0) 1 = false := by
    show ([({ base := 0x1C00, len := 512, comp1 := false, swaps := [] } : Pair)].any (fun p => overlap (calAddr 0 i - calAddr 0 0) 1 (fillOff p) p.len)) = false
    have hi : calAddr 0 i - calAddr 0 0 = i := by simp only [calAddr]; omega
    rw [hi]
    simp only [List.any_cons, List.any_nil, Bool.or_false, overlap, fillOff, Bool.and_eq_false_iff, decide_eq_false_iff_not]
    simp
    omega
  refine ⟨⟨.work, calAddr 0 i, ?_, fun _ => .inr (.inl rfl)⟩, written_ctx x _ _, read_ctx x _ _⟩
  simp [writeKind, hf, hw]
  rfl

theorem canStore_ctx (x : AttnCtx) {off n : Nat} (h : 0x8000 ≤ off) (h2 : off + n ≤ 0x10000) : CanStore (withCtx x) 0 cmd0 0 off n :=
  ⟨by omega, by omega, fun i hi => by
    have h3 : calAddr 0 ((off : Int).toNat) + i = calAddr 0 (off + i) := by simp [calAddr]; omega
    rw [h3]
    exact storable_ctx x (by omega) (by omega)⟩

theorem key_ctx (x : AttnCtx) (hx : x = ctxF ∨ x = ctxB) : KeyReady (withCtx x) 0 cmd0 x (64 * (0x80 : BitVec 16).toNat) := by
  have hb : readBytes (withCtx x) 0 cmd0 0 (64 * (0x80 : BitVec 16).toNat) 64 = List.replicate 34 0 ++ [1] ++ List.replicate 29 0 := by
    obtain rfl | rfl := hx <;> decide +kernel
  refine ⟨canRead_ctx x ?_ ?_, ?_⟩
  · obtain rfl | rfl := hx <;> decide
  · obtain rfl | rfl := hx <;> decide
  · simp only [hb]
    obtain rfl | rfl := hx <;> decide

theorem bias_ctx (x : AttnCtx) : BiasReady (atDispatch (withCtx x) 0 cmd0) 0 (dispatched cmd0) [0x80000000] := by
  refine ⟨rfl, fun h b h1 h2 => ?_⟩
  obtain rfl : h = 0 := Nat.lt_one_iff.1 h1
  refine canRead_ctx x ?_ ?_
  · show 64 * 0 + 1024 * 0 + 4 * b + 4 ≤ 0x400000
    omega
  · show ([({ base := 0x1C00, len := 512, comp1 := false, swaps := [] } : Pair)].any
      (fun p => overlap (64 * 0 + 1024 * 0 + 4 * b) 4 (fillOff p) p.len)) = false
    simp only [List.any_cons, List.any_nil, Bool.or_false, overlap, fillOff, Bool.and_eq_false_iff, decide_eq_false_iff_not]
    simp
    omega

theorem witness_AttentionInstructions : EngineRuns small 0 cmd0 ∧ (getGey small 0).full = true
    ∧ ctxOf (engOf small 0) false = none ∧ fmtAct 1 = true ∧ kvFmtOk 1 = true
    ∧ infoOk 1 [vGet (engOf small 0) 5 0] = true ∧ ctxRegsOk (engOf small 0) false (regsOf false 1 32 0 4) 5 = true
    ∧ CanRead small 0 cmd0 0 0x1000 64
    ∧ ctxRegsOk (engOf small 0) false (regsOf true 1 32 0 0) 5 = true ∧ CanRead small 0 cmd0 0 0x2000 16
    ∧ (∀ x, EngineRuns (withCtx x) 0 cmd0) ∧ (getGey (withCtx ctxF) 0).full = true ∧ ctxOf (engOf (withCtx ctxF) 0) false = some ctxF
    ∧ KeyReady (withCtx ctxF) 0 cmd0 ctxF 0x2000 ∧ BiasReady (atDispatch (withCtx ctxF) 0 cmd0) 0 (dispatched cmd0) ctxF.info
    ∧ 0x8000 % 32 = 0 ∧ CanRead (withCtx ctxF) 0 cmd0 0 0x8000 32 ∧ CanStore (withCtx ctxF) 0 cmd0 0 (0x8000 : Nat) 32
    ∧ 0x1800 % 8 = 0 ∧ CanRead (withCtx ctxF) 0 cmd0 0 0x1800 8 ∧ CanRead (withCtx ctxF) 0 cmd0 0 0x1000 128
    ∧ ctxOf (engOf (withCtx ctxB) 0) false = some ctxB ∧ KeyReady (withCtx ctxB) 0 cmd0 ctxB 0x2000
    ∧ BiasReady (atDispatch (withCtx ctxB) 0 cmd0) 0 (dispatched cmd0) ctxB.info
    ∧ (0x8000 % 64 = 0 ∧ 0xC000 % 64 = 0) ∧ (∀ d, d = 0x8000 ∨ d = 0xC000 → CanRead (withCtx ctxB) 0 cmd0 0 d (512 * 32)
      ∧ CanStore (withCtx ctxB) 0 cmd0 0 d (512 * 32))
    ∧ rowsOk (vctx (withCtx ctxF) cmd0) (engOf (withCtx ctxF) 0).geom 32 0 = true ∧ CanStore (withCtx ctxF) 0 cmd0 0 (0x9000 : Nat) 64
    ∧ passesFum (atDispatch (withCtx ctxF) 0 cmd0) 0 (dispatched cmd0) = false :=
  ⟨engine_small, rfl, rfl, by decide, by decide, by decide, by decide, canRead_of (by decide), by decide, canRead_of (by decide), engine_ctx, rfl,
    rfl, key_ctx _ (.inl rfl), bias_ctx _, by decide, canRead_ctx _ (by decide) (by decide), canStore_ctx _ (by decide) (by decide), by decide,
    canRead_ctx _ (by decide) (by decide), canRead_ctx _ (by decide) (by decide), rfl, key_ctx _ (.inr rfl), bias_ctx _, by decide,
    fun d hd => (by
      obtain rfl | rfl := hd
      · exact ⟨canRead_ctx _ (by decide) (by decide), canStore_ctx _ (by decide) (by decide)⟩
      · exact ⟨canRead_ctx _ (by decide) (by decide), canStore_ctx _ (by decide) (by decide)⟩),
    by decide, canStore_ctx _ (by decide) (by decide), by decide⟩

/-- A Fumarole request at offset 0x3000 of one query, at 0x3400 with its row information at 0x3500, and one key block, whose address
stands at 0x3600: NQ 1, NB 1, head dimension 32, format 1; the results go to the start of WORK. -/
def fumMem : State :=
  { small with
    mem := ([(calAddr 0 0x2022, 1), (calAddr 0 0x3000, 1), (calAddr 0 0x3002, 1), (calAddr 0 0x3005, 1), (calAddr 0 0x300D, 0x34),
      (calAddr 0 0x3011, 0x35), (calAddr 0 0x3015, 0x36)] ++ asWrites (calAddr 0 0x3600) (leBytes 8 (calAddr 0 0x2000))).filter (fun e => e.2 ≠ 0) }
def fumCmd : FumCmd :=
  { nq := 1, nb := 1, dh := 32, causal := false, norm := false, save := false, qfmt := 1, scale := 0, qaddr := 0x3400, qiaddr := 0x3500
    blist := 0x3600, oaddr := 0, saddr := 0 }
def fum0 : AttnFumArgs := { rsv := 0, off := 0x3000, par := false }
def waiting : Cmd := { cmd0 with queue := [{ instr := .attnFum 0 fum0, pc := 4, started := true }] }
def fumQueued : State := setDie (setCmd fumMem 0 (fun _ => waiting)) 0 (fun d => { d with fumQ := [{ tile := 0, off := 0x3000 }] })
def fumTaken : State := setDie fumQueued 0 (fun d => { d with fumQ := [] })

theorem fum_ready : FumReady fumTaken 0 cmd0 fumCmd := by
  have hi : leAt ((addrs (calAddr 0 0x3500) 4).map (engByte fumTaken 0 cmd0)) 0 4 = 0 := by decide +kernel
  have ha : leAt ((addrs (calAddr 0 0x3600) 8).map (engByte fumTaken 0 cmd0)) 0 8 = calAddr 0 0x2000 := by decide +kernel
  have hh : (addrs (calAddr 0 0x2000) 64).map (fumByte fumTaken 0 cmd0 0) = List.replicate 34 0 ++ [1] ++ List.replicate 29 0 := by decide +kernel
  refine ⟨readable_of (by decide), ⟨?_, fun h b h1 h2 => ?_⟩, fun r hr => ?_, readable_of (by decide), fun i hi' => ?_, fun i hi' => ?_, ?_⟩
  · show infoOk 1 [BitVec.ofNat 32 (leAt ((addrs (calAddr 0 0x3500) 4).map (engByte fumTaken 0 cmd0)) 0 4)] = true
    rw [hi]
    decide
  · obtain rfl : h = 0 := Nat.lt_one_iff.1 h1
    refine ⟨?_, fun _ => ?_, rfl, cmdBad_clean rfl _ _ _ _⟩
    · show 64 * 0 + 1024 * 0 + 4 * b + 4 ≤ 0x400000
      omega
    · show ([({ base := 0x1C00, len := 512, comp1 := false, swaps := [] } : Pair)].any
        (fun p => overlap (64 * 0 + 1024 * 0 + 4 * b) 4 (fillOff p) p.len)) = false
      simp only [List.any_cons, List.any_nil, Bool.or_false, overlap, fillOff, Bool.and_eq_false_iff, decide_eq_false_iff_not]
      simp
      omega
  · obtain rfl : r = 0 := Nat.lt_one_iff.1 hr
    exact readable_of (by decide)
  · obtain rfl : i = 0 := Nat.lt_one_iff.1 hi'
    refine ⟨0, 0x2000, ?_⟩
    show placeOf (leAt ((addrs (calAddr 0 0x3600) 8).map (engByte fumTaken 0 cmd0)) 0 8) = _ ∧ _
    rw [ha, hh]
    exact ⟨by decide, by decide, by decide, readable_of (by decide), by decide, by decide, by decide, readable_of (by decide)⟩
  · have hall : (List.range 128).all (fun i => storeCheck fumTaken 0 cmd0 (workAddr fumTaken 0 + 0 + i)) = true := by decide +kernel
    have hm := List.all_eq_true.1 hall i (List.mem_range.2 hi')
    refine ⟨?_, storable_of hm⟩
    have hw : workAddr fumTaken 0 = calAddr 0 0x1000 := by decide
    have hn : i < 128 := hi'
    rw [hw]
    show calAddr 0 0x1000 + 0 + i < calAddr 0 0x400000
    simp only [calAddr]
    omega
  · exact fun h => absurd h (by decide)

theorem witness_FumaroleServesInOrder : small.Units ∧ fumMem.Units ∧ getCmd fumMem 0 = some cmd0 ∧ EngineRuns fumMem 0 cmd0
    ∧ (⟨0x3000, 0, false⟩ : AttnFumArgs).par = false
    ∧ (getDie fumMem 0).fumOk = true ∧ 0x3000 % 64 = 0 ∧ Readable fumMem 0 cmd0 0 0x3000 64
    ∧ fumParse ((addrs (calAddr 0 0x3000) 64).map (engByte fumMem 0 cmd0)) = .ok fumCmd
    ∧ fumQueued.Units ∧ (getDie fumQueued 0).fumQ = [{ tile := 0, off := 0x3000 }] ∧ getCmd fumQueued 0 = some waiting
    ∧ waiting.queue.any (fun e => decide (classOf e.instr = some .attn)) = true ∧ inStage waiting (nextPc waiting) = true
    ∧ queueLen waiting (some .vector) < 16 ∧ dispatches fumQueued 0 waiting = true ∧ { waiting with queue := [] } = cmd0 ∧ Readable fumTaken 0 cmd0 0 0x3000 64
    ∧ fumParse ((addrs (calAddr 0 0x3000) 64).map (engByte fumTaken 0 cmd0)) = .ok fumCmd ∧ FumReady fumTaken 0 cmd0 fumCmd :=
  ⟨units_small, units_small, rfl, ⟨⟨rfl, rfl, rfl⟩, rfl, rfl⟩, rfl, rfl, rfl, readable_of (by decide), of_okIs (by decide +kernel),
    ⟨rfl, rfl, rfl, rfl, rfl, rfl, rfl, rfl⟩, rfl, rfl, by decide, rfl, by decide, rfl, rfl, readable_of (by decide), of_okIs (by decide +kernel),
    fum_ready⟩

/-! ### CTRL, SYNC, XFER -/

def brArgs : CtrlArgs := { ctrl0 with target := 15 }
def loopArgs (n : W32) : CtrlArgs := { ctrl0 with target := 2, lc := 1, imm := n }

/-- A transfer of tile 0's Caldera to 0x1000 that has not landed. -/
def filling : State := setGey small 0 (fun g => { g with xfers := [xferCal], nextId := 1 })

theorem witness_ControlFlowAndLoops : getCmd small 0 = some cmd0 ∧ dispatches small 0 cmd0 = true ∧ inStage cmd0 cmd0.pc = true
    ∧ ctrlZero ctrl0 false false false false false false false = true ∧ inStage cmd0 (nextPc cmd0) = true
    ∧ ctrlZero brArgs true false false false false false false = true ∧ inStage cmd0 15 = true
    ∧ ctrlZero { brArgs with fmask := 0xFF, sense := true } true false true false false false false = true
    ∧ ctrlZero { brArgs with cmp := 3, addr := 0x1000, imm := 5 } true false false true true false true = true
    ∧ (0x1000 : BitVec 22).toNat % 4 = 0 ∧ (3 : BitVec 3).toNat < 4 ∧ SeqReads small 0 cmd0 0x1000 4
    ∧ ctrlZero (loopArgs 4) true true false false true true true = true ∧ loopOk cmd0 2 1 = true
    ∧ ctrlZero { loopArgs 0 with csrc := true, addr := 0x1000 } true true false false true true true = true ∧ seqWord small 0 cmd0 0x1000 = 0
    ∧ inStage cmd0 (stepLoops cmd0.loops 2).1 = true
    ∧ getCmd filling 0 = some cmd0 ∧ rangeWritten filling 0 cmd0 (calAddr 0 0x1000) 4 = true :=
  ⟨rfl, rfl, rfl, by decide, rfl, by decide, rfl, by decide, by decide, by decide, by decide, ⟨by decide, by decide, cmdBad_clean rfl _ _ _ _⟩, by decide, by decide,
    by decide, by decide +kernel, by decide, rfl, by decide⟩

/-- A transfer of tile 0 that has not landed. -/
def xfer0 : Xfer := { xferCal with desc := { xferCal.desc with src := 0x8000, dst := 0x1000 } }
def busy : State := setGey small 0 (fun g => { g with xfers := [xfer0], nextId := 1 })
def lastStage : State := withCmd (fun c => { c with last := true })

theorem witness_CommitAndHalt : getCmd small 0 = some cmd0 ∧ dispatches small 0 cmd0 = true ∧ triesAgain small 0 { cmd0 with wait := some .commit } .commit = true
    ∧ ctrlZero ctrl0 false false false false false false false = true
    ∧ allDone small 0 cmd0 = true ∧ shadowBad small cmd0 = none ∧ isChecking cmd0 = false ∧ awaitsCheck small cmd0 = false ∧ cmd0.last = false
    ∧ getCmd lastStage 0 = some { cmd0 with last := true } ∧ getTask lastStage 1 = some task0
    ∧ task0.pos.find? (fun p => p.ident = cmd0.ident) = some pos0 ∧ pos0.left = []
    ∧ allDone busy 0 cmd0 = false ∧ ctrlZero { ctrl0 with imm := 0xFFFF } false false false false false false true = true :=
  ⟨rfl, rfl, rfl, by decide, rfl, by decide, by decide, by decide, rfl, rfl, rfl, by decide, rfl, by decide, by decide⟩

/-- A command in its start block; one that waits for barrier 2; one whose semaphore 3 has a wait of the tile. -/
def starting : State := withCmd (fun c => { c with phase := .start })
def atBarrier : State := withCmd (fun c => { c with phase := .start, wait := some (.bar 2 3) })
def atSem : State := { starting with jobs := [(1, { job0 with sems := [(3, { v := 2, h := 1, v0 := 2, signalled := 0, taken := 0, waits := [(0, 1)] })] })] }

theorem witness_BarriersAndSemaphores : getCmd starting 0 = some { cmd0 with phase := .start } ∧ inStage cmd0 (nextPc cmd0) = true
    ∧ dispatches starting 0 { cmd0 with phase := .start } = true ∧ triesAgain atBarrier 0 { cmd0 with phase := .start, wait := some (.bar 2 3) } (.bar 2 3) = true
    ∧ (3 : BitVec 16).toNat ≤ barCount starting cmd0 2 ∧ barCount starting cmd0 2 < 4
    ∧ barCount starting cmd0 31 = 0 ∧ getCmd atBarrier 0 = some { cmd0 with phase := .start, wait := some (.bar 2 3) }
    ∧ getJob starting 1 = some job0 ∧ tGet job0.sems 3 = some { v := 2, h := 1, v0 := 2, signalled := 0, taken := 0, waits := [] }
    ∧ (1 : BitVec 16).toNat ≤ 2 - 1 ∧ 2 - 1 < (2 : BitVec 16).toNat
    ∧ (getJob atSem 1).bind (fun j => (tGet j.sems 3).map (·.waits)) = some [(0, 1)] ∧ 1 ≤ 2 - 1 ∧ isChecking cmd0 = false :=
  ⟨rfl, rfl, rfl, rfl, by decide, by decide, by decide, rfl, rfl, rfl, by decide, by decide, rfl, by decide, rfl⟩

/-- A stream of slabs into pair 0, of which slab 1 waits in the slab store; and one still to fill. -/
def slab (landed : Nat) (store : List (Nat × List Byte)) : Xfer :=
  { xfer0 with topair := true, issued := 2, landed := landed, store := store, desc := { xfer0.desc with kind := 2, len := 64, dst := 0, count := 4, sstride := 64 } }
def swapping (x : Xfer) : State := setGey small 0 (fun g => { g with xfers := [x], nextId := 1 })
def pair0 : Pair := { base := 0x1C00, len := 512, comp1 := false, swaps := [] }

theorem witness_SwapAndXwait : getCmd small 0 = some cmd0 ∧ dispatches small 0 cmd0 = true ∧ inStage cmd0 (nextPc cmd0) = true
    ∧ triesAgain small 0 { cmd0 with wait := some (.swap 0) } (.swap 0) = true ∧ cmd0.pairs[(0 : BitVec 8).toNat]? = some pair0
    ∧ (fillDone (tileXfers small 0) 0 pair0 && computeDone small 0 cmd0 0 pair0) = true
    ∧ (tileXfers small 0).find? (fun x => x.topair && x.pair = 0 && !x.desc.isCopy) = none
    ∧ (fillDone (tileXfers (swapping (slab 1 [(1, List.replicate 64 0)])) 0) 0 pair0
        && computeDone (swapping (slab 1 [(1, List.replicate 64 0)])) 0 cmd0 0 pair0) = true
    ∧ (∃ s2, deliver (setXfer (setCmd (swapping (slab 1 [(1, List.replicate 64 0)])) 0 (fun _ => { dispatched cmd0 with
          pairs := [{ base := 0x1C00, len := 512, comp1 := true, swaps := [0] }] })) 0 0 (fun y => { y with store := [] }))
        (slab 1 []) { dispatched cmd0 with pairs := [{ base := 0x1C00, len := 512, comp1 := true, swaps := [0] }] } (List.replicate 64 0) = .ok s2)
    ∧ fillDone (tileXfers (swapping (slab 0 [])) 0) 0 pair0 = false
    ∧ triesAgain small 0 { cmd0 with wait := some .xfer } .xfer = true ∧ noXfers small 0 cmd0 = true ∧ noXfers busy 0 cmd0 = false :=
  ⟨rfl, rfl, rfl, rfl, rfl, by decide, rfl, by decide, of_isOk (by decide +kernel), by decide, rfl, rfl, by decide⟩

/-- A COPY descriptor at offset 0x3000: 64 bytes from 0x8000 of the stack to 0x1200 of WORK. -/
def described : State :=
  { small with mem := (asWrites (calAddr 0 0x3000) (leBytes 1 1 ++ leBytes 3 0 ++ leBytes 4 64 ++ leBytes 8 0x8000
      ++ leBytes 8 (calAddr 0 0x1200) ++ leBytes 16 0 ++ leBytes 4 0xFFFFFFFF ++ leBytes 20 0)).filter (fun e => e.2 ≠ 0) }
def desc0 : Desc := { xferCal.desc with src := 0x8000, dst := calAddr 0 0x1200 }
def xr0 : XferArgs := { rsv := 0, topair := false, pair := 0, daddr := 0x3000, par := false }

/-- The same with no credit left, and with the XFER queue full as well. -/
def broke (n : Nat) : State :=
  setCmd described 0 (fun c => { c with allow := 0, queue := List.replicate n { instr := .xreq 0 xr0, pc := 0, started := false } })

theorem witness_XreqQueuesATransfer : described.Units ∧ getCmd described 0 = some cmd0 ∧ dispatches described 0 cmd0 = true
    ∧ triesAgain described 0 { cmd0 with wait := some .queue } .queue = true ∧ inStage cmd0 (nextPc cmd0) = true ∧ (0x3000 : BitVec 22).toNat % 64 = 0
    ∧ cmdBad described 0 cmd0 (calAddr 0 0x3000) 64 = none
    ∧ parseDesc ((addrs (calAddr 0 0x3000) 64).map (cmdByte described 0 cmd0)) = desc0
    ∧ (!Sys2Proof.Machine.blocked cmd0 (.xreq 0 xr0) && !xreqHeld described 0 cmd0 xr0 desc0 && xreqFits described 0 cmd0 desc0 none 2) = true ∧ xreqCause described 0 cmd0 desc0 none 2 = none
    ∧ ((getCmd (broke 0) 0).all fun c => !xreqFits (broke 0) 0 c desc0 none 2) = true
    ∧ (getCmd (broke 16) 0).map (fun c => queueLen c (some .xfer)) = some 16 :=
  ⟨⟨rfl, rfl, rfl, rfl, rfl, rfl, rfl, rfl⟩, rfl, rfl, rfl, rfl, by decide, cmdBad_clean rfl _ _ _ _, by decide +kernel,
    by decide, by decide +kernel, by decide, by decide⟩

/-! ## The machine, registers and rings -/

theorem good_small : small.Good := by
  refine ⟨⟨by decide, by decide⟩, ⟨by decide, by decide⟩, units_small, fun x hx => ?_⟩
  have h : small.tiles = small.tiles.headD Tile.reset :: List.replicate 95 Tile.reset := rfl
  rw [h, List.mem_cons, List.mem_replicate] at hx
  obtain rfl | ⟨-, rfl⟩ := hx <;> exact wf_reset

theorem witness_IdleStepAdvancesDeviceTime : small.pending = [] := rfl

theorem witness_EveryStepKeepsGood : small.Good ∧ ∃ s', step { small with pending := [.pwrSupplyRead] } = .next s' :=
  ⟨good_small, _, rfl⟩

theorem witness_OnlyBeyondRatingsStops : Instr.Rated (.supplySample (-60000) 0) ∧ Instr.Rated (.supplySample 80000 0)
    ∧ Instr.Rated (.sensorSample (.junction 0 0) (some 500)) ∧ ((-60001 : Int) < -60000 ∧ (80000 : Int) < 80001)
    ∧ ((500 : Int) < 501 ∧ (501 : Int) ≤ 600) := by
  refine ⟨⟨by decide, by decide⟩, ⟨by decide, by decide⟩, .inl (by decide), ⟨by decide, by decide⟩, ⟨by decide, by decide⟩⟩

theorem witness_CounterClears : small.Units ∧ (95 < 96 ∧ 11 < 12 ∧ 7 < 8) ∧ (1 : W64).getLsbD 0 = true ∧ (0 : W64).getLsbD 0 = false :=
  ⟨units_small, by decide, rfl, rfl⟩

theorem witness_ShadowedWrites : small.Units
    ∧ (10 ≤ bitsAt (10 : W64).toNat 0 5 ∧ bitsAt (24 : W64).toNat 0 5 ≤ 24) ∧ (bitsAt (9 : W64).toNat 0 5 < 10 ∧ 24 < bitsAt (25 : W64).toNat 0 5)
    ∧ bitsAt (0x100 : W64).toNat 8 8 ≠ 0 ∧ (getCmd small 0).isSome = true ∧ (getCmd small 1).isSome = false :=
  ⟨units_small, by decide, by decide, by decide, rfl, rfl⟩

def measuring : State := { small with clk := { small.clk with fRun := true, fTgt := 8, fRef := 1 } }

theorem witness_RegisterWritesAndMeasurements : 4 % 8 ≠ 0 ∧ 2 % 4 ≠ 0
    ∧ bitsAt (0x8000000D : W64).toNat 0 5 < 0x0E ∧ bitsAt (0x80000D00 : W64).toNat 8 5 < 0x0E ∧ bitAt (0x80000D0D : W64).toNat 31 = true
    ∧ 2 ^ 40 - 1 < 2 ^ 40 ∧ measuring.clk.fRun = true ∧ ¬ (measuring.clk.fTgt = 8 ∧ measuring.clk.fRef = 0) := by decide

/-- An event record of class 1. -/
def ev0 : Event :=
  { time := 9, seq := 3, cls := 1, scope := 0xF0, utype := 1, flags := 0, unit := 0, job := 0, stream := 0, task := 0, cause := 0, ncont := 0
    detail := [] }

/-- The physical function with its rings enabled: a submission waits, one record is in the event ring, one waits in the queue, and vector 0 is
masked and pending. -/
def fn0 : Func :=
  { Func.reset with
    bme := true, sqEn := true, cqEn := true, evtEn := true, sqSize := 16, cqSize := 16, evtSize := 64, sqTail := 1, evtTail := 1
    sqBase := 0x1000, cqBase := 0x2000, evtBase := 0x3000, evtRing := [ev0]
    msix := { MsixEnt.reset with masked := true, pendingBit := true } :: List.replicate 63 MsixEnt.reset }
def hosted : State :=
  { small with
    funcs := fn0 :: List.replicate 12 Func.reset, host := [(0x1001, 1)]
    devQueue := { small.devQueue with ents := [ev0] } }

theorem units_hosted : hosted.Units := ⟨rfl, rfl, rfl, rfl, rfl, rfl, rfl, rfl⟩

theorem witness_RingRegisters : small.Units ∧ (getFunc small 0).sqEn = false ∧ (getFunc small 12).cqEn = false ∧ (getFunc small 12).cqHeld = []
    ∧ (getFunc small 1).evtEn = false ∧ (getFunc hosted 0).evtEn = true ∧ (getFunc { hosted with funcs := { fn0 with evtRing := [] } :: [] } 0).evtRing = []
    ∧ (getFunc hosted 0).evtLost = none ∧ (getFunc hosted 0).evtRing = ev0 :: [] ∧ (getFunc hosted 0).evtRing.getLast? = some ev0
    ∧ countDiff 0 (getFunc hosted 0).cqHead ≤ countDiff (getFunc hosted 0).cqTail (getFunc hosted 0).cqHead ∧ (getFunc hosted 0).cqHeld = []
    ∧ countDiff (getFunc hosted 0).cqTail (getFunc hosted 0).cqHead < countDiff 1 (getFunc hosted 0).cqHead
    ∧ countDiff 1 (getFunc hosted 0).evtHead ≤ countDiff (getFunc hosted 0).evtTail (getFunc hosted 0).evtHead ∧ hosted.Units
    ∧ countDiff (getFunc hosted 0).evtTail (getFunc hosted 0).evtHead < countDiff 2 (getFunc hosted 0).evtHead :=
  ⟨units_small, by decide, by decide, by decide, by decide, by decide, by decide, by decide, by decide, by decide, by decide, by decide, by decide,
    by decide, units_hosted, by decide⟩

theorem witness_RingsMoveEntries : hosted.Units ∧ (∀ o ∈ (getFunc hosted 0).outstanding, o.cmd.isSome = true)
    ∧ (getFunc hosted 0).sqEn = true ∧ (getFunc hosted 0).sqHead ≠ (getFunc hosted 0).sqTail ∧ funcReady hosted 0 = true
    ∧ funcServed hosted 0 = true ∧ fetchRoom (getFunc hosted 0) = true ∧ hostReadOk hosted 0 = true
    ∧ hostReadOk { hosted with funcs := { fn0 with bme := false } :: List.replicate 12 Func.reset } 0 = false
    ∧ (decodeEntry 0 (hostRead hosted 0x1000 64)).isSome = true ∧ tagFree hosted 0 = true ∧ tagFree { hosted with pfTags := 0 } 0 = false
    ∧ (getFunc hosted 0).evtEn = true ∧ hostWriteOk hosted 0 = true ∧ evtRoom (getFunc hosted 0) = true
    ∧ (getFunc hosted 0).evtLost = none ∧ (getFunc hosted 0).evtIrq = false ∧ (evQueue hosted 0).ents = ev0 :: []
    ∧ (getFunc hosted 0).msix[0]? = some { MsixEnt.reset with masked := true, pendingBit := true }
    ∧ (∀ k x, k ≠ 0 → (getFunc hosted 0).msix[k]? = some x → x.pendingBit = false) ∧ Memory.wf hosted.host := by
  refine ⟨units_hosted, by decide, by decide, by decide, by decide, by decide, by decide, by decide, by decide, by decide +kernel, by decide, by decide,
    by decide, by decide, by decide, by decide, by decide, rfl, rfl, fun k x hk h => ?_, ⟨by decide, by decide⟩⟩
  obtain ⟨k, rfl⟩ := Nat.exists_eq_succ_of_ne_zero hk
  have h' : (List.replicate 63 MsixEnt.reset)[k]? = some x := h
  rw [List.getElem?_replicate] at h'
  split at h'
  · rw [← Option.some.inj h']
    rfl
  · exact absurd h' (by simp)

/-- PTM enabled with the crystal stable. -/
def timed (noStep : Bool) : State :=
  { small with time := { small.time with ptmEnable := true, noStep := noStep }, clk := { small.clk with xtalOk := true }
               link := { small.link with ideSecure := [0] } }

theorem witness_InterfaceResetsLinkAndTime : small.Units ∧ (∀ x ∈ State.reset.slices, x.online = false) ∧ (∃ x ∈ small.slices, x.online = true)
    ∧ ({ small with link := { small.link with degraded := true } } : State).link.degraded = true ∧ funcServed small 0 = true
    ∧ (timed false).time.ptmEnable = true ∧ (timed false).clk.xtalOk = true ∧ tyraxUp (timed false) = true ∧ (timed false).time.noStep = false
    ∧ (timed false).time.ptmSeen = false ∧ (timed true).time.noStep = true ∧ tyraxUp (timed true) = true
    ∧ (999 : Int).natAbs < 1000 ∧ 1000000 < (-1000001 : Int).natAbs ∧ 0 ∈ (timed true).link.ideSecure ∧ Memory.wf small.host :=
  ⟨units_small, by decide, by decide, rfl, by decide, rfl, rfl, by decide, rfl, by decide, rfl, by decide, by decide, by decide, by decide,
    ⟨by decide, by decide⟩⟩

/-! ## DCI -/

/-- Partition 0 as it does not exist, as it is faulted, and while its shape changes; two outstanding commands of the physical function. -/
def partAs (st : PartState) : State := { small with parts := { getPart small 0 with state := st } :: List.replicate 11 Part.reset }
/-- A JOB_STOP of partition 0 that waits, a configuration set that waits, a command that came earlier and waits. -/
def stopping : State := { small with waiters := [{ fn := 0, tag := 1, what := .jobStop 1, deadline := none }] }
def setting : State := { small with waiters := [{ fn := 0, tag := 1, what := .cfg 0 2 true, deadline := none }] }
def behind : State := { small with parts := { getPart small 0 with shapeQ := [(0, 1)] } :: List.replicate 11 Part.reset }
def tabled : State := { small with parts := { getPart small 0 with tableNext := some ({ period := 1, wins := [] }, 0, 1) } :: List.replicate 11 Part.reset }
def shaping : State := { small with parts := { getPart small 0 with shapeOp := some (.destroy 0 7) } :: List.replicate 11 Part.reset }
/-- A command behind a fence, behind one fetched earlier on another function, taken and waiting, and one whose entry has not been fetched. -/
def destroy0 : Instr := .partDestroy (hd 0 0)
def fenced : State :=
  { small with funcs := { Func.reset with outstanding := [{ tag := 1, cmd := some (.devQuery (hd 0 0) 0 0 0), fence := true, fetched := 0, seq := 0, stage := .taken }]
                                                          ++ asked [destroy0] } :: List.replicate 12 Func.reset }
def overtaken : State :=
  { small with funcs := { Func.reset with outstanding := (asked [destroy0]).map (fun o => { o with seq := 1 }) }
                            :: { Func.reset with outstanding := asked [.streamPause (hd 1 0) 5] } :: List.replicate 11 Func.reset }
def waits0 : State :=
  { small with funcs := { Func.reset with outstanding := (asked [destroy0]).map (fun o => { o with stage := .waiting }) } :: List.replicate 12 Func.reset }

/-- Each check of R537 with a command that it refuses and whose turn it is, and what holds a command back. -/
theorem witness_DciChecksInOrder_checks :
    Instr.dci destroy0 = some (hd 0 0, { pf := true, exempt := true, faulted := true })
    ∧ (∀ s ∈ [fenced, overtaken, waits0, small, setMgt (asks small 0 [destroy0]) (fun m => { m with state := .boot })],
        dciHeld s destroy0 (hd 0 0) = true)
    ∧ (let h : DciHdr := { hd 0 0 with rsv := true }
       let s := asks small 0 [.partDestroy h]
       dciHeld s (.partDestroy h) h = false ∧ takesTurn (.partDestroy h) h = true ∧ shapeTurn s h = true ∧ h.rsv = true)
    ∧ (let h := hd 2 0
       let s := asks small 2 [.jobStart h 1]
       Instr.dci (.jobStart h 1) = some (h, {}) ∧ dciHeld s (.jobStart h 1) h = false ∧ shapeTurn s h = true ∧ h.rsv = false ∧ h.timeout = 0
         ∧ h.part.toNat < 12 ∧ h.fn ≠ 0 ∧ h.part ≠ 0xFF ∧ h.part.toNat ≠ h.fn - 1)
    ∧ (let h := hd 0 11
       let s := asks small 0 [.streamPause h 5]
       Instr.dci (.streamPause h 5) = some (h, {}) ∧ dciHeld s (.streamPause h 5) h = false ∧ takesTurn (.streamPause h 5) h = false ∧ h.part.toNat < 12
         ∧ h.part ≠ 0xF0 ∧ (getPart s (partOf h)).state = .none)
    ∧ (let s := asks (partAs .faulted) 0 [.streamPause (hd 0 0) 5]
       dciHeld s (.streamPause (hd 0 0) 5) (hd 0 0) = false ∧ (getPart s (partOf (hd 0 0))).state = .faulted)
    ∧ (let h := hd 0 0
       let s := asks small 0 [.tableLoad h 1 1 0 0 0 []]
       Instr.dci (.tableLoad h 1 1 0 0 0 []) = some (h, { tmo := true }) ∧ dciHeld s (.tableLoad h 1 1 0 0 0 []) h = false
         ∧ takesTurn (.tableLoad h 1 1 0 0 0 []) h = false ∧ (∀ w ∈ s.waiters, tableKey w.what ≠ some (1, 1))) := by
  refine ⟨rfl, ?_, ?_, ?_, ?_, ?_, ?_⟩ <;> decide

/-- Each way in which another command of the partition is in progress or came earlier. -/
theorem witness_DciChecksInOrder :
    takesTurn destroy0 (hd 0 0) = true
    ∧ (∀ s ∈ [shaping, stopping, setting, behind, tabled], dciHeld (asks s 0 [destroy0]) destroy0 (hd 0 0) = false
        ∧ atOnce destroy0 (hd 0 0) (asks s 0 [destroy0]) = false)
    ∧ (getPart shaping (partOf (hd 0 0))).shapeOp.isSome = true ∧ (getPart tabled (partOf (hd 0 0))).tableNext.isSome = true
    ∧ (∃ w ∈ stopping.waiters, ∃ j x, w.what = .jobStop j ∧ getJob stopping j = some x ∧ x.part = partOf (hd 0 0))
    ∧ (∃ w ∈ setting.waiters, ∃ n b, w.what = .cfg (partOf (hd 0 0)) n b)
    ∧ (∃ e, (getPart behind (partOf (hd 0 0))).shapeQ.head? = some e ∧ e ≠ ((hd 0 0).fn, (hd 0 0).tag)) := by
  refine ⟨by decide, by decide, by decide, by decide, ⟨_, .head _, 1, job0, rfl, rfl, rfl⟩, ⟨_, .head _, 2, true, rfl⟩, ⟨(0, 1), rfl, by decide⟩⟩

/-- The completion ring of the physical function as it is full and as it is disabled. -/
def ringAs (f : Func) : State := { small with funcs := f :: List.replicate 12 Func.reset }

/-- A stream in a state with chunks of 64 bytes of an input ring of `units` units, and its feed descriptor. -/
def streamAs (st : StreamState) (units : Nat) (chunks : List Chunk) : State :=
  { small with streams := [(5, { stream0 with state := st, irunits := units, chunks := chunks })] }

theorem witness_DciCompletionsAndChunks : hosted.Units ∧ 0 < 13 ∧ 2 ^ 32 - 1 < 2 ^ 32 ∧ 2 ^ 64 - 1 < 2 ^ 64
    ∧ (getFunc hosted 0).cqEn = true ∧ hostWriteOk hosted 0 = true ∧ (getFunc hosted 0).cqHeld = [] ∧ (getFunc hosted 0).cqIrq = false
    ∧ countDiff (getFunc hosted 0).cqTail (getFunc hosted 0).cqHead < (getFunc hosted 0).cqSize
    ∧ (getFunc small 0).cqEn = false ∧ hostWriteOk small 0 = false
    ∧ ¬ countDiff (getFunc (ringAs { fn0 with cqTail := 16 }) 0).cqTail 0 < 16
    ∧ stream0.part < 12 ∧ getStream small 5 = some stream0 ∧ getJob small stream0.job = some job0 :=
  ⟨units_hosted, by decide, by decide, by decide, by decide, by decide, by decide, by decide, by decide, by decide, by decide, by decide, by decide,
    rfl, rfl⟩

/-! ## Feeds, streams, the page unit -/

/-- Partition 0's set: a host region of 4 MiB, a swap area of 2 MiB behind it, and feed ring 0. -/
def set0 : CfgSet :=
  { CfgSet.reset 0 5456 with
    regions := [{ dpa := 0x800000000000, len := 0x400000, bus := 0x100000000, hpa := 0, flags := 0 },
                { dpa := 0x800000400000, len := 0x200000, bus := 0x200000000, hpa := 0, flags := 2 }]
    feeds := [(0, { base := 0x800000001000, entries := 16, headwb := 0x800000002000 })] }

/-- Partition 0's virtual function served, with a host region; feed ring 0 holds one descriptor. -/
def served : State :=
  { small with
    link := { small.link with vfEnable := true, numVFs := 12 }
    funcs := { fn0 with evtRing := [] } :: { fn0 with evtRing := [], feeds := [(0, { head := 0, tail := 1, doorbells := [(1, 0)], failed := false })] }
      :: List.replicate 11 Func.reset
    scopes := { ScopeSt.reset with cur := some set0 } :: small.scopes.tail }

theorem units_served : served.Units := ⟨rfl, rfl, rfl, rfl, rfl, rfl, rfl, rfl⟩

def feed0 : FeedDesc := parseFeed (List.replicate 32 0) 0

theorem witness_FeedRings : (∃ c, feedCfg served 1 0 = some c ∧ countDiff 16 (getFeed served 1 0).head ≤ c.entries
      ∧ c.entries < countDiff 17 (getFeed served 1 0).head ∧ (regionAt (funcRegions served 1) (c.base + 32 * 0) 32).isSome = true)
    ∧ funcServed served 1 = true ∧ (getFeed served 1 0).head ≠ (getFeed served 1 0).tail ∧ (getFeed served 1 0).failed = false
    ∧ hostReadOk served 1 = true ∧ tagFree served 1 = true ∧ tagFree (setPart served 0 (fun x => { x with tagsFree := 0 })) 1 = false
    ∧ (∀ st, getStream served 6 = some st → st.part ≠ 0) ∧ getStream served 5 = some stream0 ∧ stream0.part = 0
    ∧ ({ feed0 with frames := 1, flags := 1 } : FeedDesc).flags % 2 = 1 ∧ feed0.rsv = false ∧ feed0.frames = 0
    ∧ ({ feed0 with flags := 1 } : FeedDesc).flags % 2 = 1 ∧ stream0.state ≠ .closing ∧ stream0.state ≠ .faulted :=
  ⟨⟨_, rfl, by decide, by decide, by decide⟩, by decide, by decide, by decide, by decide, by decide, by decide, fun _ h => by simp [served, small, getStream, tGet] at h,
    rfl, rfl, rfl, rfl, by decide, rfl, by decide, by decide⟩

/-- A chunk of 64 bytes whose payload lies at the start of the host region; a completion that waits for ring 0. -/
def chunk0 : Chunk :=
  { frames := 1, mark := 0xFFFF, bytes := 64, tag := 1, src := 0x800000000000, arrival := 0, deadline := none, off := 0, used := 128, landed := false
    ended := false, steps := 0, result := 0, lastStep := none, allSkip := false, replayed := false, exited := false, drift := false }
def done0 : ChunkDone := { ring := 0, tag := 1, stream := 5, status := 0, result := 0, step := 0, detail := 0, time := 0 }
def chunked : State :=
  { served with
    streams := [(5, { stream0 with chunks := [chunk0] })]
    jobs := [(1, { job0 with compQ := [done0], rings := [{ ring0 with base := 0x800000010000, ctl := 0x800000020000 }] })] }

theorem witness_PayloadsAndCompletions : Memory.wf chunked.mem ∧ chunked.Units
    ∧ (getStream chunked 5).map (fun st => (fetchIx st, st.state)) = some (some 0, .open) ∧ chunk0.ended = false
    ∧ tagFree chunked 1 = true ∧ isHost chunk0.src = true ∧ (regionAt (funcRegions chunked 1) chunk0.src chunk0.bytes).isSome = true
    ∧ (getJob chunked 1).map (fun x => (x.rings[0]?.map (fun r => (decide (countDiff r.tail r.head < r.nrec), writeOpen chunked 1 r.base,
        writeOpen chunked 1 r.ctl, r.vector)), waitingDone x 0)) = some (some (true, true, true, 0xFFFF), some done0)
    ∧ hostReadOk chunked 1 = true :=
  ⟨⟨by decide, by decide⟩, ⟨rfl, rfl, rfl, rfl, rfl, rfl, rfl, rfl⟩, rfl, rfl, by decide, by decide, by decide +kernel, by decide +kernel, by decide⟩

/-- A command's checks pass in a state. -/
theorem taken_of {i : Instr} {h : DciHdr} {s : State} (k : DciKind) (hi : Instr.dci i = some (h, k))
    (hc : (!dciHeld s i h && (!takesTurn i h || atOnce i h s || shapeTurn s h)
      && (if k.part then partCheck s h k.pf k.tmo k.dev k.exempt k.faulted else plainCheck h k.pf).isNone) = true) : Taken i h s := by
  simp only [Bool.and_eq_true, Bool.or_eq_true, Bool.not_eq_true', Option.isNone_iff_eq_none] at hc
  exact ⟨k, hi, hc.1.1, fun ht => hc.1.2.imp_left (·.resolve_left (by simp [ht])), hc.2⟩

/-- The job with a state pool on its cluster of four free slots and one spare, and a KV cache with a window free. -/
def kvHdr0 : KvHdr :=
  { nlayers := 1, nkvh := 1, dhc := 0, fmt := 1, keep := 0, score0 := 0, maxwin := 2, pool := 64, kvstat := 0, rw := 0, rhalf := 0, nodes := 4
    tokwords := 1024, reserve := 1 }
def kv0 : KvJob :=
  { hdr := kvHdr0, pools := [(0, [(0x40000000, 64)])], stage := [(2, 0x200000)], winTab := 0x40100000, ptab := 0x40200000, rtab := 0x40300000
    nodeTab := 0x40400000, tokStore := 0x40500000, wins := [], recs := [], fg := [], bg := [], gone := [], nextNode := 0, preempts := 0, lost := [] }
def jobKv (k : KvJob) : Job :=
  { job0 with
    kv := some k, pools := [(0, { slots := [64, 128, 192, 256], free := [64, 128, 192, 256] })]
    decl := some { slotSize := 64, spare := 1, resid := 0, tensors := [] } }
def open0 : Instr := .streamOpen (hd 1 0) 2 false true 0 1 2 0 0 0 0 0 0
def kvState (k : KvJob) (st : Stream) : State :=
  asks { served with jobs := [(1, jobKv k)], streams := [(5, st)], tasks := [], tiles := small.tiles.map (fun x => { x with cmd := none }) } 1
    [open0, .kvSwapOut (hd 1 0) 5, .kvSwapIn (hd 1 0) 5, .prefixInsert (hd 1 0) 5 64 0x800000000000, .prefixDrop (hd 1 0) 1 64 0x800000000000,
      .streamClose (hd 1 0) 5 false]

theorem witness_StreamOpens : Taken open0 (hd 1 0) (kvState kv0 stream0)
    ∧ jobOf (kvState kv0 stream0) 0 1 = some (jobKv kv0) ∧ (jobKv kv0).state = .running ∧ (2 : BitVec 2) ≠ 3 ∧ 2 ≤ (2 : BitVec 16).toNat
    ∧ (jobKv kv0).rings[(0 : BitVec 16).toNat]? = some ring0 ∧ ring0.kind = 1 ∧ partUsed (kvState kv0 stream0) 0 < (getPart (kvState kv0 stream0) 0).quota
    ∧ tFree (kvState kv0 stream0).streams 0 65536 = some 0 ∧ (ringFit (jobKv kv0) (homeTile (kvState kv0 stream0) 1 (jobKv kv0)) 2).isSome = true
    ∧ (getPool (kvState kv0 stream0) 1 0).map (fun q => decide (2 * 1 < q.free.length)) = some true ∧ (freeWin kv0).isSome = true :=
  ⟨taken_of {} rfl (by decide), rfl, rfl, by decide, by decide, rfl, rfl, by decide +kernel, by decide +kernel, by decide +kernel, by decide +kernel,
    by decide⟩

/-- A feed descriptor of stream 5. -/
def feedBytes (frames flags : Byte) : List Byte := [5, 0, frames, 0, 0, 0, flags] ++ List.replicate 25 0
def inState (st : StreamState) : State :=
  asks { served with streams := [(5, { stream0 with state := st })] } 1 [.streamPause (hd 1 0) 5, .streamResume (hd 1 0) 5, .streamClose (hd 1 0) 5 false,
    .streamQuery (hd 1 0) 5 true 0x800000000000, .streamFeed (hd 1 0) (feedBytes 1 0), .streamFeed (hd 1 0) (feedBytes 0 1)]

theorem witness_StreamCommands : (∀ st ∈ [StreamState.open, .runnable, .waiting, .paused, .preempted],
      getStream (inState st) 5 = some { stream0 with state := st }) ∧ stream0.part = partOf (hd 1 0)
    ∧ (∀ st ∈ [StreamState.open, .runnable, .waiting, .paused, .preempted], Taken (.streamPause (hd 1 0) 5) (hd 1 0) (inState st)
      ∧ Taken (.streamResume (hd 1 0) 5) (hd 1 0) (inState st) ∧ Taken (.streamClose (hd 1 0) 5 false) (hd 1 0) (inState st)
      ∧ Taken (.streamQuery (hd 1 0) 5 true 0x800000000000) (hd 1 0) (inState st) ∧ Taken (.streamFeed (hd 1 0) (feedBytes 1 0)) (hd 1 0) (inState st)
      ∧ Taken (.streamFeed (hd 1 0) (feedBytes 0 1)) (hd 1 0) (inState st))
    ∧ (∀ t, let d := parseFeed (feedBytes 1 0) t; d.stream = 5 ∧ d.rsv = false ∧ d.frames ≠ 0 ∧ d.flags % 2 = 0)
    ∧ (∀ t, let d := parseFeed (feedBytes 0 1) t; d.stream = 5 ∧ d.rsv = false ∧ d.frames = 0 ∧ d.flags % 2 = 1)
    ∧ headReady { stream0 with chunks := [{ chunk0 with landed := true }] } = true ∧ headReady stream0 = false ∧ stream0.chunks = [] ∧ stream0.kvw = none
    ∧ doneWaiting (inState .open) stream0 5 = false ∧ flushing (inState .open) stream0 = false
    ∧ (outFn (inState .open) (hd 1 0) (some 0) 0x800000000000 128).isSome = true ∧ bufOpen (inState .open) (hd 1 0) (some 0) 0x800000000000 128 = true := by
  refine ⟨fun st _ => rfl, rfl, fun st h => ?_, fun t => ⟨by rfl, by rfl, by show (1 : Nat) ≠ 0; decide, by rfl⟩, fun t => ⟨by rfl, by rfl, by rfl, by rfl⟩, rfl, rfl, rfl, rfl, rfl, rfl, by decide, by decide⟩
  exact ⟨taken_of {} rfl (by cases st <;> decide), taken_of {} rfl (by cases st <;> decide), taken_of {} rfl (by cases st <;> decide),
    taken_of { faulted := true } rfl (by cases st <;> decide), taken_of {} rfl (by cases st <;> decide), taken_of {} rfl (by cases st <;> decide)⟩

/-! ### The page unit -/

def win0 : Window :=
  { state := .resident, flushPend := false, auto := false, waitFrames := false, ssel := false, stream := 5, swap := 0, swapLen := 0, order := 0
    flushFrom := 0, flushDue := 0, victim := none, pages := [], moving := [] }
def kvWith (v : Window) : KvJob := { kv0 with wins := [(0, v)] }
def kvStream (st : StreamState) (len : Nat) : Stream := { stream0 with state := st, kvw := some 0, kvlen := len }
def swapped : Window := { win0 with state := .swapped, auto := true, swap := 0x800000400000, swapLen := 1 }
def kvIn (v : Window) (st : StreamState) : State := kvState (kvWith v) (kvStream st 0)

/-- A window whose page of run 0 is mapped already, and the record of that page. -/
def rec0 : PageRec :=
  { slice := 0, frame := 0, swapOff := 0, pk := 0, lead := false, shrunk := false, swapped := false, live := 0, ref := 1, pin := 0 }
def paged : State := kvState { kvWith { win0 with flushPend := true, pages := [(3, 0)] } with recs := [(0, rec0)] } (kvStream .open 64)

/-- A window whose flush finds no frame: the pool has none. -/
def dry : State := kvState { kvWith { win0 with flushPend := true } with hdr := { kvHdr0 with pool := 0 } } (kvStream .open 64)

/-- Without uncorrectable words and coded ranges the page unit can read everything. -/
theorem pageMemory_of {s : State} {p : Nat} (hb : s.badWords = []) (hp : (getGey s (pageCluster s (p + 1))).place = [])
    (hr : hostReadOk s (p + 1) = true) : PageMemory s p := by
  refine ⟨fun a => ?_, fun _ _ => hr⟩
  simp [byteFault, placeFind, hp, isBad, hb]

/-- The window of a swap-out under way, and of a swap-in. -/
def goingOut : State := kvIn { win0 with state := .swappingOut, swap := 0x800000400000 } .preempted
def comingIn : State := kvIn { swapped with state := .swappingIn } .preempted

theorem witness_KvSwapsAndFlushes : getStream (kvIn win0 .open) 5 = some (kvStream .open 0) ∧ getKv (kvIn win0 .open) 1 = some (kvWith win0)
    ∧ tGet (kvWith win0).wins 0 = some win0
    ∧ Taken (.kvSwapOut (hd 1 0) 5) (hd 1 0) (kvIn win0 .open) ∧ swapFit (kvIn win0 .open) 0 (winImage (kvWith win0) win0) = some 0x800000400000
    ∧ Taken (.streamClose (hd 1 0) 5 false) (hd 1 0) (kvIn { win0 with flushPend := true } .open)
    ∧ flushing (kvIn { win0 with flushPend := true } .open) (kvStream .open 0) = true
    ∧ win0.flushPend = false ∧ Taken (.kvSwapOut (hd 1 0) 5) (hd 1 0) (kvIn win0 .waiting)
    ∧ Taken (.kvSwapOut (hd 1 0) 5) (hd 1 0) (kvIn { win0 with flushPend := true } .open)
    ∧ getKv goingOut 1 = some (kvWith { win0 with state := .swappingOut, swap := 0x800000400000 })
    ∧ hostReadOk goingOut 1 = true ∧ swapReady goingOut 0 1 0 = true ∧ PageMemory goingOut 0
    ∧ SwapInFits (kvIn swapped .preempted) 1 (kvWith swapped) swapped 0 ∧ Taken (.kvSwapIn (hd 1 0) 5) (hd 1 0) (kvIn swapped .preempted)
    ∧ (kvStream .preempted 0).state ≠ .closing ∧ (kvStream .preempted 0).state ≠ .faulted ∧ swapped.stream = 5 ∧ swapped.auto = true
    ∧ winPriv (kvWith swapped) swapped + (kvWith swapped).hdr.reserve ≤ kvFreeFrames (kvWith swapped)
    ∧ (∀ e ∈ (kvWith swapped).wins, e.1 ≠ 0 → autoWaits (kvIn swapped .preempted) e.2 = none)
    ∧ getKv comingIn 1 = some (kvWith { swapped with state := .swappingIn }) ∧ hostReadOk comingIn 1 = true ∧ swapReady comingIn 0 1 0 = true
    ∧ Decodes comingIn 1 0x800000400000 (imageRecs (kvWith swapped) swapped).2
    ∧ (∀ s ∈ [goingOut, comingIn], swapReady (setPart s 0 (fun x => { x with tagsFree := 0 })) 0 1 0 = false
        ∧ hostReadOk (setPart s 0 (fun x => { x with tagsFree := 0 })) 1 = true ∧ hostReadOk (setFunc s 1 (fun f => { f with bme := false })) 1 = false)
    ∧ getKv paged 1 = some { kvWith { win0 with flushPend := true, pages := [(3, 0)] } with recs := [(0, rec0)] }
    ∧ (match flushRun paged 1 0 (kvStream .open 64) with | .ok _ => true | .error _ => false) = true
    ∧ PageMemory paged 0 ∧ kvHdr0.keep = 0 ∧ (∀ l, l < 1 → ∃ x r, pageRec paged 1 0 l 3 = some (x, r) ∧ r.ref = 1 ∧ r.pin = 0)
    ∧ (match flushRun dry 1 0 (kvStream .open 64) with | .error .noFrames => true | _ => false) = true :=
  ⟨rfl, rfl, rfl, taken_of {} rfl (by decide), by decide +kernel, taken_of {} rfl (by decide), by decide, rfl, taken_of {} rfl (by decide), taken_of {} rfl (by decide), rfl, by decide,
    by decide, pageMemory_of rfl rfl (by decide), .inl (by decide +kernel), taken_of {} rfl (by decide), by decide, by decide, rfl, rfl, by decide +kernel, by decide,
    rfl, by decide, by decide, fun u hu => absurd (show u < 0 from hu) (Nat.not_lt_zero u), by decide, rfl, by decide +kernel, pageMemory_of rfl rfl (by decide), rfl,
    fun l hl => (by obtain rfl := Nat.lt_one_iff.1 hl; exact ⟨0, rec0, by decide, rfl, rfl⟩), by decide +kernel⟩

/-- A stream of 64 positions whose page of level 0 is full; the tree empty, and with the node of 64 zero tokens. -/
def toks0 : List W32 := List.replicate 64 0
def leaf : PNode := { level := 0, parent := none, hash := levelHash (rootHash 0) toks0, tokens := toks0, recs := [0] }
def treeKv (bg : Tab PNode) : KvJob := { kvWith { win0 with pages := [(3, 0)] } with recs := [(0, { rec0 with live := 4 })], bg := bg, fg := bg }
def tree (bg : Tab PNode) : State := kvState (treeKv bg) (kvStream .open 64)

theorem witness_PrefixTrees : PartReads (tree []) 0 0x800000000000 256 (List.replicate 256 0)
    ∧ PartReads (tree [(0, leaf)]) 0 0x800000000000 256 (List.replicate 256 0)
    ∧ Taken (.prefixInsert (hd 1 0) 5 64 0x800000000000) (hd 1 0) (tree []) ∧ (levelAt 64).isSome = true
    ∧ openWin (tree []) 0 5 = some (kvStream .open 64, 0, treeKv []) ∧ 64 ≤ (kvStream .open 64).kvlen / 64 * 64
    ∧ (insertPlan (tree []) (treeKv []) 1 0 (tokenList (List.replicate 256 0)) 0 262 none (rootHash 0) []).length = 1
    ∧ treeNodes (treeKv []) = [] ∧ treeToks (treeKv []) + 64 ≤ 1024
    ∧ Taken (.prefixDrop (hd 1 0) 1 64 0x800000000000) (hd 1 0) (tree [(0, leaf)]) ∧ levelAt 64 = some 0
    ∧ jobOf (tree [(0, leaf)]) 0 1 = some (jobKv (treeKv [(0, leaf)]))
    ∧ (matchFrom (treeKv [(0, leaf)]).bg (fun _ => false) (tokenList (List.replicate 256 0)) none (rootHash 0) 0 1).1 = [(0, leaf)] :=
  ⟨⟨by decide, by decide, by decide +kernel⟩, ⟨by decide, by decide, by decide +kernel⟩, taken_of {} rfl (by decide), by decide, rfl, by decide, by decide +kernel, by decide,
    by decide, taken_of {} rfl (by decide), by decide +kernel, rfl, by decide +kernel⟩

/-! ## Partitions and jobs -/

/-- Slice 1 is online and in no partition; partition 1 does not exist. -/
def idle : State :=
  asks { served with
         parts := { getPart small 0 with entFree := 5456 } :: List.replicate 11 Part.reset
         jobs := [], tasks := [], streams := [], tiles := List.replicate 96 { Tile.reset with phase1 := true, phase2 := true }
         slices := List.replicate 12 { Slice.reset with online := true, trained := true, keySlot := some 0 } } 0
    [.partCreate (hd 0 1) 2 0, .partResize (hd 0 0) 3 0, destroy0, .jobLoad (hd 0 0) 4096 0x800000000000 1]

theorem units_idle : idle.Units := ⟨rfl, rfl, rfl, rfl, rfl, rfl, rfl, rfl⟩

/-- Partition p of `idle` in another state, or while its shape changes. -/
def idlePart (p : Nat) (f : Part → Part) : State := setPart idle p f

theorem witness_PartitionShapes : idle.Units ∧ Taken (.partCreate (hd 0 1) 2 0) (hd 0 1) idle ∧ partOf (hd 0 1) = 1
    ∧ (getPart idle 1).state = .none ∧ slicesFree idle 1 2 = true ∧ otherQuotas idle 1 + 5456 * popMask 2 ≤ 65536
    ∧ otherQuotas idle 1 + 60080 = 65536 ∧ (getPart (idlePart 1 (fun x => { x with shapeOp := some (.create 0 7) })) 1).shapeOp = some (.create 0 7)
    ∧ (let s := idlePart 0 (fun x => { x with state := .empty })
       Taken (.partResize (hd 0 0) 3 0) (hd 0 0) s ∧ (getPart s 0).state = .empty ∧ slicesFree s 0 3 = true
         ∧ otherQuotas s 0 + 5456 * popMask 3 ≤ 65536 ∧ Taken (.partDestroy (hd 0 0)) (hd 0 0) s ∧ partJobs s 0 = [])
    ∧ (getPart (idlePart 0 (fun x => { x with shapeOp := some (.resize 0 7 2 10) })) 0).shapeOp = some (.resize 0 7 2 10)
    ∧ (curSet (idlePart 0 (fun x => { x with shapeOp := some (.resize 0 7 2 10) })) 0).isSome = true
    ∧ (getPart (idlePart 0 (fun x => { x with shapeOp := some (.destroy 0 7) })) 0).shapeOp = some (.destroy 0 7)
    ∧ partJobs { idlePart 0 (fun x => { x with shapeOp := some (.destroy 0 7) }) with jobs := [(1, { job0 with compQ := [done0] })] } 0 ≠ [] :=
  ⟨units_idle, taken_of { pf := true, exempt := true } rfl (by decide), rfl, by decide, by decide, by decide, by decide, rfl,
    ⟨taken_of { pf := true } rfl (by decide), rfl, by decide, by decide, taken_of { pf := true, exempt := true, faulted := true } rfl (by decide), rfl⟩,
    rfl, by decide, rfl, by decide⟩

/-- A table of period 1,000 µs with one window of job 1 on its tile, one that starts too short, and their bytes in the physical function's
host region. -/
def tabOf (len job : Nat) : CycleTab := { period := 1000, wins := [{ start := 0, len := len, job := job, mask := 1 }] }
def tabBytes (len job : Nat) : List Byte :=
  leBytes 4 1000 ++ [1] ++ List.replicate 11 0 ++ leBytes 4 0 ++ leBytes 4 len ++ leBytes 2 job ++ List.replicate 2 0 ++ leBytes 12 1
    ++ List.replicate 8 0
def cycling (len job : Nat) (f : Part → Part) : State :=
  asks (setPart { served with jobs := [(1, job0)], host := (asWrites 0 (tabBytes len job)).filter (fun e => e.2 ≠ 0) } 0 f) 0
    [.partCycleTable (hd 0 0) 0x800000000000]

/-- An audit is due; partition 0 fails the identity of its chunks. -/
def due (submitted : Nat) : State := setPart idle 0 (fun x => { x with totSubmitted := submitted })

theorem witness_CycleTablesAndAudits : (cycling 118 1 id).Units
    ∧ (∀ x ∈ [(118, 1), (117, 1), (118, 2)], Taken (.partCycleTable (hd 0 0) 0x800000000000) (hd 0 0) (cycling x.1 x.2 id)
        ∧ BufReads (cycling x.1 x.2 id) (hd 0 0) (some 0) 0x800000000000 16 ((tabBytes x.1 x.2).take 16)
        ∧ BufReads (cycling x.1 x.2 id) (hd 0 0) (some 0) 0x800000000000 (16 + 32 * 1) (tabBytes x.1 x.2)
        ∧ parseCycle (tabBytes x.1 x.2) = some (tabOf x.1 x.2))
    ∧ tableWf (cycling 118 2 id) 0 (tabOf 118 2) = false ∧ tableWf (cycling 117 1 id) 0 (tabOf 117 1) = true
    ∧ tableAdmits (cycling 117 1 id) (tabOf 117 1) = false ∧ tableWf (cycling 118 1 id) 0 (tabOf 118 1) = true
    ∧ tableAdmits (cycling 118 1 id) (tabOf 118 1) = true
    ∧ (getPart (cycling 118 1 id) 0).table = none ∧ (getPart (cycling 118 1 id) 0).tableNext = none
    ∧ (getPart (cycling 118 1 (fun x => { x with table := some (tabOf 118 1) })) 0).table.isSome = true
    ∧ (getPart (cycling 118 1 (fun x => { x with tableNext := some (tabOf 118 1, 0, 7) })) 0).tableNext = some (tabOf 118 1, 0, 7)
    ∧ (due 0).Units ∧ tyraxUp (due 0) = true ∧ (due 0).time.auditNext ≤ now (due 0)
    ∧ (∀ p, p < 12 → ¬ ((getPart (due 0) p).state ≠ .none ∧ ∃ m ∈ partIdents (due 0) p, m.left ≠ m.right))
    ∧ ((getPart (due 1) 0).state ≠ .none ∧ ∃ m ∈ partIdents (due 1) 0, m.left ≠ m.right)
    ∧ (getPart (due 1) 0).state ≠ .faulted ∧ (∀ q, q < 12 → q ≠ 0 → (getPart (due 1) q).state = .none) := by
  refine ⟨⟨rfl, rfl, rfl, rfl, rfl, rfl, rfl, rfl⟩, ?_, by decide +kernel, by decide +kernel, by decide +kernel, by decide +kernel, by decide +kernel,
    rfl, rfl, rfl, rfl, ⟨rfl, rfl, rfl, rfl, rfl, rfl, rfl, rfl⟩, by decide, by decide, by decide +kernel, by decide +kernel, by decide, by decide⟩
  intro x hx
  simp only [List.mem_cons, List.not_mem_nil, or_false] at hx
  obtain rfl | rfl | rfl := hx <;>
    exact ⟨taken_of { pf := true } rfl (by decide), ⟨0, by decide, by decide, by decide +kernel⟩, ⟨0, by decide, by decide, by decide +kernel⟩, by decide +kernel⟩

/-! ### A graph image of one program -/

/-- An image of 4,096 bytes: the header, one section of 64 bytes of programs for role 0 at frame offset 32,768. -/
def img : List Byte :=
  leBytes 4 0x4947574B ++ leBytes 2 1 ++ leBytes 2 1 ++ leBytes 4 0 ++ leBytes 4 0 ++ leBytes 4 0 ++ leBytes 4 100 ++ leBytes 4 4096
    ++ leBytes 2 64 ++ leBytes 2 4 ++ leBytes 4 0 ++ [1, 2, 0, 1] ++ leBytes 2 4 ++ [1, 0] ++ leBytes 4 65536 ++ leBytes 4 4096 ++ leBytes 4 4096
    ++ leBytes 4 8192 ++ leBytes 4 0 ++ leBytes 4 16384 ++ leBytes 4 8192 ++ leBytes 4 0 ++ leBytes 2 0 ++ leBytes 2 0 ++ List.replicate 48 0
    ++ leBytes 2 1 ++ leBytes 2 0 ++ leBytes 4 192 ++ leBytes 4 64 ++ leBytes 4 32768 ++ List.replicate 16 0 ++ List.replicate 3936 0
def img0 : Image :=
  { hdr := { hdr0 with stepLimit := 0, nbh := 0, biasoff := 0 }
    sects := [{ ix := 0, typ := 1, role := 0, all := false, off := 192, len := 64, dest := 32768, reduced := false, data := List.replicate 64 0 }]
    decl := none, kv := none, tables := [], sems := [], relocs := [] }

theorem parse_img (h : inRange false Config.kgiMin Config.kgiMax 1 = true) : parseImage img = .ok img0 := by
  have hv : inRange false Config.kgiMin Config.kgiMax (leAt img 4 2) = true := h
  unfold parseImage
  rw [hv]
  exact of_okIs (by decide +kernel)

theorem fit_zero {spans : List (Nat × Nat)} {n align limit hint : Nat} (h : n ≤ limit) (ho : spans.any (fun r => overlap 0 n r.1 r.2) = false) :
    ∃ o, fitAt spans n align limit hint = some o := by
  unfold fitAt
  refine Option.isSome_iff_exists.1 (List.find?_isSome.2 ⟨0, by simp, ?_⟩)
  simp [h, ho]

theorem fit_after {x m n limit hint : Nat} (h : 2 * n + m + 64 ≤ limit) : ∃ o, fitAt [(x, m)] n 64 limit hint = some o := by
  unfold fitAt
  refine Option.isSome_iff_exists.1 (List.find?_isSome.2 ?_)
  by_cases hx : n ≤ x
  · refine ⟨0, by simp, ?_⟩
    simp only [List.any_cons, List.any_nil, Bool.or_false, overlap]
    simp
    omega
  · refine ⟨cdiv (x + m) 64 * 64, by simp, ?_⟩
    have h1 : x + m ≤ cdiv (x + m) 64 * 64 := by simp only [cdiv]; omega
    have h2 : cdiv (x + m) 64 * 64 ≤ x + m + 63 := by simp only [cdiv]; omega
    generalize cdiv (x + m) 64 * 64 = e at h1 h2
    simp only [List.any_cons, List.any_nil, Bool.or_false, overlap]
    simp
    omega

/-! An image without sections in memory is placed, and loaded. -/

theorem place_of {s : State} {p c : Nat} {i : Image} {share : List Nat} {r q b : Nat × Room}
    (ht : fitTiles { used := heldRanges s, ctr := s.freeCtr } share (max i.hdr.frame 1) 64 = some r)
    (ha : i.sects.filter (fun x => x.typ = 0xA) = []) (hb : i.sects.filter (fun x => x.typ = 0xB) = []) (hd : i.decl = none) (hk : i.kv = none)
    (hq : fitLow s p r.2 c (queueBytes i.hdr.rowmax) 64 = some q) (hr : fitLow s p q.2 c (replayBytes i.hdr.rowmax) 64 = some b) :
    ∃ pl, placeImage s p i share [c] = some pl ∧ pl.res = [] ∧ pl.hbm = [] := by
  unfold placeImage
  simp [ht, ha, hb, hd, hk, hq, hr]

theorem load_of {s : State} {p m id : Nat} {b : List Byte} {i : Image} {share : List Nat} {pl : Placement} {cs : List (Nat × List Byte)}
    (hs : shareOf s p m = some share) (hi : parseImage b = .ok i)
    (hf : ((partJobs s p).length < 16 && shareFree s p share) = true)
    (hp : placeImage s p i share ((List.range 12).filter (fun c => share.any (fun t => t / 8 = c))) = some pl) (hid : freeJobId s = some id)
    (hc : placedCopies i pl share = some cs) (h6 : placedRecords i pl share 6 32 = some []) (h5 : placedRecords i pl share 5 128 = some []) :
    ∃ s1 d, loadImage s p b m false = .ok (s1, id, d) := by
  unfold loadImage
  simp [hs, hi, hf, hp, hid, hc, h5, h6, check, bind, Except.bind, pure, Except.pure]

/-- The image lies at the start of the physical function's host region. -/
def loadingOf (bs : List Byte) : State := hostWrite idle 0 bs
def loading : State := loadingOf img

theorem read_bytes (bs : List Byte) (h : bs.length = 4096) : BufReads (loadingOf bs) (hd 0 0) (some 0) 0x800000000000 4096 bs := by
  have hb : hostRead (loadingOf bs) 0 bs.length = bs := hostRead_hostWrite_self (Memory.wf_reset.2) 0 bs
  rw [h] at hb
  exact ⟨0, rfl, rfl, rfl, hb.symm⟩

theorem free_one : freeJobId loading = some 1 := by
  unfold freeJobId
  rw [List.find?_range_eq_some]
  refine ⟨by decide, List.mem_range.2 (by omega), fun j hj => ?_⟩
  obtain rfl : j = 0 := by omega
  decide

/-- The places of the frame, the completion queue and the replay buffer. -/
theorem fits_img : ∃ r q b, fitTiles { used := heldRanges loading, ctr := loading.freeCtr } [0] (max img0.hdr.frame 1) 64 = some r
    ∧ fitLow loading 0 r.2 0 (queueBytes img0.hdr.rowmax) 64 = some q ∧ fitLow loading 0 q.2 0 (replayBytes img0.hdr.rowmax) 64 = some b := by
  obtain ⟨o, ho⟩ := fit_zero (spans := []) (n := 65536) (align := 64) (limit := 0x400000) (hint := Config.placeHint loading.freeCtr) (by decide) rfl
  have hh : heldRanges loading = [] := rfl
  have hm : max img0.hdr.frame 1 = 65536 := by decide
  have hs : [0].flatMap (fun t => spansIn [] (calAddr t 0) 0x400000) = [] := rfl
  have hl : lowerLevels loading 0 0 = (0, hbmBytes) :: (lowerLevels loading 0 0).tail := rfl
  have hout : ∀ l, spansIn (l ++ [(calAddr 0 o, 65536)]) 0 hbmBytes = spansIn l 0 hbmBytes := by
    intro l
    have : overlap (calAddr 0 o) 65536 0 hbmBytes = false := by
      have : hbmBytes ≤ calBase := by decide
      simp [overlap, calAddr]
      omega
    simp [spansIn, this]
  obtain ⟨q, hq⟩ := fit_zero (spans := []) (n := queueBytes 4) (align := 64) (limit := hbmBytes) (hint := Config.placeHint (loading.freeCtr + 1)) (by decide) rfl
  obtain ⟨b, hb⟩ := fit_after (x := q) (m := queueBytes 4) (n := replayBytes 4) (limit := hbmBytes) (hint := Config.placeHint (loading.freeCtr + 1 + 1)) (by decide)
  refine ⟨(o, { used := [(calAddr 0 o, 65536)], ctr := loading.freeCtr + 1 }),
    (q, { used := [(q, queueBytes 4), (calAddr 0 o, 65536)], ctr := loading.freeCtr + 1 + 1 }),
    (b, { used := [(b, replayBytes 4), (q, queueBytes 4), (calAddr 0 o, 65536)], ctr := loading.freeCtr + 1 + 1 + 1 }), ?_, ?_, ?_⟩
  · rw [hh, hm]
    unfold fitTiles
    simp only [hs, ho, Option.map_some]
    rfl
  · have h0 : spansIn [(calAddr 0 o, 65536)] 0 hbmBytes = [] := hout []
    have hn : max (queueBytes img0.hdr.rowmax) 1 = queueBytes 4 := by decide
    unfold fitLow
    rw [hl, hn]
    simp [fitFirst, fitIn, h0, hq]
  · have hx : overlap q (queueBytes 4) 0 hbmBytes = true := by
      have := List.find?_some hq
      simp only [Bool.and_eq_true, decide_eq_true_eq] at this
      have h1 := this.1
      have h2 : 0 < queueBytes 4 := by decide
      simp only [overlap, Bool.and_eq_true, decide_eq_true_eq]
      omega
    have h0 : spansIn [(q, queueBytes 4), (calAddr 0 o, 65536)] 0 hbmBytes = [(q, queueBytes 4)] := by
      rw [show [(q, queueBytes 4), (calAddr 0 o, 65536)] = [(q, queueBytes 4)] ++ [(calAddr 0 o, 65536)] from rfl, hout]
      simp [spansIn, hx]
    have hn : max (replayBytes img0.hdr.rowmax) 1 = replayBytes 4 := by decide
    unfold fitLow
    rw [hl, hn]
    simp [fitFirst, fitIn, h0, hb]

/-- What an image that loads meets, where its format version is accepted. -/
theorem fitting_img (h : inRange false Config.kgiMin Config.kgiMax 1 = true) : ∃ pl cs, shareOf loading 0 1 = some [0] ∧ parseImage img = .ok img0
    ∧ (partJobs loading 0).length < 16 ∧ shareFree loading 0 [0] = true ∧ placeImage loading 0 img0 [0] [0] = some pl ∧ freeJobId loading = some 1
    ∧ placedCopies img0 pl [0] = some cs ∧ placedRecords img0 pl [0] 6 32 = some [] ∧ placedRecords img0 pl [0] 5 128 = some [] := by
  obtain ⟨r, q, b, hr, hq, hb⟩ := fits_img
  obtain ⟨pl, hp, hr, hb⟩ := place_of (share := [0]) (c := 0) (p := 0) hr rfl rfl rfl rfl hq hb
  have hc : ∃ cs, placedCopies img0 pl [0] = some cs := by
    simp only [placedCopies, hr, hb]
    exact ⟨_, rfl⟩
  obtain ⟨cs, hc⟩ := hc
  exact ⟨pl, cs, by decide +kernel, parse_img h, by decide, by decide +kernel, hp, free_one, hc, rfl, rfl⟩

theorem load_img (h : inRange false Config.kgiMin Config.kgiMax 1 = true) : ∃ s1 d, loadImage loading 0 img 1 false = .ok (s1, 1, d) := by
  obtain ⟨pl, cs, h1, h2, h3, h4, h5, h6, h7, h8, h9⟩ := fitting_img h
  exact load_of h1 h2 (by simp [h3, h4]) h5 h6 h7 h8 h9

/-- A job LOADED whose task needs 100 µs, with and without a bound that its steps cannot keep; a job that stops with nothing left. -/
def jobIn (st : JobState) (bound : Nat) : State :=
  asks { served with jobs := [(1, { job0 with state := st, hdr := { hdr0 with sper := 106, chunkBound := bound } })], tasks := [], streams := [] } 0
    [.jobStart (hd 0 0) 1, .jobStop (hd 0 0) 1]

def zeros : List Byte := List.replicate 4096 0
theorem load_zeros : (match loadImage (loadingOf zeros) 0 zeros 1 false with | .error st => st | .ok _ => 0) = stInvalid := by decide +kernel

theorem img_length : img.length = 4096 := by decide +kernel
theorem units_loading (bs : List Byte) : (loadingOf bs).Units := units_idle
theorem load_taken (bs : List Byte) : Taken (.jobLoad (hd 0 0) 4096 0x800000000000 1) (hd 0 0) (loadingOf bs) := taken_of {} rfl rfl

/-- JOB_LOAD: an image that loads where its format is accepted, and one that does not. -/
theorem witness_JobCommands_load : (loadingOf img).Units ∧ Taken (.jobLoad (hd 0 0) 4096 0x800000000000 1) (hd 0 0) (loadingOf img)
    ∧ BufReads (loadingOf img) (hd 0 0) (some 0) 0x800000000000 4096 img
    ∧ BufReads (loadingOf zeros) (hd 0 0) (some 0) 0x800000000000 4096 zeros
    ∧ (match loadImage (loadingOf zeros) 0 zeros 1 false with | .error st => st | .ok _ => 0) = stInvalid :=
  ⟨units_loading _, load_taken _, read_bytes _ img_length, read_bytes _ (List.length_replicate ..), load_zeros⟩

/-- JOB_START, JOB_STOP and JOB_RELEASE. -/
theorem witness_JobCommands : (jobIn .loaded 444).Units ∧ Taken (.jobStart (hd 0 0) 1) (hd 0 0) (jobIn .loaded 444)
    ∧ (jobOf (jobIn .loaded 444) 0 1).map (fun x => (x.state, admitsFree x)) = some (.loaded, true)
    ∧ (jobOf (jobIn .loaded 443) 0 1).map (fun x => (x.state, admitsFree x)) = some (.loaded, false)
    ∧ Taken (.jobStop (hd 0 0) 1) (hd 0 0) (jobIn .running 0) ∧ (jobOf (jobIn .running 0) 0 1).map (·.state) = some .running
    ∧ jobStreams (jobIn .running 0) 1 = [] ∧ (∀ e ∈ (jobIn .running 0).tasks, e.2.job = 1 → e.2.state = .built ∨ e.2.state = .executing)
    ∧ (getJob (jobIn .stopping 0) 1).map (·.state) = some .stopping ∧ jobStreams (jobIn .stopping 0) 1 = []
    ∧ (∀ e ∈ (jobIn .stopping 0).tasks, e.2.job ≠ 1) :=
  ⟨⟨rfl, rfl, rfl, rfl, rfl, rfl, rfl, rfl⟩, taken_of {} rfl (by decide), by decide, by decide, taken_of {} rfl (by decide), by decide, by decide, by decide,
    by decide, by decide, by decide⟩

/-! ## Decode tables, router sites, checks -/

/-- A table of two codes of BF16 and its slot; a job with one slot live and one retired, one with both live. -/
def table0 : List Byte := [0x11, 5, 6, 7] ++ List.replicate 12 0
def live (gen : Nat) : DecSlot := { cond := .live, gen := gen, table := table0, order := 0 }
def loadOf (h : DciHdr) (flags rgen gen : Byte) : Instr := .tableLoad h (BitVec.ofNat 8 1) 1 flags rgen gen table0
def slow (h : DciHdr) : DciHdr := { h with timeout := 5 }
def jobSlots (a b : DecSlot) : State :=
  asks { served with jobs := [(1, { job0 with quince := [a, b], sloe := [a, b] })] } 0
    [loadOf (hd 0 0) 1 2 3, loadOf (hd 0 0) 2 0 3, loadOf (slow (hd 0 0)) 3 2 3]
def waiter0 : Waiter := { fn := 0, tag := 7, what := .tableLoad 1 1 3 table0 false, deadline := some 5000 }

theorem witness_CodecTableLoads :
    Taken (loadOf (hd 0 0) 1 2 3) (hd 0 0) (jobSlots (live 2) (live 1)) ∧ Taken (loadOf (hd 0 0) 2 0 3) (hd 0 0) (jobSlots (live 2) slot0)
    ∧ Taken (loadOf (slow (hd 0 0)) 3 2 3) (slow (hd 0 0)) (jobSlots (live 2) (live 1)) ∧ tabValid table0 = true
    ∧ (∀ w ∈ (jobSlots (live 2) (live 1)).waiters, tableKey w.what ≠ some (1, 1))
    ∧ (∀ d ∈ [live 2, live 1], d.cond ≠ .empty → d.gen ≠ 3) ∧ (∃ d ∈ [live 2, live 1], d.cond = .live ∧ d.gen = 2)
    ∧ ([live 2, slot0][1]? = some slot0 ∧ slot0.cond = .empty ∧ (live 2).cond = .live)
    ∧ ({ live 2 with cond := .retired } : DecSlot).cond = .retired ∧ genHeld (jobSlots (live 2) (live 1)) 1 1 2 = false
    ∧ ({ jobSlots (live 2) slot0 with waiters := [waiter0] } : State).waiters.find? (isWaiter 0 7) = some waiter0
    ∧ tyraxUp ({ jobSlots (live 2) slot0 with waiters := [waiter0] } : State) = true
    ∧ waiter0.what = .tableLoad 1 1 3 table0 false ∧ waiter0.deadline.isSome = true ∧ [waiter0].filter (isWaiter 0 7) = [waiter0] :=
  ⟨taken_of { tmo := true } rfl (by decide), taken_of { tmo := true } rfl (by decide), taken_of { tmo := true } rfl (by decide), by decide, by decide,
    by decide, by decide, by decide, rfl, by decide, by decide, rfl, rfl, rfl, by decide⟩

/-- One bias head of 1,024 bytes at the start of partition 0's region; a task that holds the copy that is not live. -/
def biasTable : List Byte := leBytes 2 0 ++ leBytes 2 1 ++ List.replicate 4 0 ++ leBytes 8 0x800000000000
def biased (held : Bool) : State :=
  asks { served with tasks := [(1, { task0 with biasCopy := held })] } 0
    [.tableLoad (hd 0 0) 3 1 0 0 0 biasTable, .tableLoad (slow (hd 0 0)) 3 1 0 0 0 biasTable]
def site0 : Site :=
  { e := 2, k := 1, inBar := 2, inCnt := 3, outBar := 5, ltile := 0, logits := 0x1000, pres := 0xFFFFFFFF, out := 0x2000, exptab := 0x40000000, template := [] }
def sited (cnt : Nat) : State := { served with jobs := [(1, { job0 with sites := [site0] })], tasks := [(1, { task0 with bars := [(2, cnt)] })] }

theorem witness_BiasTablesAndRouterSites : Memory.wf (biased false).mem
    ∧ Taken (.tableLoad (hd 0 0) 3 1 0 0 0 biasTable) (hd 0 0) (biased false) ∧ Taken (.tableLoad (hd 0 0) 3 1 0 0 0 biasTable) (hd 0 0) (biased true)
    ∧ Taken (.tableLoad (slow (hd 0 0)) 3 1 0 0 0 biasTable) (slow (hd 0 0)) (biased true)
    ∧ (∀ w ∈ (biased true).waiters, tableKey w.what ≠ some (3, 1)) ∧ zeroAt biasTable 4 4 = true ∧ leAt biasTable 0 2 + leAt biasTable 2 2 ≤ job0.hdr.nbh
    ∧ PartReads (biased true) 0 (leAt biasTable 8 8) (1024 * 1) (List.replicate 1024 0)
    ∧ idleCopyHeld (biased false) 1 job0 = false ∧ idleCopyHeld (biased true) 1 job0 = true ∧ job0.share = [0]
    ∧ getTask (sited 3) 1 = some { task0 with bars := [(2, 3)] } ∧ getJob (sited 3) 1 = some { job0 with sites := [site0] }
    ∧ (task0.state = .executing ∧ 0 ∉ task0.sites ∧ site0.inBar < 32 ∧ site0.outBar < 32) ∧ site0.inCnt ≤ (tGet [(2, 3)] 2).getD 0
    ∧ (∀ i, i < 4 * 2 * 1 → isBad (sited 3) (calAddr 0 0x1000 + i) = false)
    ∧ (getTask (sited 2) 1).map (fun x => decide ((tGet x.bars 2).getD 0 < 3)) = some true :=
  ⟨⟨by decide, by decide⟩, taken_of { tmo := true } rfl (by decide), taken_of { tmo := true } rfl (by decide), taken_of { tmo := true } rfl (by decide),
    by decide, by decide, by decide, ⟨by decide, by decide, by decide +kernel⟩, by decide, by decide, rfl, rfl, rfl, by decide, by decide, fun _ _ => rfl, by decide⟩

/-- A check of stream 5 that no row was placed for; a test of tile 1, withdrawn. -/
def check0 : StepCheck :=
  { fn := 0, tag := 7, stream := 5, fum := false, placed := false, step := 0, firstTile := 0, checkTile := none, thirdTile := none, result1 := none
    result2 := none, mismatch := false, deadline := some 5000 }
def test0 : TileTest := { fn := 0, tag := 7, tile := 1, mask := 0, keep := false }
def inTest : State := { setTile small 1 (fun x => { x with withdrawn := true }) with tests := [test0], checks := [check0] }

def checkable : State := asks served 1 [.checkStep (hd 1 0) 5 true]
def testable : State := asks small 0 [.checkTile (hd 0 0) 1 1023 false]

theorem witness_ChecksOfStepsAndTiles : checkable.Units ∧ Taken (.checkStep (hd 1 0) 5 true) (hd 1 0) checkable ∧ getStream checkable 5 = some stream0
    ∧ stream0.part = partOf (hd 1 0) ∧ stream0.check = false ∧ (∀ c ∈ checkable.checks, c.stream ≠ 5) ∧ stream0.state ≠ .closing ∧ stream0.state ≠ .faulted
    ∧ inTest.waiters.find? (fun w => isWaiter 0 7 w && w.deadline.isSome) = none
    ∧ tyraxUp inTest = true ∧ inTest.checks.find? (fun c => c.fn = 0 && c.tag = 7 && !c.placed && c.deadline.isSome) = some check0
    ∧ Taken (.checkTile (hd 0 0) 1 1023 false) (hd 0 0) testable ∧ (1023 : W32).toNat < 2 ^ 10 ∧ partOfSlice testable (1 / 8) = some (partOf (hd 0 0))
    ∧ (getTile testable 1).withdrawn = false ∧ (getTile testable 1).withdrawNext = false ∧ lastInService testable 1 = false ∧ (getTile testable 1).cmd = none
    ∧ (getSlice testable (1 / 8)).deep = false ∧ inTest.tests.find? (fun c => c.tile = 1) = some test0 ∧ (getTile inTest 1).withdrawn = true
    ∧ (getTile inTest 1).failed = false ∧ 0x400 &&& 0x3FF = 0 ∧ 0x200 &&& 0x3FF ≠ 0 :=
  ⟨⟨rfl, rfl, rfl, rfl, rfl, rfl, rfl, rfl⟩, taken_of { tmo := true } rfl (by decide), rfl, rfl, rfl, by decide, by decide, by decide, by decide, rfl, by decide,
    taken_of { dev := true } rfl (by decide), by decide, by decide, by decide, by decide, by decide, by decide, by decide, by decide, by decide, by decide,
    by decide, by decide⟩

/-- A job on tiles 0 and 1 with a stage of 16 instructions at the entry of its image in tile 1, its row checked: a re-run of tile 0's
command is due, or its checking run, or the comparison. -/
def stage0 : List Host.Cell := [(calAddr 1 0x8000, 4), (calAddr 1 0x8002, 16), (calAddr 1 0x8004, 1)]
def twice (run : RunKind) (cmd : Option Cmd) (checks : List StepCheck) : State :=
  { small with
    jobs := [(1, { job0 with share := [0, 1], progs := [{ role := 0, reduced := false, dest := 0x8000 }] })], mem := stage0
    tasks := [(1, { task0 with rows := [{ row0 with check := true }], pos := [{ pos0 with run := run }] })]
    tiles := { small.tiles.headD Tile.reset with cmd := cmd } :: { Tile.reset with phase1 := true, phase2 := true } :: List.replicate 94 Tile.reset
    checks := checks }
def cmdChk : Cmd := { cmd0 with checked := true }
def cmdCmp : Cmd := { cmdChk with wait := some .compare }
def placed : StepCheck := { check0 with placed := true, firstTile := 0, checkTile := some 1 }
def pub0 : Published := publishedOf (twice .first (some cmdCmp) [placed]) 0 cmdCmp
def pub1 : Published := { pub0 with barsig := [(1, 1)] }
def pub2 : Published := { pub0 with barsig := [(2, 1)] }
def started (s : State) (run : RunKind) : Bool :=
  match getTask s 1, getJob s 1 with
  | some x, some j => match startCmd (writeList (finishMoves s j.part) 1 x j 0 1) 1 x j { pos0 with tile := 1 } run with | .ok _ => true | .error _ => false
  | _, _ => false

theorem witness_SecondRuns :
    ((twice (.rerun 0 0 0) none []).tasks.findSome? (fun e => if e.2.state = .executing then
        (e.2.pos.find? (rerunDue (twice (.rerun 0 0 0) none []) 0)).map (fun p => (e.1, e.2, p)) else none)).map (fun e => (e.1, e.2.2)) =
      some (1, { pos0 with run := .rerun 0 0 0 })
    ∧ runTileFor (twice (.rerun 0 0 0) none []) 1 [0] = some 1 ∧ started (twice (.rerun 0 0 0) none []) (.rerun 0 0 0) = true
    ∧ (let s := twice .first (some cmdChk) [{ check0 with placed := true }]
       getCmd s 0 = some cmdChk ∧ (getPos s 1 0).isSome = true ∧ s.checks.find? (coversCmd s cmdChk) = some { check0 with placed := true }
         ∧ runTileFor s 1 [0] = some 1 ∧ awaitsCheck s cmdChk = true ∧ waitsCommit cmdChk = false ∧ committing cmdChk = false ∧ checkRuns s cmdChk 0 = false ∧ started s (.check 0) = true)
    ∧ (∀ q ∈ [{ placed with result1 := some pub0 }, { placed with result1 := some pub1 }, { placed with result1 := some pub1, result2 := some pub0 },
          { placed with result1 := some pub1, result2 := some pub1 }, { placed with result1 := some pub1, result2 := some pub2 }],
        let s := twice .first (some cmdCmp) [q]
        getCmd s 0 = some cmdCmp ∧ cmdCmp.wait = some .compare ∧ s.checks.find? (coversCmd s cmdCmp) = some q ∧ publishedOf s 0 cmdCmp = pub0)
    ∧ pub1 ≠ pub0 ∧ pub2 ≠ pub0 ∧ pub2 ≠ pub1 ∧ cmdCmp.last = false
    ∧ noThird (twice .first (some cmdCmp) [{ placed with result1 := some pub1 }]) 0 cmdCmp { placed with result1 := some pub1 } = true
    ∧ noThird (twice .first (some cmdCmp) [{ placed with result1 := some pub1, checkTile := some 2 }]) 0 cmdCmp
        { placed with result1 := some pub1, checkTile := some 2 } = false := by
  refine ⟨by decide, by decide, by decide +kernel, ⟨rfl, by decide, by decide, by decide, by decide, rfl, rfl, by decide, by decide +kernel⟩, by decide +kernel,
    by decide +kernel, by decide +kernel, by decide +kernel, rfl, by decide +kernel, by decide +kernel⟩

/-! ## Sets, queries, tasks -/

/-- A set of partition 0 staged with its own ports and quota, one that a commit refuses (a quota below its streams is busy), and none. -/
def bare : State :=
  asks { small with scopes := { ScopeSt.reset with cur := some (CfgSet.reset 0 5456), prev := some (CfgSet.reset 0 100) } :: small.scopes.tail } 0
    [.cfgCommit (hd 0 0) 1, .cfgRevert (hd 0 0) 1]
def staged (c : CfgSet) : State := { bare with scopes := bare.scopes.modify 0 (fun x => { x with stagedPf := some c }) }
def stagedDev : State :=
  asks { small with scopes := small.scopes.modify 12 (fun x => { x with stagedPf := x.cur }) } 0 [.cfgCommit (hd 0 0xF0) 1]
def setBytes (bs : List Byte) : State :=
  hostWrite { bare with
    funcs := { Func.reset with bme := true, outstanding := asked [.cfgStage (hd 0 0xF0) 0x800000000000] } :: List.replicate 12 Func.reset } 0 bs

theorem read_set (bs : List Byte) (h : bs.length = 2816) : BufReads (setBytes bs) (hd 0 0xF0) none 0x800000000000 2816 bs := by
  have hb : hostRead (setBytes bs) 0 bs.length = bs := hostRead_hostWrite_self (Memory.wf_reset.2) 0 bs
  rw [h] at hb
  exact ⟨0, rfl, rfl, rfl, hb.symm⟩

theorem units_bytes (bs : List Byte) : (setBytes bs).Units := ⟨rfl, rfl, rfl, rfl, rfl, rfl, rfl, rfl⟩

theorem witness_ConfigurationSets_stage : (setBytes storeRaw).Units ∧ cfgScope (hd 0 0xF0) = 12
    ∧ Taken (.cfgStage (hd 0 0xF0) 0x800000000000) (hd 0 0xF0) (setBytes storeRaw)
    ∧ BufReads (setBytes storeRaw) (hd 0 0xF0) none 0x800000000000 2816 storeRaw
    ∧ BufReads (setBytes (List.replicate 2816 1)) (hd 0 0xF0) none 0x800000000000 2816 (List.replicate 2816 1)
    ∧ cfgLayoutOk storeRaw (scopeCode 12) = true ∧ cfgLayoutOk (List.replicate 2816 1) (scopeCode 12) = false :=
  ⟨units_bytes _, by decide, taken_of { dev := true } rfl rfl, read_set _ (by decide +kernel), read_set _ (List.length_replicate ..), by decide +kernel,
    by decide +kernel⟩

theorem witness_ConfigurationSets_commit : bare.Units ∧ Taken (.cfgCommit (hd 0 0) 1) (hd 0 0) bare ∧ (getScope bare 0).stagedPf = none
    ∧ Taken (.cfgCommit (hd 0 0) 1) (hd 0 0) (staged (CfgSet.reset 0 5456))
    ∧ (getScope (staged (CfgSet.reset 0 5456)) 0).stagedPf = some (CfgSet.reset 0 5456)
    ∧ curSet (staged (CfgSet.reset 0 5456)) 0 = some (CfgSet.reset 0 5456) ∧ (1 : W32).toNat = (CfgSet.reset 0 5456).version
    ∧ (2 : W32).toNat ≠ (CfgSet.reset 0 5456).version
    ∧ commitCheck (staged (CfgSet.reset 0 5456)) 0 0 (CfgSet.reset 0 5456) (CfgSet.reset 0 5456) = none
    ∧ commitCheck (staged (CfgSet.reset 0 0)) 0 0 (CfgSet.reset 0 5456) (CfgSet.reset 0 0) = some stBusy
    ∧ Taken (.cfgRevert (hd 0 0) 1) (hd 0 0) bare ∧ (getScope bare 0).prev = some (CfgSet.reset 0 100)
    ∧ Taken (.cfgCommit (hd 0 0xF0) 1) (hd 0 0xF0) stagedDev ∧ cfgScope (hd 0 0xF0) = 12
    ∧ (match curSet stagedDev 12 with | some c => commitCheck stagedDev 0 12 c c | none => some 0) = none :=
  ⟨⟨rfl, rfl, rfl, rfl, rfl, rfl, rfl, rfl⟩, taken_of { dev := true } rfl (by decide), rfl, taken_of { dev := true } rfl (by decide), rfl, rfl, by decide,
    by decide, by decide +kernel, by decide +kernel, taken_of { dev := true } rfl (by decide), rfl, taken_of { dev := true } rfl (by decide), by decide,
    by decide +kernel⟩

/-- Queries outstanding of the physical function and of the function of partition 0. -/
def asking : State :=
  asks (asks served 0 ([(0, 0), (1, 95), (2, 11), (3, 15), (5, 0), (6, 0), (9, 0)].map (fun e => .devQuery (hd 0 0) e.1 e.2 0x800000000000))) 1
    ([(0, 0), (1, 95), (2, 11), (3, 15), (3, 0), (3, 1), (4, 0), (6, 0), (6, 1)].map (fun e => .devQuery (hd 1 0) e.1 e.2 0x800000000000))

theorem witness_DeviceQueries :
    (∀ e ∈ [(0, 0), (1, 95), (2, 11), (3, 15), (5, 0), (6, 0), (9, 0)], Taken (.devQuery (hd 0 0) e.1 e.2 0x800000000000) (hd 0 0) asking)
    ∧ (∀ e ∈ [(0, 0), (1, 95), (2, 11), (3, 15), (3, 0), (3, 1), (4, 0), (6, 0), (6, 1)],
        Taken (.devQuery (hd 1 0) e.1 e.2 0x800000000000) (hd 1 0) asking)
    ∧ (outFn asking (hd 0 0) none 0x800000000000 4096).isSome = true ∧ (outFn asking (hd 1 0) none 0x800000000000 4096).isSome = true
    ∧ bufOpen asking (hd 0 0) none 0x800000000000 4096 = true ∧ bufOpen asking (hd 1 0) none 0x800000000000 4096 = true
    ∧ seesSlice asking 0 (95 / 8) = true ∧ seesSlice asking 1 (95 / 8) = false ∧ (querySet asking 0 6 0).isSome = true :=
  ⟨fun e h => taken_of { part := false } rfl (by
      have h' : [(0, 0), (1, 95), (2, 11), (3, 15), (5, 0), (6, 0), (9, 0)].all (fun e => !dciHeld asking (.devQuery (hd 0 0) e.1 e.2 0x800000000000) (hd 0 0)
        && (!takesTurn (.devQuery (hd 0 0) e.1 e.2 0x800000000000) (hd 0 0) || atOnce (.devQuery (hd 0 0) e.1 e.2 0x800000000000) (hd 0 0) asking
          || shapeTurn asking (hd 0 0)) && (plainCheck (hd 0 0) false).isNone) = true := by decide
      exact List.all_eq_true.1 h' e h),
    fun e h => taken_of { part := false } rfl (by
      have h' : [(0, 0), (1, 95), (2, 11), (3, 15), (3, 0), (3, 1), (4, 0), (6, 0), (6, 1)].all (fun e =>
        !dciHeld asking (.devQuery (hd 1 0) e.1 e.2 0x800000000000) (hd 1 0)
        && (!takesTurn (.devQuery (hd 1 0) e.1 e.2 0x800000000000) (hd 1 0) || atOnce (.devQuery (hd 1 0) e.1 e.2 0x800000000000) (hd 1 0) asking
          || shapeTurn asking (hd 1 0)) && (plainCheck (hd 1 0) false).isNone) = true := by decide
      exact List.all_eq_true.1 h' e h),
    by decide, by decide, by decide, by decide, by decide, by decide, by decide⟩

def ready0 : Stream := { stream0 with state := .runnable, chunks := [{ chunk0 with landed := true }] }
def stepped (ts : Tab Task) (comp : List ChunkDone) : State :=
  { small with jobs := [(1, { job0 with compQ := comp })], tasks := ts, streams := [(5, ready0)], tiles := small.tiles.map (fun x => { x with cmd := none }) }
def built : Task := { task0 with state := .built }

theorem witness_PlacementAndSchedulingSteps : [0, 1].Nodup ∧ (∀ (x t : Nat), (if x = 0 then some 1 else none) = some t → t ∈ [0, 1])
    ∧ (getJob (stepped [] []) 1).map (fun x => (stepsRun (stepped [] []) x, stepClusters (stepped [] []) 1 x [0], modeBuilds (stepped [] []) x 0)) =
        some (true, [0], true)
    ∧ (stepped [] []).pwr.draining = false ∧ (getPart (orcBoundary (stepped [] []) 0) 0).schedEn = true
    ∧ (getPart (orcBoundary (setPart (stepped [] []) 0 (fun x => { x with pendOrc := some (false, false) })) 0) 0).schedEn = false
    ∧ (tasksOn (stepped [(1, { built with state := .suspended })] []) 1 0).find? (fun e => e.2.state = .suspended) =
        some (1, { built with state := .suspended })
    ∧ (tasksOn (stepped [(1, { built with state := .replayDue })] []) 1 0).find? (fun e => e.2.state = .replayDue) =
        some (1, { built with state := .replayDue })
    ∧ built.rows ≠ [] ∧ serviceOn (stepped [] []) job0 0 ≠ [] ∧ 0 < job0.hdr.rowcap
    ∧ (∀ e ∈ tasksOn (stepped [(1, built), (2, task0)] []) 1 0, e.2.state = .built ∨ e.2.state = .executing)
    ∧ 2 ≤ (tasksOn (stepped [(1, built), (2, task0)] []) 1 0).length ∧ tasksOn (stepped [] [done0]) 1 0 = []
    ∧ (getJob (stepped [] [done0]) 1).map (·.compQ) = some [done0]
    ∧ (homed served 1 0).filter (fun e => candidate served e.2) = [] ∧ (getPart served 0).dropLate = false
    ∧ (stepped [] []).Units ∧ (getPart (stepped [] []) 0).state ≠ .none := by
  refine ⟨by decide, fun x t h => ?_, by decide, rfl, by decide, by decide, by decide, by decide, by decide, by decide, by decide, by decide, by decide, by decide, by decide, by decide, rfl, ⟨rfl, rfl, rfl, rfl, rfl, rfl, rfl, rfl⟩, by decide⟩
  split at h <;> simp_all

/-- A command in its stage commit with one COPY window of one unit that it wrote. -/
def cmdCommit : Cmd :=
  { cmd0 with
    phase := .commit, wins := [{ append := false, len := 64, home := calAddr 0 0x40000, shadow := calAddr 0 0x1000, lenw := 0 }]
    written := [(calAddr 0 0x1000) / 64], work := asWrites (calAddr 0 0x1000) (List.replicate 64 7), barsig := [(2, 1)] }
def commitState : State := withCmd (fun _ => cmdCommit)
def finished (app : List (Nat × Nat)) : State :=
  { small with tasks := [(1, { task0 with pos := [{ pos0 with fin := true }], finals := [(0, { pub0 with appends := app })] })]
               tiles := small.tiles.map (fun x => { x with cmd := none }) }
def windowed : State :=
  setPart { small with jobs := [(1, job0)] } 0 (fun x => { x with table := some (tabOf 118 1) })
def windowed2 : State :=
  let s := finished []
  setPart { s with
    jobs := [(1, job0)], time := { s.time with acc := 2 ^ 40 }
    tiles := small.tiles.map (fun x => { x with cmd := x.cmd.map (fun c => { c with phase := .commitWait, wdogEnd := none }) }) } 0 (fun x => { x with table := some (tabOf 118 1) })

/-- A task whose list may arrive: its tile idle, with the stage of a role in Caldera. -/
def arriving : State :=
  { stepped [(1, built)] [] with
    jobs := [(1, { job0 with progs := [{ role := 0, reduced := false, dest := 0x8000 }] })]
    mem := [(calAddr 0 0x8000, 4), (calAddr 0 0x8002, 16), (calAddr 0 0x8004, 1)] }
def jobArr : Job := { job0 with progs := [{ role := 0, reduced := false, dest := 0x8000 }] }

theorem witness_CommandsStartAndEnd : (let s := twice .first none []
      started s .first = true ∧ ({ pos0 with tile := 1 } : TilePos).tile < s.tiles.length)
    ∧ (shareOn job0 0).all (tileOpen (stepped [(1, built)] []) 0 1) = true
    ∧ (∀ e ∈ tasksOn (stepped [(1, built)] []) 1 0, e.2.state ≠ .executing) ∧ nextBuilt (stepped [(1, built)] []) 1 0 = some (1, built)
    ∧ small.Units ∧ getCmd small 0 = some cmd0 ∧ cmd0.phase = .execute ∧ cmd0.wdogEnd.isSome = true
    ∧ commitState.Units ∧ getCmd commitState 0 = some cmdCommit ∧ committing cmdCommit = true ∧ shadowBad commitState cmdCommit = none
    ∧ tGet (getPart commitState 0).debits 0 = none
    ∧ (let s := setPart commitState 0 (fun x => { x with debits := [(0, 0)] })
      getCmd s 0 = some cmdCommit ∧ shadowBad s cmdCommit = none ∧ cmdCommit.part < 12 ∧ tGet (getPart s 0).debits 0 = some 0)
    ∧ Memory.wf commitState.mem
    ∧ (copyBytes cmdCommit).Pairwise (fun a b => a.1 ≠ b.1) ∧ copyBytes cmdCommit ≠ []
    ∧ (copyBytes cmdCommit).all (fun w => (placeFind (getGey commitState 0) w.1).isNone && (sliceOf w.1).isSome) = true
    ∧ cmdCommit.barsig = [(2, 1)] ∧ (getTask commitState 1).isSome = true
    ∧ (let s := setTile commitState 1 (fun y => { y with cmd := some cmd0 }); getCmd s 1 = some cmd0 ∧ cmd0.part = cmdCommit.part)
    ∧ (finished []).Units ∧ (getTask (finished []) 1).map (fun x => (x.state, decide (x.pos ≠ []), x.pos.all (·.fin), commitCause (finished []) x job0)) =
        some (.executing, true, true, none)
    ∧ (getTask (finished [(0, 16)]) 1).map (fun x => commitCause (finished [(0, 16)]) x job0) = some (some 0x1B)
    ∧ (∀ t, t < 96 → getCmd (finished []) t = none)
    ∧ windowed.Units ∧ (getPart windowed 0).table = some (tabOf 118 1)
    ∧ windowTasks windowed 1 (endingTiles windowed 0 (tabOf 118 1) ⟨0, 118, 1, 1⟩) = [(1, task0)] ∧ task0.state = .executing
    ∧ getJob windowed 1 = some job0 ∧ job0.state = .running ∧ inCommit windowed task0 job0 = false ∧ task0.streak < 3 ∧ cmd0.phase ≠ .commit
    ∧ (∀ s ∈ [windowed, windowed2], (∀ e ∈ s.jobs, unserved s e.2 = false) ∧ ∀ y ∈ s.tiles, y.withdrawNext = false)
    ∧ windowed2.Units ∧ (getPart windowed2 0).table = some (tabOf 118 1) ∧ getJob windowed2 1 = some job0
    ∧ (getTask windowed2 1).map (fun x => (inCommit windowed2 x job0,
        decide (windowTasks windowed2 1 (endingTiles windowed2 0 (tabOf 118 1) ⟨0, 118, 1, 1⟩) = [(1, x)]))) = some (true, true) := by
  refine ⟨⟨by decide +kernel, by decide⟩, by decide, by decide, by decide, units_small, rfl, rfl, rfl, ⟨rfl, rfl, rfl, rfl, rfl, rfl, rfl, rfl⟩, rfl, rfl,
    by decide +kernel, by decide +kernel, ⟨rfl, by decide +kernel, by decide, by decide +kernel⟩, ⟨by decide, by decide⟩, by decide +kernel, by decide +kernel,
    by decide +kernel, rfl, rfl, ⟨rfl, rfl⟩, ⟨rfl, rfl, rfl, rfl, rfl, rfl, rfl, rfl⟩, by decide +kernel, by decide +kernel, by decide +kernel,
    ⟨rfl, rfl, rfl, rfl, rfl, rfl, rfl, rfl⟩, rfl, by decide +kernel, rfl, rfl, rfl, by decide +kernel, by decide, by decide, ?_,
    ⟨rfl, rfl, rfl, rfl, rfl, rfl, rfl, rfl⟩, rfl, rfl, by decide +kernel⟩
  simp only [List.mem_cons, List.not_mem_nil, or_false]
  rintro s (rfl | rfl) <;> exact ⟨by decide +kernel, by decide +kernel⟩

theorem witness_TaskStepsComplete : arriving.Units ∧ getJob arriving 1 = some jobArr ∧ (shareOn jobArr 0).all (tileOpen arriving 0 1) = true
    ∧ (∀ e ∈ tasksOn arriving 1 0, e.2.state ≠ .executing) ∧ nextBuilt arriving 1 0 = some (1, built) ∧ built.pos = [pos0] ∧ built.job = 1
    ∧ (let sA := listArrives arriving 1 built jobArr
      (match getTask sA 1 with
        | some y => y.pos = [pos0] && y.job = 1 && tileInService sA 0 && tileIdle sA 0 && (match startCmd (finishMoves sA 0) 1 y jobArr pos0 .first with
          | .ok s1 => s1.jobs.all (fun e => !unserved s1 e.2) && s1.tiles.all (fun y => !y.withdrawNext)
          | .error _ => false)
        | none => false) = true)
    ∧ pos0.tile < 96 ∧ pos0.tile = pos0.ident ∧ pos0.fin = false ∧ pos0.run = .first
    ∧ getCmd small 0 = some cmd0 ∧ getTask small cmd0.task = some task0 ∧ (getJob small task0.job).isSome = true ∧ (getTile small 0).abort.valid = false
    ∧ dispatches small 0 cmd0 = true ∧ decodeWord 0 (0xFF#128 <<< 120) = none ∧ (cmd0.phase = .start ∨ cmd0.phase = .execute) ∧ cmd0.wdogEnd.isSome = true
    ∧ getCmd commitState 0 = some cmdCommit ∧ committing cmdCommit = true ∧ shadowBad commitState cmdCommit = none
    ∧ (getTask (finished []) 1).map (fun x => commitCause (finished []) x job0) = some none ∧ inCommit windowed task0 job0 = false :=
  ⟨⟨rfl, rfl, rfl, rfl, rfl, rfl, rfl, rfl⟩, rfl, by decide, by decide, by decide, rfl, rfl, by decide +kernel, by decide, rfl, rfl, rfl, rfl, rfl, rfl, rfl, rfl,
    by decide, .inr rfl, rfl, rfl, rfl, by decide +kernel, by decide +kernel, by decide +kernel⟩

/-! ## Geyser -/

def landing : Xfer := { xfer0 with issued := 1, desc := { xfer0.desc with dst := calAddr 0 0x1200 } }
def stray : Xfer := { landing with desc := { landing.desc with src := 5 * hbmBytes } }

/-- Two transfers within tile 0's Caldera that wait at its write port: the second was queued earlier. -/
def lateX : Xfer := { xferCal with queuedAt := 500, desc := { xferCal.desc with dline := 1 } }
def earlyX : Xfer := { lateX with id := 1, queuedAt := 100, desc := { lateX.desc with src := calAddr 0 0x8100, dst := calAddr 0 0x1100 } }
def racing : State := setGey small 0 (fun g => { g with xfers := [lateX, earlyX], nextId := 2 })

/-- A read of the Caldera of cluster 1. -/
def farX : Xfer := { xfer0 with desc := { xfer0.desc with src := calAddr 8 0x8000 } }

theorem witness_GeyserTransfers : getXfer busy 0 0 = some xfer0 ∧ xfer0.tile / 8 = 0 ∧ getCmd busy 0 = some cmd0 ∧ xfer0.cancelled = false
    ∧ canIssue busy cmd0 xfer0 = true ∧ canIssue (swapping landing) cmd0 landing = false
    ∧ canIssue (swapping farX) cmd0 farX = true ∧ remoteOf 0 (nextSrc (swapping farX) farX) = some 1 ∧ 1 < (swapping farX).geys.length
    ∧ 0 < racing.geys.length ∧ earlyX ∈ (getGey racing 0).xfers ∧ (earlyX.tile / 8 ≠ 0 ∨ earlyX.id ≠ 0) ∧ getCmd racing earlyX.tile = some cmd0
    ∧ issuable racing cmd0 earlyX = true
    ∧ (∃ gx ∈ targetsOf racing lateX, ∃ gy ∈ targetsOf racing earlyX, sameTarget gx.1 gy.1 = true)
    ∧ reqDeadline racing earlyX earlyX.issued < reqDeadline racing lateX lateX.issued
    ∧ (getXfer (swapping { xfer0 with waiting := true }) 0 0).map (·.waiting) = some true
    ∧ canLand (swapping xfer0) xfer0 = false
    ∧ canLand (swapping landing) landing = true ∧ canLand (swapping { landing with cancelled := true }) { landing with cancelled := true } = true
    ∧ (∀ y ∈ (getGey (swapping landing) 0).xfers, y.member ≠ some 0) ∧ inFlight landing ≤ 1
    ∧ (match slabBytes (swapping stray) 0 cmd0 stray.desc 0 false with | .error _ => true | .ok _ => false) = true
    ∧ slabBytes (swapping landing) 0 cmd0 landing.desc 0 false = .ok (List.replicate 64 0)
    ∧ (now (swapping landing) : Int) ≤ slabDeadline landing cmd0 0 ∧ landing.desc.isCopy = true ∧ landing.landed = 0
    ∧ (∃ s2, deliver (geyAdd (geyAdd (leaveRemote (swapping landing) landing) 0 0 (readLen (swapping landing) 0 cmd0 landing.desc 0)) 0 5
        (readSaved (swapping landing) 0 cmd0 landing.desc 0)) landing cmd0 (List.replicate 64 0) = .ok s2)
    ∧ (let x := slab 1 []
       (now (swapping x) : Int) ≤ slabDeadline x cmd0 1 ∧ canLand (swapping x) x = true ∧ x.desc.isCopy = false
       ∧ slabBytes (swapping x) 0 cmd0 x.desc 1 false = .ok (List.replicate 64 0) ∧ cmd0.queue = []
       ∧ (∀ p, cmd0.pairs[x.pair]? = some p → (1 : Int) ≠ slabCur x p + 1) ∧ (cmd0.pairs[x.pair]?).isSome = true) := by
  refine ⟨rfl, rfl, rfl, rfl, by decide, by decide, by decide, by decide, by decide, by decide, .tail _ (.head _), .inr (by decide), rfl, by decide,
    ⟨(Target.port 0, 0), by decide, (Target.port 0, 0), by decide, by decide⟩, by decide, rfl, by decide, by decide, by decide, by decide, by decide,
    by decide +kernel, of_okIs (by decide +kernel),
    by decide, rfl, rfl, of_isOk (by decide +kernel), by decide, by decide, rfl, of_okIs (by decide +kernel), rfl, fun p h => ?_, rfl⟩
  obtain rfl : _ = p := Option.some.inj h
  decide

theorem good_idle : idle.Good := by
  refine ⟨⟨by decide, by decide⟩, ⟨by decide, by decide⟩, units_idle, fun x hx => ?_⟩
  rw [(List.mem_replicate.1 hx).2]
  exact wf_reset

/-- The same with a command on tile 0: a move of its partition waits; and with one that waits. -/
def working : State := { idle with tiles := small.tiles }
def move0 : Move := { part := 0, cluster := 0, base := 0, k := 16, dest := 0x100000, coded := false, marked := [] }
def moving : State := { working with moves := [move0] }

theorem good_working : working.Good := by
  refine ⟨⟨by decide, by decide⟩, ⟨by decide, by decide⟩, ⟨rfl, rfl, rfl, rfl, rfl, rfl, rfl, rfl⟩, fun x hx => ?_⟩
  rcases List.mem_cons.1 hx with rfl | hx
  · exact wf_reset
  · rw [(List.mem_replicate.1 hx).2]
    exact wf_reset

/-- Nothing of these states is bad or redirected. -/
theorem range_clean {s : State} (hb : s.badWords = []) (hp : (getGey s 0).place = []) (base n : Nat) : rangeFault s 0 0 base n = none := by
  refine List.findSome?_eq_none_iff.2 (fun a _ => ?_)
  simp [byteFault, placeFind, hp, isBad, hb]

theorem range_idle (base n : Nat) : ∃ bs, rangeBytes idle 0 0 base n = some bs := by
  simp [rangeBytes, range_clean (s := idle) rfl rfl]

theorem move_clean {s : State} {m : Move} {us : List Nat} (hb : s.badWords = []) (hp : (getGey s 0).place = []) (hm : m.part = 0 ∧ m.cluster = 0)
    (hh : (isHost m.dest || us.any (fun u => isHost (placedAt s m.cluster (m.base + 4096 * u)))) = false) : moveFault s m us none = none := by
  unfold moveFault
  simp only [hh, Bool.false_and, Bool.false_eq_true, if_false]
  refine List.findSome?_eq_none_iff.2 (fun u _ => ?_)
  rw [hm.1, hm.2]
  exact range_clean hb hp _ _

/-- The map of engine 0 is full of other ranges. -/
def crowded : State :=
  setGey idle 0 (fun g => { g with place := (List.range 1024).map (fun i =>
    { base := 0x40000000 + 0x10000 * i, k := 16, dest := 0x80000000 + 0x10000 * i, coded := false }) })

theorem witness_PlacementAndSpillMoves : idle.Good ∧ partOfSlice idle 0 = some 0 ∧ redirected idle 0 0 16 0x100000 false = (0, 16)
    ∧ waitingMove idle 0 0 0 16 0x100000 false = none ∧ canMove idle 0 0 16 0x100000 false = true
    ∧ moveFault idle move0 (List.range (2 ^ 16 / 4096)) none = none ∧ tagFree idle 1 = true ∧ partIdle idle 0 = true ∧ (∀ m ∈ idle.moves, m.part ≠ 0)
    ∧ (∃ bs, rangeBytes idle 0 0 0 (2 ^ 16) = some bs) :=
  ⟨good_idle, by decide +kernel, by decide +kernel, rfl, by decide +kernel, move_clean rfl rfl ⟨rfl, rfl⟩ (by decide +kernel), by decide, by decide, nofun, range_idle _ _⟩

/-- Ranges that may not move, a range that goes down a level, a place in another slice, the full map. -/
theorem witness_PlacementAndSpillMoves_ranges : canMove idle 0 0 15 0x100000 false = false ∧ idle.errors = []
    ∧ decide (levelOf (placedAt idle 0 (calAddr 0 0)) < levelOf 0x100000) = true ∧ redirected idle 0 (calAddr 0 0) 16 0x100000 true = (calAddr 0 0, 16)
    ∧ waitingMove idle 0 0 (calAddr 0 0) 16 0x100000 true = none ∧ canMove idle 0 (calAddr 0 0) 16 0x100000 true = true
    ∧ sliceHolds 0 (placedAt idle 0 (calAddr 0 0)) = true ∧ canMove idle 0 (calAddr 0 0) 16 (12 * hbmBytes) true = false ∧ sliceHolds 0 (calAddr 8 0) = false
    ∧ mapRoom idle 0 0 16 0x100000 false = true ∧ 0 % 2 ^ 16 = 0 :=
  ⟨by decide +kernel, rfl, by decide, by decide +kernel, rfl, by decide +kernel, by decide, by decide +kernel, by decide, by decide +kernel, by decide⟩

theorem witness_PlacementAndSpillMoves_full : mapRoom crowded 0 0 16 0x100000 false = false := by decide +kernel

/-- A move waits while the partition runs a command; then it waits for a boundary; an error at an offset. -/
theorem witness_PlacementAndSpillMoves_waits : working.Good ∧ partOfSlice working 0 = some 0 ∧ redirected working 0 0 16 0x100000 false = (0, 16)
    ∧ waitingMove working 0 0 0 16 0x100000 false = none ∧ canMove working 0 0 16 0x100000 false = true
    ∧ moveFault working move0 (List.range (2 ^ 16 / 4096)) none = none ∧ tagFree working 1 = true ∧ partIdle working 0 = false
    ∧ moving.Good ∧ waitingMove moving 0 0 0 16 0x100000 false = some move0
    ∧ moveFault working move0 (List.range (2 ^ 16 / 4096)) (some 0) = some (0, 0) :=
  ⟨good_working, by decide +kernel, by decide +kernel, rfl, by decide +kernel, move_clean rfl rfl ⟨rfl, rfl⟩ (by decide +kernel), by decide, by decide,
    ⟨good_working.1, good_working.2.1, ⟨rfl, rfl, rfl, rfl, rfl, rfl, rfl, rfl⟩, good_working.2.2.2⟩, by decide, by decide⟩

/-! ## Serial audio ports -/

/-- A slave's block: receive, 2 slots of 16 bits, 64 clocks a frame, one channel of stream 5; a block that names no direction; one that also
transmits. -/
def pcfg (dir : Byte) : List Byte :=
  [dir, 0, 2, 1, 0, 0, 0, 0] ++ leBytes 2 64 ++ leBytes 2 0 ++ leBytes 4 3072000 ++ leBytes 2 64 ++ leBytes 2 4 ++ leBytes 2 2 ++ leBytes 2 2
    ++ leBytes 4 1 ++ leBytes 4 0 ++ List.replicate 32 0 ++ leBytes 2 5 ++ List.replicate 62 0
def port (st : PortState) : Port := { Port.reset with cfg := pcfg 1, state := st, edge := some 100, left := 2 }
/-- Port commands of the function of partition 0 outstanding. -/
def porting : State :=
  asks served 1 [.portConfig (hd 1 0) 0 0x800000000000, .portStart (hd 1 0) 0, .portStop (hd 1 0) 0, .portGroup (hd 1 0) 3 0, .portGroup (hd 1 0) 3 1,
    .portGroup (hd 1 0) 1 2]
def withPort (s : State) (q : Port) : State := { s with ports := q :: port .configured :: List.replicate 6 Port.reset }
def blockAt (dir : Byte) : State := { porting with host := (asWrites 0x100000000 (pcfg dir)).filter (fun e => e.2 ≠ 0) }

theorem witness_PortCommands : (blockAt 1).Units ∧ Taken (.portConfig (hd 1 0) 0 0x800000000000) (hd 1 0) (blockAt 1)
    ∧ Taken (.portConfig (hd 1 0) 0 0x800000000000) (hd 1 0) (blockAt 0) ∧ holdsPort (blockAt 1) (hd 1 0) 0 = true
    ∧ BufReads (blockAt 1) (hd 1 0) (some 0) 0x800000000000 128 (pcfg 1)
    ∧ BufReads (blockAt 0) (hd 1 0) (some 0) 0x800000000000 128 (pcfg 0)
    ∧ (cfgTableOk (pcfg 0) && cfgBindOk (blockAt 0) 0 0 (pcfg 0)) = false ∧ (cfgTableOk (pcfg 1) && cfgBindOk (blockAt 1) 0 0 (pcfg 1)) = true
    ∧ (getPort (blockAt 1) 0).state = .off ∧ (getPort (blockAt 1) 0).group = 0 ∧ cfgMaster (pcfg 1) = false
    ∧ (∀ st ∈ [PortState.off, .configured, .locking, .leadin, .run, .hold, .tail, .fault],
        Taken (.portStart (hd 1 0) 0) (hd 1 0) (withPort porting (port st)) ∧ Taken (.portStop (hd 1 0) 0) (hd 1 0) (withPort porting (port st))
        ∧ holdsPort (withPort porting (port st)) (hd 1 0) 0 = true ∧ (getPort (withPort porting (port st)) 0).state = st)
    ∧ Taken (.portGroup (hd 1 0) 3 0) (hd 1 0) (withPort porting (port .configured)) ∧ Taken (.portGroup (hd 1 0) 1 2) (hd 1 0) porting
    ∧ (∀ m ∈ (List.range 8).filter (bitAt 3), holdsPort (withPort porting (port .configured)) (hd 1 0) m = true
        ∧ cfgAgree (pcfg 1) (getPort (withPort porting (port .configured)) m).cfg = true
        ∧ (getPort (withPort porting (port .configured)) m).state = .configured ∧ (getPort (withPort porting (port .configured)) m).group = 0)
    ∧ (let s := { porting with ports := List.replicate 2 { port .configured with group := 3, leader := 0 } ++ List.replicate 6 Port.reset }
       Taken (.portGroup (hd 1 0) 3 1) (hd 1 0) s ∧ ∀ m ∈ (List.range 8).filter (bitAt 3), (getPort s m).group = 3 ∧ (getPort s m).state = .configured) := by
  refine ⟨⟨rfl, rfl, rfl, rfl, rfl, rfl, rfl, rfl⟩, taken_of {} rfl (by decide), taken_of {} rfl (by decide), by decide, ⟨1, by decide, by decide, by decide, by decide +kernel⟩,
    ⟨1, by decide, by decide, by decide, by decide +kernel⟩, by decide +kernel, by decide +kernel, by decide, by decide, by decide, fun st _ => ?_, taken_of {} rfl (by decide),
    taken_of {} rfl (by decide), by decide +kernel, ⟨taken_of {} rfl (by decide), by decide +kernel⟩⟩
  exact ⟨taken_of { tmo := true } rfl (by cases st <;> decide), taken_of {} rfl (by cases st <;> decide), by cases st <;> decide, rfl⟩

def run0 : GapRun := { first := 0, n := 1, tg := 100, dur := 0 }
def masterPort : Port := { port .run with cfg := pcfg 1 |>.set 1 1 }

theorem witness_PortFrames : (withPort served (port .run)).Units ∧ cfgFlen (pcfg 1) = 64
    ∧ (∃ b, b ≠ cfgFspol (pcfg 1)) ∧ clocksRun (withPort served (port .run)) (port .run) = true ∧ cfgMaster (pcfg 1) = false
    ∧ (∀ st ∈ [PortState.off, .configured, .locking, .leadin, .run, .hold, .tail, .fault],
        let q := getPort (withPort served (port st)) 0
        q.state = st ∧ q.edge.isSome = true ∧ 2 ≤ q.left ∧ q.group = 0 ∧ q.stopAt = none ∧ q.slip = none ∧ q.win.length < 64 ∧ q.raw = [] ∧ q.rxGroup = none)
    ∧ ({ port .leadin with left := 1 } : Port).left ≤ 1 ∧ cfgTxen (pcfg 3) = true ∧ cfgRxen (pcfg 1) = true ∧ cfgTxen (pcfg 1) = false
    ∧ (port .run).frames.length + 1 < cfgChunkif (pcfg 1) * cfgIfr (pcfg 1)
    ∧ (65 ≠ 64 ∧ 65 ≤ 2 * 64 ∧ (port .run).frames.length + max 1 ((2 * 65 + 64) / (2 * 64)) < cfgChunkif (pcfg 1) * cfgIfr (pcfg 1))
    ∧ 2 * 64 < 129 ∧ ({ port .hold with hold := some run0 } : Port).hold = some run0
    ∧ (cfgMaster masterPort.cfg = true ∧ clocksRun (withPort served masterPort) masterPort = false)
    ∧ 4 * 1000000000 ≤ (1500 - 100) * cfgBclk (pcfg 1) ∧ ¬ 4 * 1000000000 ≤ (1400 - 100) * cfgBclk (pcfg 1)
    ∧ (port .run).txKind = 0 ∧ ({ port .run with txKind := 1 } : Port).txKind ≠ 0 := by
  refine ⟨⟨rfl, rfl, rfl, rfl, rfl, rfl, rfl, rfl⟩, by decide, ⟨!cfgFspol (pcfg 1), by decide⟩, by decide, by decide,
    fun st _ => ⟨rfl, rfl, Nat.le_refl 2, rfl, rfl, rfl, Nat.zero_lt_succ 63, rfl, rfl⟩, by decide, by decide,
    by decide, by decide, by decide, by decide, by decide, rfl, by decide +kernel, by decide, by decide, rfl, by decide⟩

/-! ## Firmware, the management port, power -/

/-- An image of 36,864 bytes with one empty component of type 1, whose digest is D. -/
def fwHead : List Byte := leBytes 4 0x46574E42 ++ leBytes 4 7 ++ [5, 1] ++ List.replicate 6 0 ++ [1, 0, 0, 0] ++ leBytes 4 4096 ++ leBytes 4 0 ++ leBytes 4 0
def fwImg (d rest : List Byte) : List Byte := fwHead ++ (d ++ rest)

/-- The image keeps the format where SHAKE256 answers the number of bytes asked for. -/
theorem parse_fw (d rest : List Byte) (h : d.length = 64) (hr : rest.length = 36768) (hd : Config.shake256 [] 64 = d) :
    parseFwImage (fwImg d rest) = some [{ typ := 1, off := 4096, len := 0, digest := d }] := by
  have hl : fwHead.length = 32 := rfl
  have h0 (o n : Nat) (hn : o + n ≤ 32) : leAt (fwImg d rest) o n = leAt fwHead o n := by
    unfold leAt fwImg
    rw [List.drop_append_of_le_length (by omega), List.take_append_of_le_length (by simp [hl]; omega)]
  have hz : zeroAt (fwImg d rest) 10 6 = zeroAt fwHead 10 6 := by
    unfold zeroAt fwImg
    rw [List.drop_append_of_le_length (by omega), List.take_append_of_le_length (by simp [hl])]
  have he : ((fwImg d rest).drop 16).take 80 = fwHead.drop 16 ++ d := by
    unfold fwImg
    rw [List.drop_append_of_le_length (by omega), List.take_append, List.take_of_length_le (by simp [hl])]
    simp [hl, h]
  have hc : parseComp (fwImg d rest) 0 = some { typ := 1, off := 4096, len := 0, digest := d } := by
    have e (o n : Nat) (hn : o + n ≤ 16) : leAt (fwHead.drop 16 ++ d) o n = leAt (fwHead.drop 16) o n := by
      unfold leAt
      rw [List.drop_append_of_le_length (by simp [hl]; omega), List.take_append_of_le_length (by simp [hl]; omega)]
    have z (o n : Nat) (hn : o + n ≤ 16) : zeroAt (fwHead.drop 16 ++ d) o n = zeroAt (fwHead.drop 16) o n := by
      unfold zeroAt
      rw [List.drop_append_of_le_length (by simp [hl]; omega), List.take_append_of_le_length (by simp [hl]; omega)]
    have hdg : ((fwHead.drop 16 ++ d).drop 16).take 64 = d := by
      rw [List.drop_append_of_le_length (by simp [hl]), List.drop_of_length_le (by simp [hl]), List.nil_append, List.take_of_length_le (by omega)]
    simp only [parseComp, Nat.mul_zero, Nat.add_zero, he, hdg, e _ _ (by decide : 0 + 1 ≤ 16), e _ _ (by decide : 4 + 4 ≤ 16),
      e _ _ (by decide : 8 + 4 ≤ 16), z _ _ (by decide : 1 + 3 ≤ 16), z _ _ (by decide : 12 + 4 ≤ 16)]
    rfl
  have hlen : (fwImg d rest).length = 36864 := by simp only [fwImg, List.length_append, hl, h, hr]
  have hm : (List.range 1).mapM (parseComp (fwImg d rest)) = some [{ typ := 1, off := 4096, len := 0, digest := d }] := by
    simp [List.range_succ, hc]
  have hn : leAt fwHead 9 1 = 1 := rfl
  simp only [parseFwImage, h0 _ _ (by decide : 0 + 4 ≤ 32), h0 _ _ (by decide : 4 + 4 ≤ 32), h0 _ _ (by decide : 8 + 1 ≤ 32),
    h0 _ _ (by decide : 9 + 1 ≤ 32), hz, hn, hm]
  have hok : compOk (fwImg d rest) { typ := 1, off := 4096, len := 0, digest := d } = true := by
    simp [compOk, hlen, hd, inRange]
  rw [if_neg (by decide)]
  simp [hok, hlen, compsApart, dedup, compsEnd, fwSigLen]

/-- The physical function stages an image from its host region, or asks for a certificate or a quote. -/
def asking0 : List Instr :=
  [.fwStage (hd 0 0) 0x800000000000 4096, .fwStage (hd 0 0) 0x800000000000 36864, .idCert (hd 0 0) 0 0x800000000000 4096,
    .idCert (hd 0 0) 3 0x800000000000 4096, .attestQuote (hd 0 0xF0) [] 0x800000000000, .attestQuote (hd 0 0xF0) [] 0]
def fwAt (bs : List Byte) : State :=
  hostWrite { small with funcs := { Func.reset with bme := true, outstanding := asked asking0 } :: List.replicate 12 Func.reset } 0 bs

theorem read_fw (n : Nat) (bs : List Byte) (hn : bs.length = n) (hb : bufFn (fwAt bs) (hd 0 0) none 0x800000000000 n = some 0)
    (hr : regionAt (funcRegions (fwAt bs) 0) 0x800000000000 n = some storeRegion) :
    BufReads (fwAt bs) (hd 0 0) none 0x800000000000 n bs := by
  have hs : hostRead (fwAt bs) 0 n = bs := hn ▸ hostRead_hostWrite_self (Memory.wf_reset.2) 0 bs
  have hd0 : dpaRead (fwAt bs) (funcRegions (fwAt bs) 0) 0x800000000000 n = hostRead (fwAt bs) 0 n := by
    unfold dpaRead
    rw [show placeOf 0x800000000000 = .host from by decide]
    simp only [hr]
    rfl
  exact ⟨0, hb, rfl, rfl, (hd0.trans hs).symm⟩

/-- Firmware: bank A runs and is active, bank B holds an image of counter `rbc`; the floor is 5. -/
def fwState (ver : Bool) (rbc : Nat) (op : Option FwOp) : State :=
  asks { small with fw := { FwSt.reset with
           floor := 5, op := op, verifiedBoot := true, booted := true, fromReset := false
           bankA := { image := [], verified := true, version := 1, rbc := 5, comps := [1, 2, 3], digests := [] }
           bankB := { image := [], verified := ver, version := 2, rbc := rbc, comps := [1, 2, 3], digests := [] } } } 0
    [.fwActivate (hd 0 0) true, .fwRollback (hd 0 0) false, .powerCap (hd 0 0) 600, .powerCap (hd 0 0) 599]
def op0 (todo : List Nat) : FwOp := { fn := some 0, tag := 7, rollback := false, todo := todo, done := [] }
def updating (todo : List Nat) : State :=
  { fwState true 5 (some (op0 todo)) with 
    mgt := { Mgt.reset with state := .updating }, tiles := List.replicate 96 Tile.reset
    geys := small.geys.map (fun g => { g with setVer := 1 }) }

theorem witness_FirmwareCommands : Taken (.fwStage (hd 0 0) 0x800000000000 4096) (hd 0 0) (fwAt (List.replicate 4096 0))
    ∧ BufReads (fwAt (List.replicate 4096 0)) (hd 0 0) none 0x800000000000 4096 (List.replicate 4096 0)
    ∧ parseFwImage (List.replicate 4096 0) = none
    ∧ (∀ d rest, d.length = 64 → rest.length = 36768 →
        BufReads (fwAt (fwImg d rest)) (hd 0 0) none 0x800000000000 36864 (fwImg d rest)
        ∧ Taken (.fwStage (hd 0 0) 0x800000000000 36864) (hd 0 0) (fwAt (fwImg d rest)) ∧ (fwAt (fwImg d rest)).fw.op = none)
    ∧ (∀ c ∈ [Instr.fwActivate (hd 0 0) true, .fwRollback (hd 0 0) false], Taken c (hd 0 0) (fwState true 5 none) ∧ Taken c (hd 0 0) (fwState true 4 none)
        ∧ Taken c (hd 0 0) (fwState false 5 none) ∧ Taken c (hd 0 0) (fwState true 5 (some (op0 []))))
    ∧ (fwState true 5 none).fw.floor ≤ (bankOf (fwState true 5 none).fw true).rbc ∧ (bankOf (fwState true 4 none).fw true).rbc < 5
    ∧ (∀ l ∈ [[1, 2], [2, 3], [3], [5]], (updating l).fw.op = some (op0 l) ∧ (updating l).mgt.state = .updating)
    ∧ (∃ g ∈ (switchGeysers (updating [3]) 2).geys, g.setVer ≠ 2) ∧ (bankOf (updating [3]).fw true).version = 2
    ∧ (∀ e ∈ (updating [3]).tasks, e.2.cluster = 1 → e.2.state ≠ .executing) ∧ 1 < (updating [3]).geys.length
    ∧ (∀ g ∈ (switchGeysers { updating [3] with tasks := [] } 2).geys, g.setVer = 2)
    ∧ ((updating [3]).fw.ctrlB.seq ≤ (updating [3]).fw.ctrlA.seq)
    ∧ (op0 [2, 3]).todo.head? = some 2 ∧ (op0 [2, 3]).todo.drop 1 ≠ [] ∧ (op0 [3]).todo.drop 1 = []
    ∧ (∀ y ∈ (updating [2, 3]).tiles, ∀ c, y.cmd = some c → Machine.committing c = false) := by
  refine ⟨taken_of { part := false, pf := true } rfl rfl, read_fw _ _ (List.length_replicate ..) (by decide) (by decide), by decide +kernel,
    fun d rest h hr => ⟨read_fw _ _ (by simp only [fwImg, List.length_append, h, hr]; rfl) rfl rfl, taken_of { part := false, pf := true } rfl rfl, rfl⟩, ?_,
    by decide, by decide, fun l _ => ⟨rfl, rfl⟩, by decide +kernel, rfl, by decide, by decide, by decide +kernel, by decide,
    rfl, by decide, rfl, fun y hy c hc => ?_⟩
  · intro c hc
    simp only [List.mem_cons, List.not_mem_nil, or_false] at hc
    obtain rfl | rfl := hc <;>
      exact ⟨taken_of { part := false, pf := true } rfl rfl, taken_of { part := false, pf := true } rfl rfl,
        taken_of { part := false, pf := true } rfl rfl, taken_of { part := false, pf := true } rfl rfl⟩
  · rw [(List.mem_replicate.1 hy).2] at hc
    exact absurd hc (by simp [Tile.reset])

def booting (f : FwSt → FwSt) : State :=
  { fwState true 5 none with
    mgt := { Mgt.reset with state := .boot }, clk := { ClkSt.reset with mgtLock := true }
    fw := f { (fwState true 5 none).fw with verifiedBoot := false } }
def noBank (b : FwBank) : FwBank := { b with verified := false }

theorem witness_BootingTyrax : (booting id).mgt.state = .boot ∧ running (booting id) = true ∧ (booting id).clk.mgtLock = true
    ∧ (booting id).fw.verifiedBoot = false ∧ (bankOf (booting id).fw (bootBank (booting id).fw)).verified = true
    ∧ (let f := (booting (fun f => { f with tryBank := some true, fromReset := true, bankB := noBank f.bankB })).fw
       bootBank f = true ∧ (bankOf f (bootBank f)).verified = false ∧ f.op = none ∧ f.tryBank.isSome = true ∧ f.fromReset = true)
    ∧ (let f := (booting (fun f => { f with tryBank := some true, bankA := noBank f.bankA })).fw
       bootBank f = false ∧ (bankOf f (bootBank f)).verified = false ∧ f.fromReset = false ∧ (bankOf f (!bootBank f)).verified = true)
    ∧ (let f := (booting (fun f => { f with bankA := noBank f.bankA, bankB := noBank f.bankB })).fw
       (bankOf f (bootBank f)).verified = false ∧ (bankOf f (!bootBank f)).verified = false)
    ∧ (booting id).mgt.wrapKey = none ∧ ({ Mgt.reset with wrapKey := some 1 } : Mgt).wrapKey.isSome = true
    ∧ (booting (fun f => { f with onTrial := true, tries := 2 })).fw.onTrial = true ∧ tyraxUp small = true
    ∧ (booting (fun f => { f with verifiedBoot := true })).fw.verifiedBoot = true ∧ (booting id).fw.op = none := by decide

theorem witness_ManagementPort : portUp (booting id) = false ∧ portUp small = true ∧ small.mgt.unread = []
    ∧ ({ small with mgt := { small.mgt with unread := [[1, 2]] } } : State).mgt.unread = [1, 2] :: [] ∧ small.fw.deferred = false
    ∧ (let s : State := { small with mgt := { small.mgt with spdmOk := true, spdmKem := true } }
       portUp s = true ∧ (true && s.mgt.spdmOk && s.mgt.spdmKem) = true ∧ 2 < 3)
    ∧ ¬ ((true && small.mgt.spdmOk && small.mgt.spdmKem) = true ∧ 2 < 3)
    ∧ capOf 599 = none ∧ capOf 600 = some 600 ∧ capOf 1800 = some 1800 ∧ capOf 1801 = none ∧ capOf 0 = some 1800
    ∧ portUp (fwState true 5 none) = true ∧ tyraxUp (fwState true 5 none) = true ∧ (fwState true 5 none).fw.op = none
    ∧ (bankOf (fwState false 5 none).fw true).verified = false
    ∧ (bankOf (fwState true 5 none).fw true).verified = true ∧ (fwState true 5 none).fw.floor ≤ (bankOf (fwState true 5 none).fw true).rbc
    ∧ small.pwr.draining = false ∧ running small = true := by decide

theorem witness_IdentityQuotesAndCap : Taken (.idCert (hd 0 0) 0 0x800000000000 4096) (hd 0 0) (fwAt [])
    ∧ Taken (.idCert (hd 0 0) 3 0x800000000000 4096) (hd 0 0) (fwAt [])
    ∧ (outFn (fwAt []) (hd 0 0) (some 0) 0x800000000000 (4096 : W32).toNat).isSome = true
    ∧ (outFn (fwAt []) (hd 0 0) (some 0) 0 (4096 : W32).toNat).isSome = false
    ∧ (certChain (fwAt []))[3]? = none ∧ (∃ c, (certChain (fwAt []))[0]? = some c)
    ∧ (∀ n, n ≤ 65536 → bufOpen (fwAt []) (hd 0 0) (some 0) 0x800000000000 n = true)
    ∧ Taken (.attestQuote (hd 0 0xF0) [] 0x800000000000) (hd 0 0xF0) (fwAt []) ∧ Taken (.attestQuote (hd 0 0xF0) [] 0) (hd 0 0xF0) (fwAt [])
    ∧ (outFn (fwAt []) (hd 0 0xF0) none 0 65536).isSome = false ∧ (outFn (fwAt []) (hd 0 0xF0) none 0x800000000000 65536).isSome = true
    ∧ quoteAhead (fwAt []) (.attestQuote (hd 0 0xF0) [] 0x800000000000) (hd 0 0xF0) = false
    ∧ bufOpen (fwAt []) (hd 0 0xF0) none 0x800000000000 65536 = true
    ∧ Taken (.powerCap (hd 0 0) 600) (hd 0 0) (fwState true 5 none) ∧ Taken (.powerCap (hd 0 0) 599) (hd 0 0) (fwState true 5 none)
    ∧ capOf (599 : BitVec 16).toNat = none ∧ capOf (600 : BitVec 16).toNat = some 600 := by
  refine ⟨taken_of {} rfl rfl, taken_of {} rfl rfl, by decide, by decide, rfl, ⟨_, rfl⟩, fun n hn => ?_, taken_of { dev := true } rfl rfl,
    taken_of { dev := true } rfl rfl, by decide, by decide, by decide, by decide,
    taken_of { part := false, pf := true } rfl rfl, taken_of { part := false, pf := true } rfl rfl, by decide, by decide⟩
  have hr : regionAt (funcRegions (fwAt []) 0) 0x800000000000 n = some storeRegion := by
    have hf : funcRegions (fwAt []) 0 = [storeRegion] := by decide
    rw [hf]
    have hi : inside 0x800000000000 n storeRegion.dpa storeRegion.len = true := by
      unfold inside
      rw [Bool.and_eq_true, decide_eq_true_eq, decide_eq_true_eq]
      exact ⟨Nat.le_refl _, Nat.add_le_add_left (Nat.le_trans hn (by decide)) _⟩
    simp [regionAt, hi]
  have hb : bufFn (fwAt []) (hd 0 0) (some 0) 0x800000000000 n = some 0 := by
    unfold bufFn
    rw [show (hd 0 0).fn = 0 from rfl, hr]
    rfl
  have ho : outFn (fwAt []) (hd 0 0) (some 0) 0x800000000000 n = some 0 ∨ outFn (fwAt []) (hd 0 0) (some 0) 0x800000000000 n = none := by
    unfold outFn
    rw [hb]
    cases mayWrite (funcRegions (fwAt []) 0) 0x800000000000 n <;> simp [Option.filter]
  unfold bufOpen
  obtain h | h := ho <;> rw [h]
  decide


/-! ## Power, clocks, sensors, bring-up, scrubbing -/

def withPwr (f : PwrSt → PwrSt) : State := { small with pwr := f small.pwr }
def withClk (f : ClkSt → ClkSt) : State := { small with clk := f small.clk }

theorem witness_SupplyAndResets : running small = true ∧ small.pwr.powered = true ∧ small.pwr.draining = false
    ∧ (withPwr (fun p => { p with powered := false })).pwr.powered = false ∧ (withPwr (fun p => { p with draining := true })).pwr.draining = true
    ∧ (let s := withPwr (fun p => { p with below := 3 }); running s = true ∧ 3 ≤ s.pwr.below)
    ∧ (withPwr (fun p => { p with supply := 4 })).pwr.supply = 4 ∧ portUp small = true ∧ portUp (withPwr (fun p => { p with draining := true })) = true
    ∧ portUp { small with mgt := Mgt.reset } = false ∧ ({ small with mgt := Mgt.reset } : State).pwr.powered = true
    ∧ (let s : State := { small with sensors := [{ sensor := .inputVoltage, value := 4800, lo := 4800, hi := 4800, failed := false, missed := 0, valid := 0, high := 0 }] }
       (∃ e, sensorOf s .inputVoltage = some e ∧ e.failed = false) ∧ portUp s = true)
    ∧ small.fw.ctrlB.seq ≤ small.fw.ctrlA.seq := by
  refine ⟨by decide, by decide, by decide, by decide, by decide, by decide, by decide, by decide, by decide, by decide, by decide, ⟨⟨_, rfl, rfl⟩, by decide⟩, by decide⟩

/-- In BOOT with no crystal count yet. -/
def cold : State := { small with mgt := Mgt.reset }
/-- The crystal is good, CORE_A of die 0 has been locked again at time 0 and its die still serves reduced; one second and more has gone. -/
def relocked (acc : Nat) : State :=
  { withClk (fun c => { c with xtalOk := true, counted := true, die0 := [true, false, false], relock := [(0, 0)] }) with
    time := { small.time with acc := acc }, dies := [{ Die.reset with coreLost := true }, Die.reset] }

theorem witness_ClocksAndLocks : running cold = true ∧ cold.clk.counted = false ∧ cold.mgt.state = .boot ∧ (relocked 0).clk.counted = true
    ∧ (relocked 0).clk.xtalOk = true ∧ cold.clk.xtalOk = false ∧ 3 ≤ (relocked 0).clk.die0.length ∧ 3 ≤ (relocked 0).clk.die1.length
    ∧ 12 ≤ (relocked 0).clk.hbm.length ∧ running (relocked 0) = true ∧ isLocked (relocked 0).clk (.coreA 0) = true
    ∧ isLocked (relocked 0).clk (.coreA 1) = false ∧ (∀ t ∈ [0, 2 ^ 40 * 1000000000],
      0 < (relocked t).dies.length ∧ (getDie (relocked t) 0).coreLost = true ∧ tGet (relocked t).clk.relock 0 = some 0)
    ∧ ¬ 0 + 1000000000 ≤ now (relocked 0) ∧ 0 + 1000000000 ≤ now (relocked (2 ^ 40 * 1000000000)) := by decide

def withSens (l : List SensorSt) : State := { small with sensors := l }
def junc (v : Int) (high missed : Nat) : SensorSt := { sensor := .junction 0 0, value := v, failed := false, missed := missed, valid := 0, high := high, lo := v, hi := v }

theorem witness_SensorsAndThrottling : portUp small = true ∧ portUp cold = false
    ∧ Instr.Rated (.sensorSample (.junction 0 0) (some 420)) ∧ sensorOf (withSens [junc 420 1 3]) (.junction 0 0) = some (junc 420 1 3)
    ∧ sensorOf small (.junction 0 0) = none ∧ (sensorRange (.junction 0 0)).1 ≤ 420 ∧ 420 ≤ (sensorRange (.junction 0 0)).2
    ∧ (-161 : Int) < (sensorRange (.junction 0 0)).1 ∧ Instr.Rated (.sensorSample (.junction 0 0) (some (-161))) ∧ 1 ≤ (junc 420 1 3).high
    ∧ (∃ v ∈ junctions (withSens [junc 400 0 0]) 0, 400 ≤ v)
    ∧ (getDie (withSens [junc 400 0 0]) 0).therm < 7 ∧ 7 ≤ (getDie { withSens [junc 400 0 0] with dies := [{ Die.reset with therm := 7 }, Die.reset] } 0).therm
    ∧ (∀ v ∈ [(388 : Int), 389], ¬ ((∃ w ∈ junctions (withSens [junc v 0 0]) 0, 400 ≤ w) ∨ ∃ w ∈ stacksOf (withSens [junc v 0 0]) 0, 95 ≤ w))
    ∧ (∀ v ∈ junctions (withSens [junc 388 0 0]) 0, v ≤ 388) ∧ (∃ v ∈ junctions (withSens [junc 389 0 0]) 0, 388 < v)
    ∧ tyraxUp small = true ∧ tyraxUp cold = false ∧ small.dies.length = 2 ∧ inputPower small small.pwr.samples ≤ 1800
    ∧ (let s := withPwr (fun p => { p with samples := [(48000, 40000)] })
       1800 < inputPower s s.pwr.samples ∧ s.pwr.samples.take 1000 ≠ [] ∧ tyraxUp s = true)
    ∧ (let s : State := { small with fw := { small.fw with op := some { fn := none, tag := 0, rollback := false, todo := [5], done := [] } } }
       s.fw.op.any (fun o => o.todo.head? = some 5) = true ∧ tyraxUp s = true)
    ∧ Sensor.junction 0 0 ∉ [Sensor.inputVoltage, .inputCurrent, .inputPower] := by
  exact ⟨by decide, by decide, .inl (by decide), by decide, rfl, by decide, by decide, by decide, .inl (by decide), by decide, by decide, by decide,
    by decide, by decide, by decide, by decide, by decide, by decide, by decide, by decide, by decide, by decide, by decide⟩

def slice1 (f : Slice → Slice) : State := { small with slices := small.slices.set 1 (f Slice.reset) }
def gey1 (f : Gey → Gey) : State := { small with geys := small.geys.set 1 (f Gey.reset) }

theorem witness_PowerStatesAndBringUp : small.Units ∧ (getTile small 0).power = .run ∧ tileState small 0 ≠ 0 ∧ tileState small 1 = 0
    ∧ (getTile small 1).power = .run ∧ tyraxUp small = true ∧ (getSlice small 1).deep = false ∧ (getGey small 1).phase2 = false
    ∧ (∀ i, i < 8 → (getTile small (8 * 1 + i)).cmd = none) ∧ (getSlice small 1).online = false
    ∧ (getTile small 8).phase1 = false ∧ (getTile small 8).failed = false
    ∧ (getSlice (slice1 (fun x => { x with trained := true })) (8 / 8)).trained = true ∧ (getGey (gey1 (fun g => { g with phase2 := true })) 1).phase2 = true
    ∧ (getGey (gey1 (fun g => { g with held := true })) 1).held = true ∧ stackBusy (gey1 (fun g => { g with held := true })) 1 = false
    ∧ (let s := setGey (swapping { xfer0 with issued := 1 }) 0 (fun g => { g with held := true })
       (getGey s 0).held = true ∧ stackBusy s 0 = true)
    ∧ mayRetrain (slice1 (fun x => { x with trained := true, corrected := List.replicate 257 0 })) 1 = true ∧ mayRetrain small 1 = false
    ∧ (getGey small 1).held = false ∧ (getSlice small 1).trained = false ∧ (getSlice small 1).bad = false := by
  refine ⟨⟨rfl, rfl, rfl, rfl, rfl, rfl, rfl, rfl⟩, ?_⟩
  decide +kernel

def withCorr (c : CorrSt) : State := { small with corr := [c] }
def corr0 (n : Nat) (p : Option Nat) : CorrSt := { utype := 3, unit := 0, count := n, addr := 0, syndrome := 1, lastPost := p }

theorem tables_none (s : State) (a : Nat) (h : s.jobs = []) : tablesAt s a = none := by
  unfold tablesAt
  rw [h]
  rfl

theorem witness_ScrubbingAndCorrectedErrors : small.Units ∧ (getTile small 0).power ≠ .deep ∧ (getTile small 0).scrubPos < 65536
    ∧ scrubs (getTile small 0) = true ∧ scrubs { getTile small 0 with runEn := 0 } = false ∧ small.errors = []
    ∧ (∀ a, tablesAt { small with jobs := [] } a = none) ∧ 0 < hbmBytes / 64 ∧ (getSlice small 0).trained = true ∧ (getSlice small 0).bad = false
    ∧ tablesAt (kvState kv0 stream0) (0 * hbmBytes + 64 * 0x1004000) = some 0 ∧ 0x1004000 < hbmBytes / 64 ∧ (getPart (kvState kv0 stream0) 0).state ≠ .none
    ∧ (getSlice (kvState kv0 stream0) 0).trained = true ∧ (kvState kv0 stream0).Units
    ∧ (getPart small 0).state ≠ .none ∧ tyraxUp small = true
    ∧ (∀ c ∈ [corr0 0 none, corr0 1 none, corr0 1 (some 0)], (withCorr c).corr.find? (fun c => c.utype = 3 && c.unit = 0) = some c)
    ∧ now small < 0 + 1000000000 := by
  exact ⟨⟨rfl, rfl, rfl, rfl, rfl, rfl, rfl, rfl⟩, by decide, by decide, by decide, by decide, by decide, fun a => tables_none _ _ rfl, by decide, by decide,
    by decide, by decide +kernel, by decide, by decide, by decide, ⟨rfl, rfl, rfl, rfl, rfl, rfl, rfl, rfl⟩, by decide, by decide, by decide, by decide⟩


/-! ## The spec's own worked examples -/

-- The SCAN example after R280: 0.75 × 2.5 + 0.5 = 2.375 and 0.75 × 0.5234375 + 0.5 = 0.892578125, exact.
theorem test_scan_example_step : ffma 0x3F400000 0x40200000 0x3F000000 = (0x40180000, 0)
    ∧ ffma 0x3F400000 0x3F060000 0x3F000000 = (0x3F648000, 0) := by decide +kernel

-- The same example's store: 2.0703125 is a tie; RNE keeps the even 2.0625, SR goes up from r = 0x800000 on.
theorem test_bf16_tie : narrow bf16 .rne true (dec32 0x40048000) = (0x4004, flInexact)
    ∧ narrow bf16 (.sr 0x800000) true (dec32 0x40048000) = (0x4005, flInexact)
    ∧ narrow bf16 (.sr 0x7FFFFF) true (dec32 0x40048000) = (0x4004, flInexact) := by decide +kernel

-- The SR example after R55: 1 + 2^-9 with r = 0xD31A07 stores 1.0078125; below 0xC00000 it stores 1.0.
theorem test_sr_example : narrow bf16 (.sr 0xD31A07) true (dec32 0x3F804000) = (0x3F81, flInexact)
    ∧ narrow bf16 (.sr 0xBFFFFF) true (dec32 0x3F804000) = (0x3F80, flInexact) := by decide +kernel

-- R56: +∞ clamped to 448 sets SATURATE alone; without SAT it becomes NaN with INVALID.
theorem test_e4m3_infinity : narrow e4m3 .rne true (dec32 0x7F800000) = (0x7E, flSaturate)
    ∧ narrow e4m3 .rne false (dec32 0x7F800000) = (0x7F, flInvalid) := by decide +kernel

-- The MXFP4 example after R46: block A encodes 5.3, -0.7, 2.4, 0.2 and block B encodes 13.0, 5.0.
theorem test_mxfp4_block_a :
    let r := mxEncode 9 ([0x40A9999A, 0xBF333333, 0x4019999A, 0x3E4CCCCD].map dec32 ++ List.replicate 28 (dec32 0)) (List.replicate 32 .rne)
    r.1 = 0x7F ∧ r.2.1.take 4 = [7, 9, 4, 0] ∧ r.2.2 = flInexact ||| flUnderflow := by decide +kernel

theorem test_mxfp4_block_b :
    let r := mxEncode 9 ([0x41500000, 0x40A00000].map dec32 ++ List.replicate 30 (dec32 0)) (List.replicate 32 .rne)
    r.1 = 0x80 ∧ r.2.1.take 2 = [7, 4] ∧ r.2.2 = flInexact := by decide +kernel

-- The Quince example after R155: the header 0x000412A5, the table byte 0x11, and the first four elements.
def quinceTab : List Byte := [0x11, 0x7A, 0x7B, 0x79] ++ List.replicate 12 0

theorem test_quince_header : blkHdr 0x000412A5 = { mode := 1, gen := 1, len4 := 42, fmt := 1, cntA := 4, cntB := 0 }
    ∧ blkHdrWord { mode := 1, gen := 1, len4 := 42, fmt := 1, cntA := 4, cntB := 0 } = 0x000412A5 := by decide

theorem test_quince_elements : tabValid quinceTab = true ∧ tabCw quinceTab = 2
    ∧ escDecode 1 quinceTab [(0x4C, 0), (0x93, 1), (0x84, 3), (0x70, 2)] [0x82] = some [0x3D4C, 0xBD93, 0xC104, 0x3CF0] := by decide +kernel

-- The Fumarole example after R366: NQ = 2, NB = 64, DH = 128 and 4,198,912 B take 9,225 core cycles.
theorem test_fumarole_example :
    fumCycles { nq := 2, nb := 64, dh := 128, causal := false, norm := true, save := false, qfmt := 1, scale := 0, qaddr := 0, qiaddr := 0
                blist := 0, oaddr := 0, saddr := 0 } (2 * 128 * 2 + 64 * keyBlockLen 128 1) = 9225
    ∧ 2 * 128 * 2 + 64 * keyBlockLen 128 1 = 4198912 := by decide +kernel

-- R619: the supply level of an input voltage.
theorem test_supply_levels : [42000, 41999, 41000, 40999, 39999, 38999].map levelOf' = [0, 1, 1, 2, 3, 4] := by decide

/-! ## Single steps -/

def supplyLevelOf (o : Host.Outcome State Fault Refusal) : Option Nat := match o with | .next s => some s.pwr.supply | _ => none
def timeOf (o : Host.Outcome State Fault Refusal) : Option Nat := match o with | .next s => some (now s) | _ => none
def queueOf (o : Host.Outcome State Fault Refusal) : Option (List Instr) := match o with | .next s => some s.pending | _ => none
def stopsBeyond (o : Host.Outcome State Fault Refusal) : Bool := match o with | .fault .beyondRatings => true | _ => false
def vecOf (o : Host.Outcome State Fault Refusal) : Option (W32 × W32 × Flags) :=
  match o with | .next s => some (vGet (engOf s 0) 2 0, vGet (engOf s 0) 2 1, (engOf s 0).flags) | _ => none

-- R619: a sample of 41.5 V raises the level to 1; R687: one of 81 V stops the model.
theorem test_supply_sample : supplyLevelOf (exec (.supplySample 41500 37500) small) = some 1 := by decide +kernel
theorem test_supply_beyond : stopsBeyond (exec (.supplySample 81000 0) small) = true := by decide +kernel

-- R614: one XFAB cycle is 0.625 ns, so eight are 5 ns.
theorem test_idle_time : timeOf (step (relocked 0)) = some 0 ∧ timeOf (step (relocked (7 * 687194767360))) = some 5 := by decide +kernel

-- A step takes the front of the queue and leaves the rest.
theorem test_queue_order : queueOf (step { small with pending := [.gapTick 0, .flr 3] }) = some [.flr 3] := by decide +kernel

-- R124: 1.5 + 2.25 = 3.75; ∞ + (-∞) is NaN and sets INVALID.
def vadd0 : VArgs := { v0 with n := 2, vd := 2, va := 0, vb := 1 }
def vecState : State := setEng small 0 (fun g => vPutAll (vPutAll g 0 [(0, 0x3FC00000), (1, 0x7F800000)]) 1 [(0, 0x40100000), (1, 0xFF800000)])
theorem test_vadd : vecOf (exec (.vadd 0 vadd0) vecState) = some (0x40700000, 0x7FC00000, flInvalid) := by decide +kernel

/-! ## Instruction words: each field at the bits that its layout's table gives -/

-- R181: BR to instruction 9; LOOP to 9 on counter 1, 4 times.
theorem test_decode_ctrl : decodeWord 3 (BitVec.ofNat 128 (2 ^ 121 + 9 * 2 ^ 106)) = some (.br 3 { ctrl0 with target := 9 })
    ∧ decodeWord 3 (BitVec.ofNat 128 (2 ^ 120 + 9 * 2 ^ 106 + 2 ^ 104 + 4 * 2 ^ 37)) = some (.loop 3 { ctrl0 with target := 9, lc := 1, imm := 4 }) := by
  decide +kernel

-- R184: BARWAIT of barrier 2 for 3; R185: XREQ of the descriptor at 0x40 to pair 1.
theorem test_decode_sync : decodeWord 0 (BitVec.ofNat 128 (0x88 * 2 ^ 120 + 2 * 2 ^ 112 + 3 * 2 ^ 96)) = some (.barwait 0 ⟨2, 3, 0⟩) := by decide +kernel
theorem test_decode_xfer : decodeWord 0 (BitVec.ofNat 128 (0x80 * 2 ^ 120 + 0x40 * 2 ^ 98 + 2 ^ 97 + 2 ^ 95)) = some (.xreq 0 ⟨0x40, true, 1, 0, false⟩) := by
  decide +kernel

-- R120: VADD of 5 elements, VD 1, VA 2, VB 3, under mask 4; R118: VGEOM of rows of 16.
theorem test_decode_vector :
    decodeWord 0 (BitVec.ofNat 128 (0x20 * 2 ^ 120 + 5 * 2 ^ 107 + 2 ^ 103 + 2 * 2 ^ 99 + 3 * 2 ^ 95 + 4 * 2 ^ 88 + 2 ^ 87)) =
      some (.vadd 0 { v0 with n := 5, vd := 1, va := 2, vb := 3, msk := 4, men := true })
    ∧ decodeWord 0 (BitVec.ofNat 128 (0x58 * 2 ^ 120 + 16 * 2 ^ 107)) = some (.vgeom 0 ⟨16, 0, 0, false, 0, false⟩) := by decide +kernel

-- R121: VLD of 8 BF16 elements from 0x100 of tile 2, STRIDE -64; R122: VGATH with LIM 7.
theorem test_decode_loads :
    decodeWord 0 (BitVec.ofNat 128 (0x48 * 2 ^ 120 + 8 * 2 ^ 107 + 2 ^ 94 + 2 * 2 ^ 84 + 0x100 * 2 ^ 62 + (2 ^ 20 - 64) * 2 ^ 29)) =
      some (.vld 0 { m0 with n := 8, fmt := 1, tile := 2, addr := 0x100, stride := -64 })
    ∧ decodeWord 0 (BitVec.ofNat 128 (0x4A * 2 ^ 120 + 2 ^ 107 + 0x7F * 2 ^ 83 + 7 * 2 ^ 39)) = some (.vgath 0 { gl with vd := 0, lim := 7 }) := by
  decide +kernel

-- R82: MXE_MMA of one row, BF16, ACCZ, astride 1; R270: SCAN of 256 elements of width 1; R350: ATTN_STEP on key block 0x2000.
theorem test_decode_tensor :
    decodeWord 0 (BitVec.ofNat 128 (0x11 * 2 ^ 120 + 2 ^ 116 + 2 ^ 113 + 2 ^ 97 + 2 ^ 60)) = some (.mxeMma 0 { mma0 with astride := 1 })
    ∧ decodeWord 0 (BitVec.ofNat 128 (0x60 * 2 ^ 120 + 256 * 2 ^ 107 + 3 * 2 ^ 103 + 2 ^ 95 + 2 * 2 ^ 91 + 2 ^ 85 + 2 ^ 72)) =
      some (.scan 0 ⟨256, 3, 0, 1, 2, 0, false, 1, 1, 0, false⟩)
    ∧ decodeWord 0 (BitVec.ofNat 128 (0x71 * 2 ^ 120 + 0x80 * 2 ^ 103)) = some (.attnStep 0 ⟨false, 0x80, false, 0, 0, 0, false⟩) := by decide +kernel

-- R77, R124, R179, R269, R346: no class lists these opcodes.
theorem test_decode_reserved : [0x07, 0x13, 0x27, 0x5A, 0x63, 0x77, 0x82, 0x8D, 0xFF].all
    (fun op => (decodeWord 0 (BitVec.ofNat 128 (op * 2 ^ 120))).isNone) = true := by decide +kernel

end Sys2Proof.Tests
end

section
/-! The counter clears: what the counter registers of each block read, and that a clear with CLR sets them to 0. -/

namespace Sys2Proof.Machine

theorem bitAt_eq_testBit (v i : Nat) : bitAt v i = v.testBit i := Nat.testBit_eq_decide_div_mod_eq.symm

theorem bitAt_toNat {w : Nat} (v : BitVec w) (i : Nat) : bitAt v.toNat i = v.getLsbD i := by
  rw [bitAt_eq_testBit, BitVec.testBit_toNat]

/-! ## What the counter registers read

No register at a fixed offset of a block stands in a run of its counters, and the runs of one block are disjoint. -/

/-- The registers of a run hold the entries of its list, 8 bytes apart. -/
theorem cntReg_add (l : List Nat) (base k : Nat) : cntReg l base (base + 8 * k) = l.getD k 0 := by
  have hk : (base + 8 * k - base) / 8 = k := by omega
  have hin : (decide (base ≤ base + 8 * k) && decide ((base + 8 * k - base) % 8 = 0)) = true := by
    rw [Bool.and_eq_true, decide_eq_true_eq, decide_eq_true_eq]
    omega
  rw [cntReg, if_pos hin, hk]

/-- A block's test that an offset is in the run of counters from `base` up to `bound`. -/
theorem inRun_iff (base bound off : Nat) : (decide (base ≤ off) && decide (off < bound)) = true ↔ base ≤ off ∧ off < bound := by
  rw [Bool.and_eq_true, decide_eq_true_eq, decide_eq_true_eq]

theorem readTile_cnt (s : State) (t : Nat) {k : Nat} (h : k < 5) : readTile s t (0x48 + 8 * k) = (getTile s t).cnt.getD k 0 := by
  unfold readTile
  split
  any_goals omega
  simp only [inRun_iff]
  rw [if_pos (by omega), cntReg_add]

theorem readTile_mxeCnt (s : State) (t : Nat) {k : Nat} (h : k < 8) : readTile s t (0x420 + 8 * k) = (getTile s t).mxeCnt.getD k 0 := by
  unfold readTile
  split
  any_goals omega
  simp only [inRun_iff]
  rw [if_neg (by omega), if_pos (by omega), cntReg_add]

theorem readTile_vecCnt (s : State) (t : Nat) {k : Nat} (h : k < 6) : readTile s t (0x510 + 8 * k) = (getTile s t).vecCnt.getD k 0 := by
  unfold readTile
  split
  any_goals omega
  simp only [inRun_iff]
  rw [if_neg (by omega), if_neg (by omega), if_pos (by omega), cntReg_add]

theorem readTile_attCnt (s : State) (t : Nat) {k : Nat} (h : k < 4) : readTile s t (0x618 + 8 * k) = (getTile s t).attCnt.getD k 0 := by
  unfold readTile
  split
  any_goals omega
  simp only [inRun_iff]
  rw [if_neg (by omega), if_neg (by omega), if_neg (by omega), if_pos (by omega), cntReg_add]

theorem readGey_cnt (s : State) (c : Nat) {k : Nat} (h : k < 7) : readGey s c (0x38 + 8 * k) = (getGey s c).cnt.getD k 0 := by
  unfold readGey
  split
  any_goals omega
  simp only [inRun_iff]
  rw [if_pos (by omega), cntReg_add]

theorem readOrc_orcCnt (s : State) (p : Nat) {k : Nat} (h : k < 11) : readOrc s p (0x28 + 8 * k) = (getPart s p).orcCnt.getD k 0 := by
  unfold readOrc
  split
  any_goals omega
  simp only [inRun_iff]
  rw [if_pos (by omega), cntReg_add]

theorem readOrc_kvCnt (s : State) (p : Nat) {k : Nat} (h : k < 8) : readOrc s p (0x120 + 8 * k) = (getPart s p).kvCnt.getD k 0 := by
  unfold readOrc
  split
  any_goals omega
  simp only [inRun_iff]
  rw [if_neg (by omega), if_pos (by omega), cntReg_add]

theorem readPart_mgtCnt (s : State) (p : Nat) {k : Nat} (h : k < 5) : readPart_ s p (0x28 + 8 * k) = (getPart s p).mgtCnt.getD k 0 := by
  unfold readPart_
  split
  any_goals omega
  simp only [inRun_iff]
  rw [if_pos (by omega), cntReg_add]

theorem readTdm_cnt (s : State) (n : Nat) {k : Nat} (h : k < 6) : readTdm s n (0xA8 + 8 * k) = (getPort s n).cnt.getD k 0 := by
  unfold readTdm
  split
  any_goals omega
  simp only [inRun_iff]
  rw [if_neg (by omega), if_pos (by omega), cntReg_add]

theorem readPwr_cnt (s : State) {k : Nat} (h : k < 2) : readPwr s (0x18 + 8 * k) = [s.pwr.cntThrottle, s.pwr.cntSupply].getD k 0 := by
  obtain rfl | rfl : k = 0 ∨ k = 1 := by omega
  · rfl
  · rfl

/-! ## Clears -/

/-- With CLR the instruction leaves `cleared`, in which the `n` counters from `base` of the block read 0; without it, `kept`. -/
def ClearsRun (v : W64) (s : State) (i : Instr) (b : RegBlock) (base n : Nat) (kept cleared : State) : Prop :=
  (v.getLsbD 0 = true → exec i s = .next cleared ∧ ∀ k, k < n → readReg cleared b (base + 8 * k) = 0)
    ∧ (v.getLsbD 0 = false → exec i s = .next kept)

theorem clearsRun_of_exec {v : W64} {s : State} {i : Instr} {b : RegBlock} {base n : Nat} {kept cleared : State}
    (he : exec i s = .next (if bitAt v.toNat 0 then cleared else kept))
    (hr : ∀ k, k < n → readReg cleared b (base + 8 * k) = 0) : ClearsRun v s i b base n kept cleared := by
  rw [bitAt_toNat] at he
  exact ⟨fun h => ⟨by rw [he, if_pos h], hr⟩, fun h => by rw [he, h]; rfl⟩

/-- A counter register that reads an entry of a list reads 0 once the list is cleared. -/
theorem getD_of_zeros {l : List Nat} {n : Nat} (h : l = List.replicate n 0) (k : Nat) : l.getD k 0 = 0 := by
  rw [h, List.getD_eq_getElem?_getD, List.getElem?_replicate]
  split
  · rfl
  · rfl

section Tile
variable {s : State} {t : Nat} (h : t < s.tiles.length) (v : W64)
include h

/-- A tile clear acts on the tile as its access has woken it (R617). -/
theorem getTile_setTile_wakeTile (f : Tile → Tile) : getTile (setTile (wakeTile s t) t f) t = f (getTile (wakeTile s t) t) :=
  getTile_setTile_self _ f (by rwa [wakeTile, setTile_length])

theorem clearsRun_tleMxeCntClr : ClearsRun v s (.tleMxeCntClr t v) (.tile t) 0x420 8 (wakeTile s t)
    (setTile (wakeTile s t) t (fun x => { x with mxeCnt := List.replicate 8 0 })) :=
  clearsRun_of_exec rfl fun k hk => (readTile_mxeCnt _ t hk).trans
    (getD_of_zeros (by rw [getTile_setTile_wakeTile h]) k)

theorem clearsRun_tleVecCntClr : ClearsRun v s (.tleVecCntClr t v) (.tile t) 0x510 6 (wakeTile s t)
    (setTile (wakeTile s t) t (fun x => { x with vecCnt := List.replicate 6 0 })) :=
  clearsRun_of_exec rfl fun k hk => (readTile_vecCnt _ t hk).trans
    (getD_of_zeros (by rw [getTile_setTile_wakeTile h]) k)

theorem clearsRun_tleCntClr : ClearsRun v s (.tleCntClr t v) (.tile t) 0x48 5 (wakeTile s t)
    (setTile (wakeTile s t) t (fun x => { x with cnt := List.replicate 5 0, commitMax := 0 })) :=
  clearsRun_of_exec rfl fun k hk => (readTile_cnt _ t hk).trans
    (getD_of_zeros (by rw [getTile_setTile_wakeTile h]) k)

theorem clearsRun_tleAttCntClr : ClearsRun v s (.tleAttCntClr t v) (.tile t) 0x618 4 (wakeTile s t)
    (setTile (wakeTile s t) t (fun x => { x with attCnt := List.replicate 4 0 })) :=
  clearsRun_of_exec rfl fun k hk => (readTile_attCnt _ t hk).trans
    (getD_of_zeros (by rw [getTile_setTile_wakeTile h]) k)

end Tile

theorem clearsRun_geyCntClr {s : State} {c : Nat} (h : c < s.geys.length) (v : W64) :
    ClearsRun v s (.geyCntClr c v) (.geyser c) 0x38 7 s
      (setGey s c (fun g => { g with cnt := List.replicate 7 0, lateMax := 0, lateStream := 0 })) :=
  clearsRun_of_exec rfl fun k hk => (readGey_cnt _ c hk).trans (getD_of_zeros (by rw [getGey_setGey_self s _ h]) k)

section Part
variable {s : State} {p : Nat} (h : p < s.parts.length) (v : W64)
include h

theorem clearsRun_orcCntClr : ClearsRun v s (.orcCntClr p v) (.orchard p) 0x28 11 s
    (setPart s p (fun x => { x with orcCnt := List.replicate 11 0 })) :=
  clearsRun_of_exec rfl fun k hk => (readOrc_orcCnt _ p hk).trans (getD_of_zeros (by rw [getPart_setPart_self s _ h]) k)

theorem clearsRun_orcKvCntClr : ClearsRun v s (.orcKvCntClr p v) (.orchard p) 0x120 8 s
    (setPart s p (fun x => { x with kvCnt := List.replicate 8 0 })) :=
  clearsRun_of_exec rfl fun k hk => (readOrc_kvCnt _ p hk).trans (getD_of_zeros (by rw [getPart_setPart_self s _ h]) k)

theorem clearsRun_mgtPartCntClr : ClearsRun v s (.mgtPartCntClr p v) (.mgtPart p) 0x28 5 s
    (setPart s p (fun x => { x with mgtCnt := List.replicate 5 0 })) :=
  clearsRun_of_exec rfl fun k hk => (readPart_mgtCnt _ p hk).trans (getD_of_zeros (by rw [getPart_setPart_self s _ h]) k)

end Part

theorem clearsRun_tdmCntClr {s : State} {n : Nat} (h : n < s.ports.length) (v : W64) :
    ClearsRun v s (.tdmCntClr n v) (.tdm n) 0xA8 6 s (setPort s n (fun q => { q with cnt := List.replicate 6 0 })) :=
  clearsRun_of_exec rfl fun k hk => (readTdm_cnt _ n hk).trans (getD_of_zeros (by rw [getPort_setPort_self s _ h]) k)

theorem clearsRun_pwrCntClr (s : State) (v : W64) : ClearsRun v s (.pwrCntClr v) .pwr 0x18 2 s
    { s with pwr := { s.pwr with cntThrottle := 0, cntSupply := 0 } } :=
  clearsRun_of_exec rfl fun k hk => (readPwr_cnt _ hk).trans (getD_of_zeros (n := 2) rfl k)

/-- Settles O22, clear by clear: each sets its list of counters to zeros, and the registers of its block read that list. -/
theorem counterClears : Obligations.CounterClears := by
  intro s v t c p n hs ht hc hp hn z all
  obtain ⟨-, -, hparts, htiles, hgeys, -, -, hports⟩ := hs
  rw [← htiles] at ht
  rw [← hgeys] at hc
  rw [← hparts] at hp
  rw [← hports] at hn
  simp only [all, List.forall_mem_cons]
  exact ⟨clearsRun_tleMxeCntClr ht v, clearsRun_tleVecCntClr ht v, clearsRun_tleCntClr ht v, clearsRun_tleAttCntClr ht v,
    clearsRun_geyCntClr hc v, clearsRun_orcCntClr hp v, clearsRun_orcKvCntClr hp v, clearsRun_mgtPartCntClr hp v,
    clearsRun_tdmCntClr hn v, clearsRun_pwrCntClr s v, List.forall_mem_nil _⟩

end Sys2Proof.Machine
end

section
/-! The element-wise instructions of the vector engine: what one that R132 accepts leaves, whatever it computes (R116, R117, R139), and
those that select, narrow, count up and permute (R49, R56 to R58, R124, R129). -/

namespace Sys2Proof.Machine

/-! ## Fields (R132) -/

/-- R132 accepts at most 4,096 elements. -/
theorem n_le_of_vFields {a : VArgs} {u : VUse} (h : vFields a u = true) : a.n.toNat ≤ 4096 := by
  simp only [vFields, Bool.and_eq_true, decide_eq_true_eq] at h
  omega

/-- An opcode without RMODE rounds RNE. -/
theorem rmode_eq_zero_of_vFields {a : VArgs} {u : VUse} (h : vFields a u = true) (hu : u.rnd = false) : a.rmode = 0 := by
  simp only [vFields, hu, Bool.and_eq_true, Bool.false_or, decide_eq_true_eq] at h
  obtain ⟨⟨⟨⟨-, hrmode, -⟩, -⟩, -⟩, -⟩ := h
  exact hrmode

/-- RNE needs no row of the work list. -/
theorem rowsOk_of_vFields {a : VArgs} {u : VUse} (h : vFields a u = true) (hu : u.rnd = false) (x : VCtx) (geo : Geom) :
    rowsOk x geo a.n.toNat a.rmode.toNat = true := by
  simp [rowsOk, rmode_eq_zero_of_vFields h hu]

/-! ## The engine after an element-wise instruction -/

/-- The part of ElementWise that speaks of the engine: g' has the results `f` of the active elements, their flags, and else what g has. -/
def LaneEffect (g g' : Engine) (a : VArgs) (f : Nat → W32 × Flags) : Prop :=
  LanesHold g g' a (fun e => (f e).1) ∧ FlagsHold g g' a (fun e => (f e).2) ∧ OnlyReg g g' a.vd.toNat a.n.toNat

/-- Which elements are narrowed values (R284) is neither contents nor flag. -/
theorem LaneEffect.vNarrow {g g' : Engine} {a : VArgs} {f : Nat → W32 × Flags} (h : LaneEffect g g' a f) (src : Nat → Bool) :
    LaneEffect g (vNarrow a g g' src) a f := by
  obtain ⟨hlanes, hflags, hother, heng⟩ := h
  refine ⟨hlanes, hflags, hother, ?_⟩
  rw [Machine.vNarrow, markNarrow, heng]

/-- What a lane operation leaves is such an effect. -/
theorem laneEffect_vLane {g : Engine} (hw : g.Wf) {a : VArgs} {u : VUse} (hf : vFields a u = true) (f : Nat → W32 × Flags) :
    LaneEffect g (vLane a g f) a f := vLane_holds hw (n_le_of_vFields hf) f

/-- The command's task and job are as they were when its instruction is dispatched. -/
theorem vctx_atDispatch (s : State) (t : Nat) (c : Cmd) : vctx (atDispatch s t c) (dispatched c) = vctx s c := rfl

/-- The element at an index that is no negative number (R129). -/
theorem pickLane_natCast (g : Engine) (va n k : Nat) :
    pickLane g va n (k : Int) = if n ≤ k then (0, flRange) else (vGet g va k, 0) := by
  have hk : ((k : Int) < 0 ∨ (n : Int) ≤ k) ↔ n ≤ k := by omega
  simp only [pickLane, hk, Int.toNat_natCast]

section Vector
variable {s : State} {t : Nat} {c : Cmd} {a : VArgs} (h : EngineRuns s t c) (hp : a.par = false)
include h hp

/-- An instruction that runs on accepted fields and has the effect of a lane operation is element-wise. -/
theorem elementWise_of_runVec {i : Instr} {ok : Bool} {F : VCtx → Engine → VOut} {f : Nat → W32 × Flags}
    (he : exec i s = runVec s t i a ok F) (hi : classOf i = some .vector) (hok : ok = true)
    (hr : rowsOk (vctx s c) (engOf s t).geom a.n.toNat a.rmode.toNat = true)
    (hempty : (F (vctx s c) (engOf s t)).empty = 0) (heng : LaneEffect (engOf s t) (F (vctx s c) (engOf s t)).eng a f) :
    ElementWise s t c a i f := by
  have hrun := runVecFor_ok (f := F) (busy := passes a.n.toNat) h (by rw [hi]; rfl) hp hok hr
  simp only [vctx_atDispatch, hempty] at hrun
  exact ⟨_, _, he.trans hrun, heng⟩

variable (hw : (engOf s t).Wf)
include hw

/-! ## Selection and conversion (R49, R56 to R58, R124) -/

theorem elementWise_vsel (hf : vFields a { va := true, vb := true, ms := true } = true) :
    ElementWise s t c a (.vsel t a) (fun e => (if mGet (engOf s t) a.ms.toNat e then srcA s t a e else srcB s t a e, 0)) :=
  elementWise_of_runVec h hp (exec_vsel t a s) rfl hf (rowsOk_of_vFields hf rfl _ _) rfl ((laneEffect_vLane hw hf _).vNarrow _)

theorem elementWise_vcvtF2i (hf : vFields a { va := true, rnd := true } = true)
    (hr : rowsOk (vctx s c) (engOf s t).geom a.n.toNat a.rmode.toNat = true) :
    ElementWise s t c a (.vcvtF2i t a) (fun e => f2i (vMode (vctx s c) a (engOf s t) e) (dec32 (srcA s t a e))) :=
  elementWise_of_runVec h hp (exec_vcvtF2i t a s) rfl hf hr rfl (laneEffect_vLane hw hf _)

theorem elementWise_vqnt (hf : vFields a { va := true, rnd := true, sat := true, fmt := true } = true)
    (hfmt : fmtAct a.fmt.toNat = true) (hr : rowsOk (vctx s c) (engOf s t).geom a.n.toNat a.rmode.toNat = true) :
    ElementWise s t c a (.vqnt t a)
      (fun e => quantWord a.fmt.toNat (vMode (vctx s c) a (engOf s t) e) a.sat (srcA s t a e)) :=
  elementWise_of_runVec h hp (exec_vqnt t a s) rfl (Bool.and_eq_true_iff.2 ⟨hf, hfmt⟩) hr rfl
    ((laneEffect_vLane hw hf _).vNarrow _)

/-! ## Index patterns and permutes (R124, R129) -/

theorem elementWise_viota (hf : vFields a { sub := true, imm := true } = true) (hsub : a.sub.toNat < 2) :
    ElementWise s t c a (.viota t a) (iotaWord a (engOf s t).geom) :=
  elementWise_of_runVec h hp (exec_viota t a s) rfl (Bool.and_eq_true_iff.2 ⟨hf, decide_eq_true hsub⟩)
    (rowsOk_of_vFields hf rfl _ _) rfl (laneEffect_vLane hw hf _)

theorem elementWise_vperm (hf : vFields a { va := true, vb := true } = true) :
    ElementWise s t c a (.vperm t a) (fun e => pickLane (engOf s t) a.va.toNat a.n.toNat (srcB s t a e).toInt) :=
  elementWise_of_runVec h hp (exec_vperm t a s) rfl hf (rowsOk_of_vFields hf rfl _ _) rfl (laneEffect_vLane hw hf _)

theorem elementWise_vbci (hf : vFields a { imm := true } = true) : ElementWise s t c a (.vbci t a) (fun _ => (a.imm, 0)) :=
  elementWise_of_runVec h hp (exec_vbci t a s) rfl hf (rowsOk_of_vFields hf rfl _ _) rfl (laneEffect_vLane hw hf _)

/-- VBCE takes IMM[11:0] alone, whatever the other bits of IMM (notes/assumptions/73.md). -/
theorem elementWise_vbce (hf : vFields a { va := true, imm := true } = true) :
    ElementWise s t c a (.vbce t a) (fun _ =>
      if a.n.toNat ≤ a.imm.toNat % 4096 then (0, flRange) else (srcA s t a (a.imm.toNat % 4096), 0)) := by
  have hpick := pickLane_natCast (engOf s t) a.va.toNat a.n.toNat (a.imm.toNat % 4096)
  refine elementWise_of_runVec h hp (exec_vbce t a s) rfl hf (rowsOk_of_vFields hf rfl _ _) rfl ?_
  simp only [hpick]
  exact laneEffect_vLane hw hf _

end Vector

/-- Settles O7, instruction by instruction: each is a lane operation with the word and the flags that its rule gives an element. -/
theorem vectorSelectAndConvert : Obligations.VectorSelectAndConvert := by
  intro s t c a h hw hp g A mode
  exact ⟨elementWise_vsel h hp hw, elementWise_vcvtF2i h hp hw, elementWise_vqnt h hp hw, elementWise_viota h hp hw,
    elementWise_vperm h hp hw, elementWise_vbci h hp hw, elementWise_vbce h hp hw⟩

end Sys2Proof.Machine
end
